-- ==== Sys2Proof/Word.lean ====
section
/-! DEFINITION. The word types and their plainest arithmetic (02_thread_state_and_word.md, R3, R26, R47). -/

namespace Sys2Proof

/-- One byte. -/
abbrev Byte := BitVec 8

/-- A general register, an address or a special register (R18). -/
abbrev Word := BitVec 64

/-- One vector register: 16 lanes of 32 bits (R18, R89). -/
abbrev VReg := Vector (BitVec 32) 16

/-- The lanes of one directional register: 32 lanes of 16 bits, Q1.14 (R18, R61). -/
abbrev DLanes := Vector (BitVec 16) 32

/-- An instruction word of 96 bits (R25). -/
abbrev IWord := BitVec 96

end Sys2Proof
end

