-- ==== Sys2Proof/Config.lean ====
section
/-! DEFINITION. What the manual leaves open: free values, which nothing in Lean can evaluate (opaque, no body), and
what an implementation fixes. notes/assumptions/7.md. -/

namespace Sys2Proof.Config

/-- A byte the manual leaves open, by the counter `State.free` (R300: bytes read under another key; R345). -/
opaque freeByte : Nat → Byte

/-- A measurement: the manual gives neither its function nor the encoding of what is measured (R345). -/
opaque hash : List Byte → Word

/-- A rounding that the enclosures of `Flags.lean` do not decide: which of two neighbouring results a special function
delivers (R116). -/
opaque undecided : Nat → Bool

/-- The load that a request for leave puts on a die's governor, of a command of this size (R353 names no unit). -/
opaque load : Nat → Nat

/-- The mailbox that the SRC of a notice names where the manual states no SRC, by core (R166, R270, R293). -/
opaque noticeMbx : Nat → BitVec 6

/-- Bytes that a frame with this much data takes on a port, for event 0x0080, which the manual does not define further (R229). -/
opaque portBytes : Nat → Nat

/-- General-core cycles in the cycle of this number, for event 0x0081: the general cores' clock is not given (R229). -/
opaque generalCycles : Nat → Nat

/-- Entries that a core TLB holds beside its most recently used one: the manual gives no size (R241). -/
opaque coreTlbMore : Nat

/-- Magic word, format version and body of a handover structure, by the counter `State.free`: the manual gives none (R347). -/
opaque handoverMagic : BitVec 32
opaque handoverVersion : BitVec 16
opaque handoverBody : Nat → List Byte

/-- The loader's AAD, the SRC of launch messages (R188). -/
opaque loaderAad : BitVec 32

end Sys2Proof.Config
end

