-- ==== Sys2Proof/Syntax.lean ====
section
/-! DEFINITION. The instructions and events of the LY4: one constructor of `Instr` for each row of the opcode table.
The first 173 forms are the words of R37 (a row that names one form of a major opcode is a constructor of its own);
the rows after them are the steps of the device, of Pelson and of the outside world that 95_what_each_step_holds.md lists. -/

namespace Sys2Proof

/-! ## Operands of the 96-bit word -/

/-- Guard and hints (R32, R33): GRD, RDY, YLD, LSB, LSC. -/
structure Hdr where
  grd : BitVec 4
  rdy : BitVec 4 := 0
  yld : Bool := false
  lsb : Bool := false
  lsc : Bool := false
  deriving DecidableEq, Repr

/-- A g operand: g0-g31, or a queue register q0-q3 (R67). -/
inductive GQ where
  | g (i : BitVec 5)
  | q (i : BitVec 2)
  deriving DecidableEq, Repr

/-- A v operand: v0-v31, or a queue register q4-q7, held as 0-3 (R88). -/
inductive VQ where
  | v (i : BitVec 5)
  | q (i : BitVec 2)
  deriving DecidableEq, Repr

/-- A second source: a register, or IMM when FC (or FB) is absent (R29). -/
inductive Src2 where
  | reg (x : GQ)
  | imm (x : BitVec 32)
  deriving DecidableEq, Repr

/-- A vector second source: a v operand, or a g operand broadcast to every element (R91). -/
inductive VSrc where
  | vec (x : VQ)
  | bc (x : GQ)
  deriving DecidableEq, Repr

/-- Size modifier (R31). -/
inductive Size where
  | b | h | w | d
  deriving DecidableEq, Repr

/-- Integer element size of a vector instruction (R89). -/
inductive ESize where
  | b | h | w
  deriving DecidableEq, Repr

/-- Rounding field (R31). -/
inductive Rm where
  | dyn | rne | rtz | rup | rdn
  deriving DecidableEq, Repr

/-- Scope of a memory or ordering instruction (R31, R143). -/
inductive Scope where
  | act | core | clu | die | pkg | fab
  deriving DecidableEq, Repr

/-- Floating-point format of an element (R89). -/
inductive FFmt where
  | bf16 | f16 | f32
  deriving DecidableEq, Repr

/-- Conditions of CMP (R78). -/
inductive ICond where
  | eq | ne | lt | le | gt | ge | tst
  deriving DecidableEq, Repr

/-- Conditions of FCMP (R79). -/
inductive FCond where
  | eq | ne | lt | le | gt | ge | un
  deriving DecidableEq, Repr

/-- Types of FCVT and VCVT (R95). -/
inductive NType where
  | bf16 | f16 | f32
  | i8 | i16 | i32 | i64
  | n8 | n16 | n32 | n64
  deriving DecidableEq, Repr

/-- Sign operations of FSGN and VSGN with their sign source (R94). -/
inductive Sgn (α : Type) where
  | cpy (c : α) | ncp (c : α) | xor (c : α) | abs
  deriving DecidableEq, Repr

/-- Address operand of the scalar memory instructions: base, optional index, displacement, L (R135). -/
structure MemOp where
  base : GQ
  index : Option GQ
  disp : BitVec 32
  loc : Bool
  deriving DecidableEq, Repr

/-- The two address forms of LEA (R76). -/
inductive LeaForm where
  | disp (d : BitVec 32)
  | index (c : GQ) (s : BitVec 3) (d : BitVec 16)
  deriving DecidableEq, Repr

/-- The forms of PMOV (R81). -/
inductive PmovForm where
  | pp (a b : BitVec 3)
  | pg (a : BitVec 3) (b : GQ)
  | gp (a : GQ) (b : BitVec 3)
  | pack (a : GQ)
  | unpack (b : GQ)
  deriving DecidableEq, Repr

/-- The forms of KMOV (R100). -/
inductive KmovForm where
  | kk (a b : BitVec 3)
  | kg (a : BitVec 3) (b : GQ)
  | gk (a : GQ) (b : BitVec 3)
  | first (a : BitVec 3) (b : GQ)
  deriving DecidableEq, Repr

/-- Ordering of an atomic with its scope (R145). -/
inductive AmoOrd where
  | relaxed | acq (s : Scope) | rel (s : Scope) | ar (s : Scope)
  deriving DecidableEq, Repr

/-- Operations of AMO; `u` is the unsigned form of .min and .max (R145). -/
inductive AmoOp where
  | swap | add | and | or | xor | min (u : Bool) | max (u : Bool) | fadd
  deriving DecidableEq, Repr

/-- Kinds of FENCE (R148). -/
inductive FenceKind where
  | all | ld | st
  deriving DecidableEq, Repr

/-- Levels of PREF (R151). -/
inductive PrefLevel where
  | l1 | cc | home
  deriving DecidableEq, Repr

/-- Comparison of VCMP: .i32 with its condition and .u, or .f32 (R97). -/
inductive VCmpOp where
  | int (c : ICond) (u : Bool)
  | flt (c : FCond)
  deriving DecidableEq, Repr

/-- Reduction of VRED (R105). -/
inductive VRedOp where
  | fadd (rm : Rm) | fmax | fmin
  | iadd (u : Bool) | imax (u : Bool) | imin (u : Bool)
  deriving DecidableEq, Repr

/-- Element index of VEXTR and VINS: a g operand, or an immediate below the element count (R103). -/
inductive Idx where
  | reg (c : GQ)
  | imm (i : BitVec 6)
  deriving DecidableEq, Repr

/-- Form of VLDF; `hi` is H of the .f32 form (R109). -/
inductive VldfForm where
  | bf16 | raw | f32 (hi : Bool)
  deriving DecidableEq, Repr

/-- Form of VSTF; the .f32 form takes a second data register (R109). -/
inductive VstfForm where
  | bf16 | raw | f32 (c : VQ)
  deriving DecidableEq, Repr

/-- Twin-exponent format (R56). -/
inductive TBFmt where
  | tb8 | tb6 | tb4
  deriving DecidableEq, Repr

/-- Scalar or vector form of a special function of one operand (R116). -/
inductive SF1 where
  | sca (a b : GQ)
  | vec (z : Bool) (mk : BitVec 3) (a b : VQ)
  deriving DecidableEq, Repr

/-- Scalar or vector form of DIVF (R116). -/
inductive SF2 where
  | sca (a b c : GQ)
  | vec (z : Bool) (mk : BitVec 3) (a b : VQ) (c : VSrc)
  deriving DecidableEq, Repr

/-- Scalar or vector form of SINCOS: the vector destination is the pair v(2a), v(2a+1) (R119). -/
inductive SFPair where
  | sca (a b : GQ)
  | vec (z : Bool) (mk : BitVec 3) (a : BitVec 4) (b : VQ)
  deriving DecidableEq, Repr

/-- Scalar or vector form of PMERGE (R120). -/
inductive SFMerge where
  | sca (a b c : GQ)
  | vec (z : Bool) (mk : BitVec 3) (a b c : VQ)
  deriving DecidableEq, Repr

/-- DNORM's norm source: none, a g operand, or an immediate code (R124). -/
inductive DnormSet where
  | keep | reg (c : GQ) | imm (c : BitVec 16)
  deriving DecidableEq, Repr

/-- The forms of DCVT; the .f32 destination is the pair v(2a), v(2a+1) (R125). -/
inductive DcvtForm where
  | fromBf16 (rne : Bool) (a : BitVec 4) (b : VQ)
  | fromF32 (rne : Bool) (a : BitVec 4) (b c : VQ)
  | toBf16 (rm : Rm) (a : VQ) (b : BitVec 4)
  | toF32 (rm : Rm) (a : BitVec 4) (b : BitVec 4)
  deriving DecidableEq, Repr

/-- The forms of DMOVN (R126). -/
inductive DmovnForm where
  | dd (a b : BitVec 4)
  | gd (a : GQ) (b : BitVec 4)
  | gf (a : GQ) (b : BitVec 4)
  deriving DecidableEq, Repr

/-- Query of DSIM8: one register, or the pair d(2b), d(2b+1) of .w2 (R131). -/
inductive DsimQuery where
  | w1 (b : BitVec 4)
  | w2 (b : BitVec 3)
  deriving DecidableEq, Repr

/-- Conditions of DTEST (R133). -/
inductive DtestCond where
  | zero | sat | gt (imm : BitVec 32)
  deriving DecidableEq, Repr

/-- Payload of SEND and REPLY: n words from a g register or from one queue, or lanes 0-11 of a v register (R179). -/
inductive SendSrc where
  | regs (b : GQ) (n : BitVec 3)
  | lanes (b : VQ)
  deriving DecidableEq, Repr

/-- Folds of a combining mailbox (R185). -/
inductive ArmOp where
  | add | max (u : Bool) | min (u : Bool) | pmerge
  deriving DecidableEq, Repr

/-- The forms of SELF (R187). -/
inductive SelfForm where
  | aad | aid | grp | mbx (m : BitVec 2)
  deriving DecidableEq, Repr

/-- Target of CALLD: an offset in instructions, or a register (R199). -/
inductive CalldTgt where
  | off (imm : BitVec 32)
  | reg (b : GQ)
  deriving DecidableEq, Repr

/-- The forms of DOMQ (R206). -/
inductive DomqForm where
  | probe (a b : GQ) (disp : BitVec 32) (loc : Bool)
  | depth (a : GQ)
  | caller (a : GQ)
  deriving DecidableEq, Repr

/-- K of MMA and MMAS: an immediate of 17 bits, or a g operand (R259). -/
inductive KSrc where
  | imm (k : BitVec 17)
  | reg (b : GQ)
  deriving DecidableEq, Repr

/-- Operations of MEWISE with their second operand (R262). -/
inductive EwOp where
  | mul (rm : Rm) (b : GQ) | add (rm : Rm) (b : GQ) | max (b : GQ) | min (b : GQ)
  | mulv (rm : Rm) (sw : BitVec 4) | addv (rm : Rm) (sw : BitVec 4)
  deriving DecidableEq, Repr

/-- The forms of READC (R280). -/
inductive ReadcForm where
  | assigned | present | failed
  deriving DecidableEq, Repr

/-- Count of WAITC: a g operand or an immediate (R279). -/
inductive WaitSrc where
  | reg (c : GQ)
  | imm (n : BitVec 32)
  deriving DecidableEq, Repr

/-- Event number of GSIG: IMM bits 7:0 or a g operand (R326). -/
inductive EvSrc where
  | imm (e : BitVec 8)
  | reg (b : GQ)
  deriving DecidableEq, Repr

/-- Addend of GSIG: IMM bits 31:8 or a g operand (R326). -/
inductive AddSrc where
  | imm (n : BitVec 24)
  | reg (c : GQ)
  deriving DecidableEq, Repr

/-- Value of LOGMARK: a g operand or IMM bits 23:0 (R224). -/
inductive MarkSrc where
  | imm (n : BitVec 24)
  | reg (b : GQ)
  deriving DecidableEq, Repr

/-- The special registers of R21. -/
inductive SReg where
  | wsp | aid | aad | dom | flg | fen | rnd | cyc | reft | hused
  | svb | svl | mlen | hbud | logp | sfqh | mqw | supv | sid
  deriving DecidableEq, Repr

/-! ## Messages and the parameters of events -/

/-- A lend window (R201). -/
structure Window where
  base : BitVec 56
  len : Nat
  ldom : BitVec 6
  write : Bool
  /-- which LEND of its activation opened it: the model's own field, which tells equal ranges apart -/
  no : Nat := 0
  deriving DecidableEq, Repr

/-- Who placed a message: what a put of a transmit request reads its source with, and what its faults name (R359). -/
structure Issuer where
  dom : BitVec 6
  windows : List Window
  aid : BitVec 48
  slot : Nat
  /-- first cycle of its activation, which tells it from others of its slot -/
  born : Nat
  deriving DecidableEq, Repr

/-- What Pelson does with a notice that is for itself: it takes it, records it in the fault-notice window, also ends the context, or
counts the stop of a core as complete (R40, R293, R310, R338, R343). -/
inductive PelsonUse where
  | take | record | terminate | stopped
  deriving DecidableEq, Repr

/-- A message: header fields and payload (R166). COL is 0 Indigo, 1 Ochre, 2 Madder. -/
structure Msg where
  dst : BitVec 32
  cls : BitVec 4
  col : BitVec 2 := 0
  seq : BitVec 16 := 0
  rel : Bool := false
  src : BitVec 32
  tag : BitVec 32 := 0
  payload : List Byte
  /-- the graph node whose dispatch it is (R320); no part of the header -/
  node : Option Nat := none
  /-- who placed it; no part of the header -/
  issuer : Option Issuer := none
  /-- a notice for Pelson itself (R40); no part of the header -/
  use : Option PelsonUse := none
  deriving DecidableEq, Repr

/-- What travels on the mesh as one packet and is delivered at a router's local port (R288). A message that has entered the mesh
carries SVB and SVL of its source's partition at that time (R293). -/
inductive Packet where
  | message (m : Msg) (entered : Option (Nat × Nat) := none)
  | stop (issuer : BitVec 32)
  /-- `there`: it is at the local port of its router -/
  | go (there : Bool)
  deriving DecidableEq, Repr

/-- The context, core and slot an activation occupies; `core` is node * 8 + core of the node (R165). -/
structure SlotId where
  ctx : Nat
  core : Nat
  slot : Nat
  deriving DecidableEq, Repr

/-- Which stream of an activation (R42). -/
inductive Stream where
  | main | access
  deriving DecidableEq, Repr

/-- Who waits for the answer of the graph unit to a submission: nobody, the stream of a GSUB, or a submit frame (R325, R340). -/
inductive Answer where
  | none | stream (t : SlotId) (s : Stream) | frame (f : BitVec 4)
  deriving DecidableEq, Repr

/-- An actor as the loader places it: attributes of R164 and R190, mailboxes and handlers of R188, state bytes of R235. -/
structure ActorDecl where
  node : Nat
  core : Nat
  aid : BitVec 48
  group : BitVec 16
  parallel : Bool
  priv : Bool
  stksz : Nat
  hdom : BitVec 6
  state : List Byte
  /-- (mailbox, kind: none for combining, some (depth, spill, priority) for queue, bobbin base and size) -/
  mailboxes : List (Nat × Option (Nat × Bool × Nat) × Nat × Nat)
  /-- (mailbox, class, address, idempotent) -/
  handlers : List (Nat × Nat × BitVec 64 × Bool)
  deriving DecidableEq, Repr

/-- One launch message of the loader (R161, R188): the actor it is for, by its place in the plan's list, the mailbox, class,
payload. -/
structure LaunchMsg where
  actor : Nat
  mbx : BitVec 2
  cls : BitVec 4
  payload : List Byte
  deriving DecidableEq, Repr

/-- What a section holds: instructions, data, or data that is only read (R236, R239). -/
inductive SectionKind where
  | code | data | ro
  deriving DecidableEq, Repr

/-- One section as the loader maps it (R160, R236): its address, if it has one, physical base of its pages, kind, domain, bytes. -/
structure SectionMap where
  va : Option (BitVec 64)
  phys : Nat
  kind : SectionKind
  dom : BitVec 6
  bytes : List Byte
  deriving DecidableEq, Repr

/-- Where a launch uses the address of a label: n bytes at an offset of a section, of an actor's state or of a launch message's payload,
or a handler of an actor. -/
inductive LabelPlace where
  | part (i off n : Nat)
  | state (actor off n : Nat)
  | payload (msg off n : Nat)
  | handler (actor i : Nat)
  deriving DecidableEq, Repr

/-- A use of a label whose value the loader supplies from the placement of its section (R372): where, the label's section and its offset
in it, and how far the value is shifted right, as for LDIH. -/
structure LabelUse where
  place : LabelPlace
  section_ : Nat
  offset : Nat
  shift : Nat := 0
  deriving DecidableEq, Repr

/-- What one launch places (R235-R239): sections, C bits of the rights table, actors, launch messages in source order, and uses of
labels. `tables` is physical memory of the partition where the loader puts new page tables. -/
structure LaunchPlan where
  ctx : Nat
  tables : Nat
  sections : List SectionMap
  entries : List (BitVec 6 × BitVec 6)
  actors : List ActorDecl
  msgs : List LaunchMsg
  labels : List LabelUse := []
  deriving DecidableEq, Repr

/-- Fields of descriptors and windows that Pelson, the loader or a guest writes and that no other row writes (R4). -/
inductive Desc where
  | root (ctx : Nat) (addr : BitVec 46)
  | rights (ctx : Nat) (c t : BitVec 6) (v : BitVec 8)
  | grant (ctx : Nat) (v : BitVec 64)
  | keyTable (ctx : Nat) (slots : List Nat)
  | lockstitch (ctx : Nat) (on : Bool)
  | worker (ctx : Nat) (i : BitVec 8) (v : BitVec 64)
  | quota (ctx : Nat) (gq : Nat)
  | slice (ctx : Nat) (ts : Nat)
  | faultQueue (ctx : Nat) (base : Nat)
  | tileTag (ctx : Nat) (cluster : Nat) (block : Nat) (tag : BitVec 6)
  | formatWindow (ctx : Nat) (w : BitVec 4) (w0 w1 w2 w3 : BitVec 64)
  | stash (ctx : Nat) (cluster : Nat) (base : BitVec 64) (size : Nat) (tile : Nat)
  | counterEvent (ctx : Nat) (i : BitVec 4) (ev : BitVec 16) (en : Bool)
  | counterCount (ctx : Nat) (i : BitVec 4) (n : BitVec 64)
  | frameByte (ctx : Nat) (frame : BitVec 4) (off : Nat) (v : Byte)
  | guestDom (ctx : Nat) (d : BitVec 6)
  | debugOwner (ctx : Nat) (core : Nat) (actor : Nat) (owner : BitVec 32)
  | portBind (port : BitVec 4) (ctx : Option Nat) (job : Nat) (rccc : Bool)
  | fabricId (fid : BitVec 13)
  | keyHeld (slot : BitVec 9) (held : Bool)
  | governor (die : Bool) (budget : Nat)
  | powerCap (watts : Nat)
  | memory (addr : Nat) (v : Byte)
  | poison (sector : Nat) (on : Bool)
  | measure (i : Nat) (v : BitVec 64)
  | record (ctx : Nat) (aad : BitVec 32) (ring : Option (Nat × Nat))
  | replay (ctx : Nat) (aad : BitVec 32) (entries : List (BitVec 64))
  | boxOwner (aad : BitVec 32) (on : Bool)
  | exhausted (ctx : Nat)
  | asleep
  | correctedError (stack chan : Nat)
  | guestMemory (ctx : Nat) (base size : Nat)
  | guestByte (ctx : Nat) (addr : Nat) (v : Byte)
  | fuses (patch : BitVec 64) (debugLock : Bool)
  deriving DecidableEq, Repr

/-- The place of a frame among those of its transmit queue to one destination and mode (R361): source port and queue, the
number of times the port has lost the peer, and the number of the frame. -/
structure FrameNo where
  port : Nat := 0
  q : Nat := 0
  epoch : Nat := 0
  n : Nat := 0
  deriving DecidableEq, Repr

/-- What a frame carries between two devices (R358-R363); `remote` is the remote address of its bytes of a put, `trimmed` marks
a frame that the fabric has trimmed (R356), and of the frames of a put, `part` is the place and `more` marks one that does not end it. -/
structure Frame where
  sfid : BitVec 13
  saad : BitVec 32
  job : Nat
  mode : BitVec 8
  kind : BitVec 8
  daad : BitVec 32
  tag : BitVec 32
  cls : BitVec 4
  data : List Byte
  remote : BitVec 64 := 0
  no : FrameNo := {}
  trimmed : Bool := false
  part : Nat := 0
  more : Bool := false
  deriving DecidableEq, Repr

/-- Kinds of access that a walk serves (R310, ACC). -/
inductive AccKind where
  | load | storeCheck | fetch | engine
  /-- of CFLUSH, CINV, PREF or DOMQ: it never enters the fault queue (R309) -/
  | probe
  deriving DecidableEq, Repr

/-- One image slot of the flash (R346): the fields of its header, whether both signatures verify, and the format of the handover
structure that the image takes (R347). -/
structure Image where
  version : BitVec 32
  svn : BitVec 8
  length : Nat
  signed : Bool
  takes : BitVec 16
  deriving DecidableEq, Repr

/-! ## Instructions and events -/

/-- One constructor per row of the opcode table, in the table's order of families; the rows without parameters stand last. -/
inductive Instr where
  -- scalar, address and control (R69-R86)
  | nop (h : Hdr)
  | add (h : Hdr) (sz : Size) (u : Bool) (a b : GQ) (c : Src2)
  | sub (h : Hdr) (sz : Size) (u : Bool) (a b : GQ) (c : Src2)
  | mov (h : Hdr) (sz : Size) (u : Bool) (a b : GQ)
  | mul (h : Hdr) (sz : Size) (u : Bool) (a b : GQ) (c : Src2)
  | mulh (h : Hdr) (sz : Size) (u : Bool) (a b : GQ) (c : Src2)
  | mulhu (h : Hdr) (sz : Size) (u : Bool) (a b : GQ) (c : Src2)
  | div (h : Hdr) (sz : Size) (u : Bool) (a b : GQ) (c : Src2)
  | divu (h : Hdr) (sz : Size) (u : Bool) (a b : GQ) (c : Src2)
  | rem (h : Hdr) (sz : Size) (u : Bool) (a b : GQ) (c : Src2)
  | remu (h : Hdr) (sz : Size) (u : Bool) (a b : GQ) (c : Src2)
  | and (h : Hdr) (sz : Size) (u : Bool) (a b : GQ) (c : Src2)
  | or (h : Hdr) (sz : Size) (u : Bool) (a b : GQ) (c : Src2)
  | xor (h : Hdr) (sz : Size) (u : Bool) (a b : GQ) (c : Src2)
  | andn (h : Hdr) (sz : Size) (u : Bool) (a b : GQ) (c : Src2)
  | shl (h : Hdr) (sz : Size) (u : Bool) (a b : GQ) (c : Src2)
  | shr (h : Hdr) (sz : Size) (u : Bool) (a b : GQ) (c : Src2)
  | sar (h : Hdr) (sz : Size) (u : Bool) (a b : GQ) (c : Src2)
  | rot (h : Hdr) (sz : Size) (u : Bool) (a b : GQ) (c : Src2)
  | clz (h : Hdr) (sz : Size) (u : Bool) (a b : GQ)
  | popc (h : Hdr) (sz : Size) (u : Bool) (a b : GQ)
  | min (h : Hdr) (sz : Size) (u : Bool) (a b : GQ) (c : Src2)
  | max (h : Hdr) (sz : Size) (u : Bool) (a b : GQ) (c : Src2)
  | sel (h : Hdr) (sz : Size) (u : Bool) (j : BitVec 3) (neg : Bool) (a b : GQ) (c : Src2)
  | ldi (h : Hdr) (u : Bool) (a : GQ) (imm : BitVec 32)
  | ldih (h : Hdr) (a : BitVec 5) (imm : BitVec 32)
  | ext (h : Hdr) (u : Bool) (a b : GQ) (c : Src2)
  | bfx (h : Hdr) (u : Bool) (a b : GQ) (pos wid1 : BitVec 6)
  | bfi (h : Hdr) (a : BitVec 5) (b : GQ) (pos wid1 : BitVec 6)
  | lea (h : Hdr) (loc : Bool) (a b : GQ) (f : LeaForm)
  | hidx (h : Hdr) (a b : GQ)
  | hxy (h : Hdr) (a b : GQ)
  | br (h : Hdr) (off : BitVec 32)
  | brx (h : Hdr) (b : GQ)
  | call (h : Hdr) (off : BitVec 32)
  | callx (h : Hdr) (b : GQ)
  | ret (h : Hdr) (b : GQ)
  | loop (h : Hdr) (a : BitVec 5) (off : BitVec 32)
  | endAct (h : Hdr)
  | cmp (h : Hdr) (cond : ICond) (sz : Size) (u : Bool) (p : BitVec 3) (b : GQ) (c : Src2)
  | fcmp (h : Hdr) (cond : FCond) (fmt : FFmt) (p : BitVec 3) (b : GQ) (c : Src2)
  | plog (h : Hdr) (t : BitVec 4) (a b c : BitVec 3)
  | pmov (h : Hdr) (f : PmovForm)
  | asfork (h : Hdr) (off : BitVec 32)
  | aend (h : Hdr)
  -- memory and ordering (R142-R152)
  | ld (h : Hdr) (sz : Size) (u s : Bool) (a : GQ) (m : MemOp)
  | st (h : Hdr) (sz : Size) (s : Bool) (a : GQ) (m : MemOp)
  | ldacq (h : Hdr) (sc : Scope) (sz : Size) (u : Bool) (a : GQ) (m : MemOp)
  | strel (h : Hdr) (sc : Scope) (sz : Size) (a : GQ) (m : MemOp)
  | amo (h : Hdr) (op : AmoOp) (dw : Bool) (ord : AmoOrd) (loc : Bool) (a b c : GQ) (disp : BitVec 24)
  | cas (h : Hdr) (dw : Bool) (ord : AmoOrd) (loc : Bool) (a : BitVec 5) (b c : GQ) (disp : BitVec 24)
  | fence (h : Hdr) (k : FenceKind) (sc : Scope)
  | cflush (h : Hdr) (sc : Scope) (sz : Size) (m : MemOp)
  | cinv (h : Hdr) (i : Bool) (sc : Scope) (sz : Size) (m : MemOp)
  | pref (h : Hdr) (l : PrefLevel) (m : MemOp)
  | sdrain (h : Hdr)
  -- streams (R112, R113)
  | scfg (h : Hdr) (wr : Bool) (sg : BitVec 2) (b c : GQ) (stride : BitVec 16)
  | sbind (h : Hdr) (v sg : BitVec 2)
  | sunbind (h : Hdr) (v : BitVec 2)
  -- scalar floating point (R92-R95)
  | fadd (h : Hdr) (fmt : FFmt) (rm : Rm) (a b : GQ) (c : Src2)
  | fsub (h : Hdr) (fmt : FFmt) (rm : Rm) (a b : GQ) (c : Src2)
  | fmul (h : Hdr) (fmt : FFmt) (rm : Rm) (a b : GQ) (c : Src2)
  | ffma (h : Hdr) (fmt : FFmt) (rm : Rm) (a : BitVec 5) (b : GQ) (c : Src2)
  | fmin (h : Hdr) (fmt : FFmt) (a b : GQ) (c : Src2)
  | fmax (h : Hdr) (fmt : FFmt) (a b : GQ) (c : Src2)
  | fcvt (h : Hdr) (rm : Rm) (dt st : NType) (a b : GQ)
  | fsgn (h : Hdr) (fmt : FFmt) (a b : GQ) (s : Sgn GQ)
  -- vector floating point, compares, integers (R96-R101)
  | vadd (h : Hdr) (fmt : FFmt) (rm : Rm) (z : Bool) (mk : BitVec 3) (a b : VQ) (c : VSrc)
  | vsub (h : Hdr) (fmt : FFmt) (rm : Rm) (z : Bool) (mk : BitVec 3) (a b : VQ) (c : VSrc)
  | vmul (h : Hdr) (fmt : FFmt) (rm : Rm) (z : Bool) (mk : BitVec 3) (a b : VQ) (c : VSrc)
  | vfma (h : Hdr) (fmt : FFmt) (rm : Rm) (z : Bool) (mk : BitVec 3) (a : BitVec 5) (b : VQ) (c : VSrc)
  | vfms (h : Hdr) (fmt : FFmt) (rm : Rm) (z : Bool) (mk : BitVec 3) (a : BitVec 5) (b : VQ) (c : VSrc)
  | vfnma (h : Hdr) (fmt : FFmt) (rm : Rm) (z : Bool) (mk : BitVec 3) (a : BitVec 5) (b : VQ) (c : VSrc)
  | vmin (h : Hdr) (fmt : FFmt) (z : Bool) (mk : BitVec 3) (a b : VQ) (c : VSrc)
  | vmax (h : Hdr) (fmt : FFmt) (z : Bool) (mk : BitVec 3) (a b : VQ) (c : VSrc)
  | vsgn (h : Hdr) (fmt : FFmt) (z : Bool) (mk : BitVec 3) (a b : VQ) (s : Sgn VSrc)
  | vcmp (h : Hdr) (op : VCmpOp) (mk : BitVec 3) (k : BitVec 3) (b : VQ) (c : VSrc)
  | vsel (h : Hdr) (mk : BitVec 3) (a b : VQ) (c : VSrc)
  | viadd (h : Hdr) (sz : ESize) (sat u z : Bool) (mk : BitVec 3) (a b : VQ) (c : VSrc)
  | visub (h : Hdr) (sz : ESize) (sat u z : Bool) (mk : BitVec 3) (a b : VQ) (c : VSrc)
  | vimul (h : Hdr) (sz : ESize) (z : Bool) (mk : BitVec 3) (a b : VQ) (c : VSrc)
  | vand (h : Hdr) (z : Bool) (mk : BitVec 3) (a b : VQ) (c : VSrc)
  | vor (h : Hdr) (z : Bool) (mk : BitVec 3) (a b : VQ) (c : VSrc)
  | vxor (h : Hdr) (z : Bool) (mk : BitVec 3) (a b : VQ) (c : VSrc)
  | vshl (h : Hdr) (sz : ESize) (z : Bool) (mk : BitVec 3) (a b : VQ) (c : VSrc)
  | vshr (h : Hdr) (sz : ESize) (z : Bool) (mk : BitVec 3) (a b : VQ) (c : VSrc)
  | vsar (h : Hdr) (sz : ESize) (z : Bool) (mk : BitVec 3) (a b : VQ) (c : VSrc)
  | vcvt (h : Hdr) (rm : Rm) (z : Bool) (mk : BitVec 3) (dt st : NType) (p : BitVec 2) (a b : VQ)
  | vbcast (h : Hdr) (sz : ESize) (z : Bool) (mk : BitVec 3) (a : VQ) (b : GQ)
  | vextr (h : Hdr) (sz : ESize) (u : Bool) (a : GQ) (b : VQ) (i : Idx)
  | vins (h : Hdr) (sz : ESize) (a : BitVec 5) (b : GQ) (i : Idx)
  | vperm (h : Hdr) (sz : ESize) (z : Bool) (mk : BitVec 3) (a b c : VQ)
  | vred (h : Hdr) (op : VRedOp) (mk : BitVec 3) (a : GQ) (b : VQ)
  | vdot2 (h : Hdr) (half : Bool) (rm : Rm) (z : Bool) (mk : BitVec 3) (a : BitVec 5) (b c : VQ)
  | vdot4 (h : Hdr) (u sat z : Bool) (mk : BitVec 3) (a : BitVec 5) (b c : VQ)
  -- vector memory and format windows (R107-R111)
  | vld (h : Hdr) (s z loc : Bool) (mk : BitVec 3) (a : VQ) (b : GQ) (c : Option GQ) (disp : BitVec 24)
  | vst (h : Hdr) (s loc : Bool) (mk : BitVec 3) (a : VQ) (b : GQ) (c : Option GQ) (disp : BitVec 24)
  | vgather (h : Hdr) (s z loc : Bool) (mk : BitVec 3) (a : VQ) (b : GQ) (c : VQ) (disp : BitVec 24)
  | vscatter (h : Hdr) (s loc : Bool) (mk : BitVec 3) (a : VQ) (b : GQ) (c : VQ) (disp : BitVec 24)
  | vldf (h : Hdr) (f : VldfForm) (rm : Rm) (a : VQ) (b : GQ) (disp : BitVec 24)
  | vstf (h : Hdr) (f : VstfForm) (rne : Bool) (a : VQ) (b : GQ) (disp : BitVec 24)
  | baddq (h : Hdr) (fmt : TBFmt) (rne : Bool) (a b c : VQ)
  | klog (h : Hdr) (t : BitVec 4) (a b c : BitVec 3)
  | kmov (h : Hdr) (f : KmovForm)
  -- special functions (R116-R120)
  | rcpa (h : Hdr) (rne : Bool) (x : SF1)
  | rsqa (h : Hdr) (rne : Bool) (x : SF1)
  | sqrtf (h : Hdr) (rm : Rm) (x : SF1)
  | divf (h : Hdr) (rm : Rm) (x : SF2)
  | exp2a (h : Hdr) (rne : Bool) (x : SF1)
  | log2a (h : Hdr) (rne : Bool) (x : SF1)
  | tanha (h : Hdr) (rne : Bool) (x : SF1)
  | gelua (h : Hdr) (rne : Bool) (x : SF1)
  | sincos (h : Hdr) (rne : Bool) (x : SFPair)
  | pmerge (h : Hdr) (rm : Rm) (x : SFMerge)
  -- directional (R124-R133)
  | dnorm (h : Hdr) (rne : Bool) (a b : BitVec 4) (s : DnormSet)
  | dcvt (h : Hdr) (f : DcvtForm)
  | ddot (h : Hdr) (dot : Bool) (rm : Rm) (a : GQ) (b c : BitVec 4)
  | dsim8 (h : Hdr) (rm : Rm) (s : Bool) (a : VQ) (q : DsimQuery) (c : GQ) (disp : BitVec 32)
  | dscale (h : Hdr) (a b : BitVec 4) (c : Src2)
  | dadd (h : Hdr) (sub rne : Bool) (a b c : BitVec 4)
  | dlerp (h : Hdr) (rne : Bool) (a b c : BitVec 4) (t : BitVec 17)
  | dneg (h : Hdr) (a b : BitVec 4)
  | drot (h : Hdr) (rne : Bool) (a b : BitVec 4) (c : GQ) (e sh : BitVec 5)
  | dmovn (h : Hdr) (f : DmovnForm)
  | dld (h : Hdr) (s : Bool) (a : BitVec 4) (b : GQ) (c : Option GQ) (disp : BitVec 32)
  | dst (h : Hdr) (s : Bool) (a : BitVec 4) (b : GQ) (c : Option GQ) (disp : BitVec 32)
  | dtest (h : Hdr) (p : BitVec 3) (b : BitVec 4) (cond : DtestCond)
  -- messages and mailboxes (R179-R187)
  | send (h : Hdr) (rel : Bool) (d : GQ) (src : SendSrc) (cls : BitVec 4) (c : Option GQ)
  | sendl (h : Hdr) (rel : Bool) (d b : GQ) (len1 : BitVec 8) (cls : BitVec 4) (c : Option GQ)
  | reply (h : Hdr) (rel : Bool) (src : SendSrc) (cls : BitVec 4) (c : Option GQ)
  | refuse (h : Hdr) (code : BitVec 8)
  | mbcfgQ (h : Hdr) (m : BitVec 2) (b : GQ)
  | mbcfgComb (h : Hdr) (m : BitVec 2) (b : GQ)
  | mbcfgBob (h : Hdr) (m : BitVec 2) (b c : GQ)
  | mbcfgHnd (h : Hdr) (m : BitVec 2) (cls : BitVec 4) (idem : Bool) (b : GQ)
  | mbcfgOff (h : Hdr) (m : BitVec 2) (b : GQ)
  | cmask (h : Hdr) (m : BitVec 2) (mask : BitVec 14)
  | cunmask (h : Hdr) (m : BitVec 2) (mask : BitVec 14)
  | mbstat (h : Hdr) (dig : Bool) (a : GQ) (m : BitVec 2)
  | mbarm (h : Hdr) (op : ArmOp) (m : BitVec 2) (b c : GQ)
  | self (h : Hdr) (f : SelfForm) (a : GQ)
  -- domains (R194-R206)
  | entry (h : Hdr) (j hs : Bool)
  | calld (h : Hdr) (t : CalldTgt)
  | retd (h : Hdr)
  | lend (h : Hdr) (w : Bool) (n : Bool) (b c : GQ)
  | unlend (h : Hdr) (p : Bool) (n : Bool)
  | domq (h : Hdr) (f : DomqForm)
  -- matrix unit (R259-R263)
  | mma (h : Hdr) (acc : Bool) (k : KSrc) (swA swB : BitVec 4)
  | mmas (h : Hdr) (acc : Bool) (k : KSrc) (swA swB : BitVec 4)
  | mmasx (h : Hdr) (acc : Bool) (k : GQ) (swA swB swM : BitVec 4)
  | mzero (h : Hdr) (acc : Bool)
  | mload (h : Hdr) (acc : Bool) (sw : BitVec 4)
  | mstore (h : Hdr) (rm : Rm) (sw : BitVec 4) (acc : Bool)
  | mxpose (h : Hdr) (swD swS : BitVec 4)
  | mewise (h : Hdr) (acc : Bool) (op : EwOp)
  | mcfgSw (h : Hdr) (sw : BitVec 4) (b c : GQ)
  | mcfgSt (h : Hdr) (clr : Bool) (a : GQ)
  -- engines and synchronisation (R272-R281)
  | copy (h : Hdr) (a b : GQ) (cb : Option (BitVec 3))
  | gather (h : Hdr) (sc : Bool) (a b : GQ)
  | cbinit (h : Hdr) (cb : BitVec 3) (b c : GQ)
  | cbwait (h : Hdr) (a : GQ) (cb : BitVec 3) (c : Option GQ)
  | cbrel (h : Hdr) (cb : BitVec 3) (k : BitVec 32)
  | waitc (h : Hdr) (t : BitVec 2) (n : WaitSrc)
  | readc (h : Hdr) (f : ReadcForm) (a : GQ) (t : BitVec 2)
  | cbar (h : Hdr) (bar : BitVec 2) (b : GQ)
  -- graph (R325, R326)
  | gsub (h : Hdr) (a b : GQ)
  | gsig (h : Hdr) (e : EvSrc) (n : AddSrc)
  | gsigSet (h : Hdr) (e : EvSrc) (c : GQ)
  -- system (R155-R159, R217-R233)
  | srd (h : Hdr) (a : GQ) (r : SReg)
  | swr (h : Hdr) (r : SReg) (b : Src2)
  | trap (h : Hdr) (code : BitVec 16)
  | brk (h : Hdr) (code : BitVec 16)
  | resume (h : Hdr) (a b c : GQ)
  | winmap (h : Hdr) (a b c : GQ)
  | ckpt (h : Hdr) (ts : Bool) (a b : GQ)
  | tlbinvPage (h : Hdr) (sc : Scope) (b : GQ)
  | tlbinvAll (h : Hdr) (sc : Scope)
  | logmark (h : Hdr) (f : Bool) (v : MarkSrc)
  | cstop (h : Hdr) (b c : GQ)
  | cstopGo (h : Hdr) (b c : GQ)
  | killAct (h : Hdr) (a b c : GQ)
  | killActor (h : Hdr) (a b : GQ)
  | killGrp (h : Hdr) (a b : GQ)
  | swrSupv (h : Hdr) (b : Src2)
  | swrSfqh (h : Hdr) (b : Src2)
  | swrHbud (h : Hdr) (b : Src2)
  | swrMlen (h : Hdr) (b : Src2)
  | swrMqw (h : Hdr) (b : Src2)
  | swrLogp (h : Hdr) (b : Src2)
  -- events: descriptors, arrivals, activations, stores, kills, stops
  | registerWrite (d : Desc)
  | messageArrival (ctx : Nat) (m : Msg)
  | activationStart (ctx core : Nat)
  | bobbinDrain (ctx : Nat) (aad : BitVec 32)
  | outboundRelease (t : SlotId)
  | delayedInjection (ctx core : Nat) (m : Msg)
  | storeCheck (t : SlotId) (n : Nat)
  | budgetKill (t : SlotId)
  | uncorrectableErrorKill (t : SlotId)
  | stop (ctx core : Nat) (issuer : BitVec 32)
  | stopComplete (ctx core : Nat)
  | contextRestore (ctx : Nat)
  | timeSliceExpiry (ctx : Nat)
  | breakpointUpdate (ctx : Nat) (n : BitVec 3) (aid : BitVec 48) (flags : BitVec 4) (index : BitVec 64)
  | walkEnd (ctx cluster : Nat) (va : BitVec 64) (acc : AccKind)
  | faultCompletion (ctx : Nat) (seq : BitVec 32)
  | faultRefusal (ctx : Nat) (seq : BitVec 32)
  -- events: matrix unit, engines, synchronisation, logs
  | matrixStep (ctx cluster : Nat)
  | tileCommandComplete (ctx core : Nat)
  | leaveGrant (ctx core eng : Nat)
  | engineChunk (ctx core : Nat) (gth : Bool)
  | engineCommandComplete (ctx core : Nat) (gth : Bool)
  | releaseDone (ctx core : Nat)
  | waitcComplete (t : SlotId) (s : Stream)
  | cbwaitComplete (t : SlotId) (s : Stream)
  | barrierRelease (ctx cluster : Nat) (bar : BitVec 2)
  | streamFetch (t : SlotId) (sg : BitVec 2)
  | spanEnd (ctx core : Nat) (state : BitVec 2) (cause : BitVec 6) (len : Nat)
  | spanExtension (ctx core : Nat)
  -- events: mesh, caches, rails
  | packetRoute (ctx cur dst : Nat) (p : Packet)
  | cacheEviction (cluster line : Nat)
  | railLow (cluster : Nat)
  | railHigh (cluster : Nat)
  | pseudoChannelSparing (stack chan : Nat) (spare : BitVec 2)
  -- events: graph unit
  | nodeAccept (ctx : Nat) (desc : List Byte) (subm : BitVec 32) (cluster : Nat) (dom : BitVec 6) (windows : List Window)
      (dest : Answer)
  | controlEvaluation (ctx : Nat) (id : Nat)
  | expansionAccept (ctx : Nat) (id : Nat)
  | readyAging (ctx : Nat) (id : Nat)
  | nodeDispatch (ctx : Nat)
  | dispatchRefused (ctx : Nat) (id : Nat)
  | workerPassoverExpiry (ctx : Nat) (w : BitVec 8)
  | nodeComplete (ctx : Nat) (id : Nat)
  | submitDoorbell (ctx : Nat) (frame : BitVec 4)
  | counterWindowRead (ctx : Nat) (i : BitVec 4)
  | partitionResize (ctx svb svl : Nat)
  | launch (p : LaunchPlan)
  -- events: security, boot, update, lockstitch, power
  | keyRetire (slot : BitVec 9)
  | liveUpdate (img : Image) (graph : Bool)
  | seamCheck (t : SlotId) (hp hs : BitVec 64)
  -- events: fabric
  | transmitRequest (port : BitVec 4) (q : Nat) (ctx : Nat) (m : Msg)
  | frameReceive (port : BitVec 4) (f : Frame)
  | retransmitTimeout (port : BitVec 4) (dfid : BitVec 13)
  -- events: creation
  | contextCreation (ctx svb svl : Nat)
  -- events without parameters
  | getVersion
  | getCapabilities
  | negotiateAlgorithms
  | getDigests
  | getCertificate
  | challenge
  | getMeasurements
  | boot
  | moduleWake
  | heartbeat
  | rollback
  | svnRaise
  | clockDown
  | clockUp
  | reset
  deriving DecidableEq, Repr

/-- The mnemonic-free view of a row: is it a step of the device rather than a word of R25? -/
def Instr.isEvent : Instr → Bool
  | .registerWrite .. | .messageArrival .. | .activationStart .. | .bobbinDrain .. | .outboundRelease ..
  | .delayedInjection .. | .storeCheck .. | .budgetKill .. | .uncorrectableErrorKill .. | .stop .. | .stopComplete ..
  | .contextRestore .. | .timeSliceExpiry .. | .breakpointUpdate .. | .walkEnd .. | .faultCompletion ..
  | .faultRefusal .. | .matrixStep .. | .tileCommandComplete .. | .leaveGrant .. | .engineChunk ..
  | .engineCommandComplete .. | .releaseDone .. | .waitcComplete .. | .cbwaitComplete .. | .barrierRelease ..
  | .streamFetch .. | .spanEnd .. | .spanExtension .. | .packetRoute .. | .cacheEviction .. | .railLow ..
  | .railHigh .. | .pseudoChannelSparing .. | .nodeAccept .. | .controlEvaluation .. | .expansionAccept ..
  | .readyAging .. | .nodeDispatch .. | .dispatchRefused .. | .workerPassoverExpiry .. | .nodeComplete ..
  | .submitDoorbell .. | .counterWindowRead .. | .partitionResize .. | .launch .. | .keyRetire .. | .getVersion
  | .getCapabilities | .negotiateAlgorithms | .getDigests | .getCertificate | .challenge | .getMeasurements | .boot
  | .moduleWake | .liveUpdate .. | .heartbeat | .rollback | .svnRaise | .seamCheck .. | .clockDown | .clockUp
  | .transmitRequest .. | .frameReceive .. | .retransmitTimeout .. | .reset | .contextCreation .. => true
  | _ => false

end Sys2Proof
end

