-- ==== Sys2Proof/WellFormed.lean ====
section
/-! DEFINITION. Well-formed instructions: what the types of Syntax.lean do not already rule out.
A word that breaks one of these checks is an illegal encoding (R39), so `decode` never answers such an instruction. -/

namespace Sys2Proof

/-- Number of bits of a numeric type (R95). -/
def NType.bits : NType → Nat
  | .bf16 | .f16 => 16
  | .f32 => 32
  | .i8 | .n8 => 8
  | .i16 | .n16 => 16
  | .i32 | .n32 => 32
  | .i64 | .n64 => 64

/-- Is the type one of the floating-point types? -/
def NType.isFloat : NType → Bool
  | .bf16 | .f16 | .f32 => true
  | _ => false

/-- Is the type a signed integer type? -/
def NType.isSigned : NType → Bool
  | .i8 | .i16 | .i32 | .i64 => true
  | _ => false

/-- Width in bits of a size modifier (R68). -/
def Size.bits : Size → Nat
  | .b => 8 | .h => 16 | .w => 32 | .d => 64

/-- Width in bytes of a size modifier (R137). -/
def Size.bytes : Size → Nat
  | .b => 1 | .h => 2 | .w => 4 | .d => 8

/-- Width in bits of a vector element (R89). -/
def ESize.bits : ESize → Nat
  | .b => 8 | .h => 16 | .w => 32

/-- Width in bits of a floating-point element (R89). -/
def FFmt.bits : FFmt → Nat
  | .bf16 | .f16 => 16
  | .f32 => 32

/-- Is the operand a queue register? -/
def VQ.isQueue : VQ → Bool
  | .v _ => false
  | .q _ => true

/-- A destination that an instruction also reads must not be a queue register (R88): with a mask other than k0 and
without `.z`, the old lanes are read. -/
def maskedOk (z : Bool) (mk : BitVec 3) (a : VQ) : Bool :=
  !(a.isQueue && mk != 0 && !z)

/-- An immediate second operand of a 16-bit format has zero upper half (R79, R92). -/
def fimmOk (fmt : FFmt) : Src2 → Bool
  | .reg _ => true
  | .imm x => fmt == .f32 || x.toNat < 65536

/-- Type pair of FCVT: not two integer types (R95). -/
def cvtPairOk (dt st : NType) : Bool := dt.isFloat || st.isFloat

/-- Elements of a type in one lane (R102). -/
def NType.perLane (t : NType) : Nat := 32 / t.bits

/-- The ratio r of R102. -/
def cvtRatio (dt st : NType) : Nat := max dt.perLane st.perLane / min dt.perLane st.perLane

/-- Types and part of VCVT (R102); a narrowing form reads its destination, so it takes no queue (R88). -/
def vcvtOk (z : Bool) (mk : BitVec 3) (dt st : NType) (p : BitVec 2) (a : VQ) : Bool :=
  dt.bits != 64 && st.bits != 64 && cvtPairOk dt st && p.toNat < cvtRatio dt st
    && maskedOk z mk a && !(a.isQueue && st.perLane < dt.perLane)

/-- Element index of VEXTR and VINS (R103). -/
def idxOk (sz : ESize) : Idx → Bool
  | .reg _ => true
  | .imm i => i.toNat < 512 / sz.bits

/-- Payload and class of SEND and REPLY (R179). -/
def sendOk (src : SendSrc) (cls : BitVec 4) : Bool :=
  cls != 15 && match src with
  | .lanes _ => true
  | .regs (.q _) n => n != 0 && n != 7
  | .regs (.g b) n => n != 0 && n != 7 && b.toNat + n.toNat ≤ 32

/-- The scopes that TLBINV takes (R233). -/
def tlbScopeOk : Scope → Bool
  | .core | .clu | .die | .pkg => true
  | .act | .fab => false

/-- The special registers whose SWR has a row of its own in the opcode table. -/
def SReg.hasOwnSwr : SReg → Bool
  | .supv | .sfqh | .hbud | .mlen | .mqw | .logp => true
  | _ => false

/-- Guard of an instruction word; the events have none. -/
def SF1.maskOk : SF1 → Bool
  | .sca _ _ => true
  | .vec z mk a _ => maskedOk z mk a

/-- As `SF1.maskOk`, for DIVF. -/
def SF2.maskOk : SF2 → Bool
  | .sca _ _ _ => true
  | .vec z mk a _ _ => maskedOk z mk a

/-- As `SF1.maskOk`, for PMERGE. -/
def SFMerge.maskOk : SFMerge → Bool
  | .sca _ _ _ => true
  | .vec z mk a _ _ => maskedOk z mk a

/-- Guard and hints of an instruction word (R25); the events have none. -/
def Instr.hdr? : Instr → Option Hdr
  | .nop h | .add h .. | .sub h .. | .mov h .. | .mul h .. | .mulh h .. | .mulhu h .. | .div h .. | .divu h ..
  | .rem h .. | .remu h .. | .and h .. | .or h .. | .xor h .. | .andn h .. | .shl h .. | .shr h .. | .sar h ..
  | .rot h .. | .clz h .. | .popc h .. | .min h .. | .max h .. | .sel h .. | .ldi h .. | .ldih h .. | .ext h ..
  | .bfx h .. | .bfi h .. | .lea h .. | .hidx h .. | .hxy h .. | .br h .. | .brx h .. | .call h .. | .callx h ..
  | .ret h .. | .loop h .. | .endAct h | .cmp h .. | .fcmp h .. | .plog h .. | .pmov h .. | .asfork h .. | .aend h
  | .ld h .. | .st h .. | .ldacq h .. | .strel h .. | .amo h .. | .cas h .. | .fence h .. | .cflush h ..
  | .cinv h .. | .pref h .. | .sdrain h | .scfg h .. | .sbind h .. | .sunbind h .. | .fadd h .. | .fsub h ..
  | .fmul h .. | .ffma h .. | .fmin h .. | .fmax h .. | .fcvt h .. | .fsgn h .. | .vadd h .. | .vsub h ..
  | .vmul h .. | .vfma h .. | .vfms h .. | .vfnma h .. | .vmin h .. | .vmax h .. | .vsgn h .. | .vcmp h ..
  | .vsel h .. | .viadd h .. | .visub h .. | .vimul h .. | .vand h .. | .vor h .. | .vxor h .. | .vshl h ..
  | .vshr h .. | .vsar h .. | .vcvt h .. | .vbcast h .. | .vextr h .. | .vins h .. | .vperm h .. | .vred h ..
  | .vdot2 h .. | .vdot4 h .. | .vld h .. | .vst h .. | .vgather h .. | .vscatter h .. | .vldf h .. | .vstf h ..
  | .baddq h .. | .klog h .. | .kmov h .. | .rcpa h .. | .rsqa h .. | .sqrtf h .. | .divf h .. | .exp2a h ..
  | .log2a h .. | .tanha h .. | .gelua h .. | .sincos h .. | .pmerge h .. | .dnorm h .. | .dcvt h .. | .ddot h ..
  | .dsim8 h .. | .dscale h .. | .dadd h .. | .dlerp h .. | .dneg h .. | .drot h .. | .dmovn h .. | .dld h ..
  | .dst h .. | .dtest h .. | .send h .. | .sendl h .. | .reply h .. | .refuse h .. | .mbcfgQ h .. | .mbcfgComb h ..
  | .mbcfgBob h .. | .mbcfgHnd h .. | .mbcfgOff h .. | .cmask h .. | .cunmask h .. | .mbstat h .. | .mbarm h ..
  | .self h .. | .entry h .. | .calld h .. | .retd h | .lend h .. | .unlend h .. | .domq h .. | .mma h ..
  | .mmas h .. | .mmasx h .. | .mzero h .. | .mload h .. | .mstore h .. | .mxpose h .. | .mewise h .. | .mcfgSw h ..
  | .mcfgSt h .. | .copy h .. | .gather h .. | .cbinit h .. | .cbwait h .. | .cbrel h .. | .waitc h .. | .readc h ..
  | .cbar h .. | .gsub h .. | .gsig h .. | .gsigSet h .. | .srd h .. | .swr h .. | .trap h .. | .brk h ..
  | .resume h .. | .winmap h .. | .ckpt h .. | .tlbinvPage h .. | .tlbinvAll h .. | .logmark h .. | .cstop h ..
  | .cstopGo h .. | .killAct h .. | .killActor h .. | .killGrp h .. | .swrSupv h .. | .swrSfqh h .. | .swrHbud h ..
  | .swrMlen h .. | .swrMqw h .. | .swrLogp h .. => some h
  | _ => none

/-- The checks on operands that the types do not make (step 8 of R39 for the most part). -/
def Instr.operandsOk : Instr → Bool
  | .fcmp _ _ fmt _ _ c | .fadd _ fmt _ _ _ c | .fsub _ fmt _ _ _ c | .fmul _ fmt _ _ _ c
  | .ffma _ fmt _ _ _ c | .fmin _ fmt _ _ c | .fmax _ fmt _ _ c => fimmOk fmt c
  | .amo _ op dw .. => !(op == .fadd && dw)
  | .fcvt _ _ dt src _ _ => cvtPairOk dt src
  | .vadd _ _ _ z mk a _ _ | .vsub _ _ _ z mk a _ _ | .vmul _ _ _ z mk a _ _ | .vmin _ _ z mk a _ _
  | .vmax _ _ z mk a _ _ | .vsgn _ _ z mk a _ _ | .vimul _ _ z mk a _ _ | .vand _ z mk a _ _ | .vor _ z mk a _ _
  | .vxor _ z mk a _ _ | .vshl _ _ z mk a _ _ | .vshr _ _ z mk a _ _ | .vsar _ _ z mk a _ _
  | .vbcast _ _ z mk a _ | .vperm _ _ z mk a _ _ | .vld _ _ z _ mk a .. | .vgather _ _ z _ mk a .. =>
    maskedOk z mk a
  | .viadd _ _ sat u z mk a _ _ | .visub _ _ sat u z mk a _ _ => (sat || !u) && maskedOk z mk a
  | .vcvt _ _ z mk dt src p a _ => vcvtOk z mk dt src p a
  | .vextr _ sz _ _ _ i | .vins _ sz _ _ i => idxOk sz i
  | .rcpa _ _ x | .rsqa _ _ x | .sqrtf _ _ x | .exp2a _ _ x | .log2a _ _ x | .tanha _ _ x | .gelua _ _ x => x.maskOk
  | .divf _ _ x => x.maskOk
  | .pmerge _ _ x => x.maskOk
  | .dlerp _ _ _ _ _ t => t.toNat ≤ 65536
  | .send _ _ _ src cls _ | .reply _ _ src cls _ => sendOk src cls
  | .sendl _ _ _ _ len1 cls _ => len1.toNat < 240 && cls != 15
  | .refuse _ code => 128 ≤ code.toNat
  | .entry h _ _ => h.grd == 7
  | .cbrel _ _ k => 1 ≤ k.toNat && k.toNat ≤ 64
  | .gsig _ _ (.imm n) => n != 0
  | .tlbinvPage _ sc _ | .tlbinvAll _ sc => tlbScopeOk sc
  | .swr _ r _ => !r.hasOwnSwr
  | _ => true

/-- A well-formed instruction: GRD is not 0b1111 (R32), and the operand checks hold. -/
def Instr.wf (i : Instr) : Bool :=
  (match i.hdr? with | some h => h.grd != 15 | none => true) && i.operandsOk

/-- `Instr.wf` as a proposition. -/
abbrev Instr.WellFormed (i : Instr) : Prop := i.wf = true

end Sys2Proof
end

