-- ==== Sys2Proof/Decode.lean ====
section
/-! DEFINITION. The decoder and the encoder of the 96-bit word (R25-R39, R282 and the encoding table of every entry).
`decodeRaw` makes the checks of R39 in their order; `encRaw` lays a well-formed instruction out as its entry states. -/

namespace Sys2Proof

/-! ## Fields of a word -/

/-- The fields of R25; `b76` is the must-be-zero bit. -/
structure Raw where
  op : BitVec 8
  h : Hdr
  b76 : Bool := false
  fa : BitVec 12
  fb : BitVec 12
  fc : BitVec 12
  fn : BitVec 8
  imm : BitVec 32
  deriving DecidableEq, Repr

/-- Reason codes of an illegal encoding (R39). -/
inductive Reason where
  /-- 1: OP is 0x00 or a reserved opcode. -/
  | opcode
  /-- 2: FN holds a reserved value. -/
  | reserved
  /-- 3: an operand index is out of range. -/
  | index
  /-- 4: a bit that must be zero is not, or an immediate is outside its range. -/
  | mbz
  /-- 5: GRD is 0b1111. -/
  | guard
  /-- 6: an operand class that the instruction does not accept. -/
  | cls
  deriving DecidableEq, Repr

/-- The number R39 gives a reason. -/
def Reason.code : Reason → BitVec 8
  | .opcode => 1 | .reserved => 2 | .index => 3 | .mbz => 4 | .guard => 5 | .cls => 6

/-- The fields of a word (R25). -/
def unpack (w : IWord) : Raw :=
  { op := w.extractLsb' 88 8
    h := { grd := w.extractLsb' 84 4, rdy := w.extractLsb' 80 4, yld := w.getLsbD 79, lsb := w.getLsbD 78,
           lsc := w.getLsbD 77 }
    b76 := w.getLsbD 76
    fa := w.extractLsb' 64 12
    fb := w.extractLsb' 52 12
    fc := w.extractLsb' 40 12
    fn := w.extractLsb' 32 8
    imm := w.extractLsb' 0 32 }

/-- The word with the given fields (R25). -/
def pack (r : Raw) : IWord :=
  r.op ++ (r.h.grd ++ (r.h.rdy ++ (BitVec.ofBool r.h.yld ++ (BitVec.ofBool r.h.lsb ++ (BitVec.ofBool r.h.lsc ++
    (BitVec.ofBool r.b76 ++ (r.fa ++ (r.fb ++ (r.fc ++ (r.fn ++ r.imm))))))))))

/-! ## Operand specifiers (R27, R28) -/

/-- An operand specifier of a class and an index. -/
def spec (c : BitVec 3) (i : BitVec 9) : BitVec 12 := c ++ i

/-- Class of a specifier. -/
def scls (s : BitVec 12) : BitVec 3 := s.extractLsb' 9 3

/-- Index of a specifier. -/
def sidx (s : BitVec 12) : BitVec 9 := s.extractLsb' 0 9

/-- The absent specifier, 0xE00. -/
def absent : BitVec 12 := 0xE00

/-- Is the specifier of class 7? -/
def isAbs (s : BitVec 12) : Bool := scls s == 7

/-- Specifier of a g operand. -/
def GQ.spec : GQ → BitVec 12
  | .g i => Sys2Proof.spec 0 (i.setWidth 9)
  | .q i => Sys2Proof.spec 3 (i.setWidth 9)

/-- Specifier of a v operand. -/
def VQ.spec : VQ → BitVec 12
  | .v i => Sys2Proof.spec 1 (i.setWidth 9)
  | .q i => Sys2Proof.spec 3 (4 + i.setWidth 9)

/-- The g operand of a specifier that the checks have passed. -/
def toGQ (s : BitVec 12) : GQ :=
  if scls s == 3 then .q ((sidx s).setWidth 2) else .g ((sidx s).setWidth 5)

/-- The v operand of a specifier that the checks have passed. -/
def toVQ (s : BitVec 12) : VQ :=
  if scls s == 3 then .q ((sidx s).setWidth 2) else .v ((sidx s).setWidth 5)

/-- An optional g operand: class 7 is absent. -/
def toGQ? (s : BitVec 12) : Option GQ := if isAbs s then none else some (toGQ s)

/-- A vector second source: class 1 or q4-q7, or a broadcast g operand. -/
def toVSrc (s : BitVec 12) : VSrc :=
  if scls s == 1 || (scls s == 3 && 4 ≤ (sidx s).toNat) then .vec (toVQ s) else .bc (toGQ s)

/-- Specifier of an optional g operand. -/
def optSpec : Option GQ → BitVec 12
  | none => absent
  | some x => x.spec

/-- Specifier of a vector second source. -/
def VSrc.spec : VSrc → BitVec 12
  | .vec x => x.spec
  | .bc x => x.spec

/-- Specifiers of the other classes. -/
def gSpec (i : BitVec 5) : BitVec 12 := spec 0 (i.setWidth 9)
def vSpec (i : BitVec 5) : BitVec 12 := spec 1 (i.setWidth 9)
def dSpec (i : BitVec 4) : BitVec 12 := spec 2 (i.setWidth 9)
def pSpec (i : BitVec 3) : BitVec 12 := spec 4 (i.setWidth 9)
def kSpec (i : BitVec 3) : BitVec 12 := spec 4 (8 + i.setWidth 9)
def accSpec (c : Bool) : BitVec 12 := spec 6 (if c then 1 else 0)
def tlcSpec (t : BitVec 2) : BitVec 12 := spec 6 (16 + t.setWidth 9)
def cbSpec (c : BitVec 3) : BitVec 12 := spec 6 (32 + c.setWidth 9)
def sgSpec (g : BitVec 2) : BitVec 12 := spec 6 (48 + g.setWidth 9)

/-- Number of a special register (R21). -/
def SReg.num : SReg → BitVec 9
  | .wsp => 0 | .aid => 1 | .aad => 2 | .dom => 3 | .flg => 4 | .fen => 5 | .rnd => 6 | .cyc => 7 | .reft => 8
  | .hused => 9 | .svb => 16 | .svl => 17 | .mlen => 18 | .hbud => 19 | .logp => 20 | .sfqh => 21 | .mqw => 22
  | .supv => 23 | .sid => 32

/-- The special register of a number; the numbers R21 does not list have none. -/
def SReg.ofNum (n : BitVec 9) : Option SReg :=
  match n.toNat with
  | 0 => some .wsp | 1 => some .aid | 2 => some .aad | 3 => some .dom | 4 => some .flg | 5 => some .fen
  | 6 => some .rnd | 7 => some .cyc | 8 => some .reft | 9 => some .hused | 16 => some .svb | 17 => some .svl
  | 18 => some .mlen | 19 => some .hbud | 20 => some .logp | 21 => some .sfqh | 22 => some .mqw | 23 => some .supv
  | 32 => some .sid
  | _ => none

/-- Specifier of a special register. -/
def sregSpec (r : SReg) : BitVec 12 := spec 5 r.num

/-- What an entry accepts in one operand field. -/
inductive Kind where
  /-- absent only -/
  | none
  /-- class 0, or q0-q3 -/
  | g
  /-- class 0 only (a destination that is also read) -/
  | gReg
  /-- class 0, q0-q3, or absent -/
  | gOpt
  /-- 0xE00 only: any other value is reason 6, which the entry says (R69, R72) -/
  | no
  /-- as `g`; an absent specifier is reason 4 (R326) -/
  | gNeed
  /-- class 1, or q4-q7 -/
  | v
  /-- class 1 only (a destination that is also read) -/
  | vReg
  /-- class 1 with an even index, no queue (R119, R125) -/
  | vEven
  /-- class 1 with index 28-31, no queue (R113) -/
  | vBind
  /-- class 1, q4-q7, class 0 or q0-q3 -/
  | vg
  /-- class 2 -/
  | d
  /-- class 2 with an even index (R131) -/
  | dEven
  /-- class 4, index 0-7 -/
  | p
  /-- class 4, index 0-7, or a g operand (R81) -/
  | pg
  /-- class 4, index 8-15 -/
  | k
  /-- class 4, index 8-15, or a g operand (R100) -/
  | kg
  /-- class 5, a number of R21 -/
  | sreg
  /-- class 6 with an index in [lo, hi] (R28) -/
  | eng (lo hi : Nat)
  deriving DecidableEq, Repr

/-- Class 0, or class 3: q0-q3; a class-3 index 4-7 is of the wrong kind, and above 7 out of range (R27, R67). -/
def gCls (s : BitVec 12) : Bool :=
  scls s == 0 || (scls s == 3 && !(4 ≤ (sidx s).toNat && (sidx s).toNat ≤ 7))

/-- Class 1, or class 3: q4-q7; a class-3 index 0-3 is of the wrong kind (R88). -/
def vCls (s : BitVec 12) : Bool :=
  scls s == 1 || (scls s == 3 && !((sidx s).toNat ≤ 3))

/-- Step 5 of R39: a class that the entry does not accept. -/
def Kind.clsBad (kd : Kind) (s : BitVec 12) : Option Reason :=
  let bad (ok : Bool) : Option Reason := if ok then Option.none else some .cls
  match kd with
  | .none => bad (isAbs s)
  | .no => bad (s == absent)
  | .g => bad (gCls s)
  | .gReg => bad (scls s == 0)
  | .gOpt => bad (isAbs s || gCls s)
  | .gNeed => if isAbs s then some .mbz else bad (gCls s)
  | .v => bad (vCls s)
  | .vReg | .vEven | .vBind => bad (scls s == 1)
  | .vg => bad (scls s == 0 || scls s == 1 || scls s == 3)
  | .d | .dEven => bad (scls s == 2)
  | .p | .k => bad (scls s == 4)
  | .pg | .kg => bad (scls s == 4 || gCls s)
  | .sreg => bad (scls s == 5)
  | .eng _ _ => bad (scls s == 6)

/-- Valid indices of R27 for classes 0 to 4. -/
def rangeOk (s : BitVec 12) : Bool :=
  let i := (sidx s).toNat
  match (scls s).toNat with
  | 0 | 1 => i ≤ 31
  | 2 | 4 => i ≤ 15
  | 3 => i ≤ 7
  | _ => true

/-- Step 6 of R39: an index out of range. -/
def Kind.idxOk (kd : Kind) (s : BitVec 12) : Bool :=
  let i := (sidx s).toNat
  rangeOk s && match kd with
  | .vEven | .dEven => i % 2 == 0
  | .vBind => 28 ≤ i
  | .p => i ≤ 7
  | .k => 8 ≤ i
  | .pg => scls s != 4 || i ≤ 7
  | .kg => scls s != 4 || 8 ≤ i
  | .sreg => (SReg.ofNum (sidx s)).isSome
  | .eng lo hi => lo ≤ i && i ≤ hi
  | _ => true

/-- Step 7 of R39: class 7 but not 0xE00. -/
def absOk (s : BitVec 12) : Bool := !isAbs s || s == absent

/-- Steps 5 to 7 of R39 over the three operand fields; `extra` is a check of an entry on FN and FA together. -/
def opsBad (ka kb kc : Kind) (extra : Option Reason) (r : Raw) : Option Reason :=
  ka.clsBad r.fa <|> extra <|> kb.clsBad r.fb <|> kc.clsBad r.fc <|>
  (if ka.idxOk r.fa && kb.idxOk r.fb && kc.idxOk r.fc then Option.none else some .index) <|>
  (if absOk r.fa && absOk r.fb && absOk r.fc then Option.none else some .mbz)

/-! ## FN and IMM (R29-R31) -/

/-- A non-zero FN bit outside the mask is reason 4. -/
def fnMask (r : Raw) (m : BitVec 8) : Option Reason := if r.fn &&& ~~~m == 0 then none else some .mbz

/-- A reserved FN value is reason 2, before the unassigned bits. -/
def fnRes (c : Bool) (rest : Option Reason) : Option Reason := if c then some .reserved else rest

/-- A non-zero IMM bit outside the mask is reason 4. -/
def immMask (r : Raw) (m : BitVec 32) : Option Reason := if r.imm &&& ~~~m == 0 then none else some .mbz

/-- A condition whose failure is reason 4. -/
def need (c : Bool) : Option Reason := if c then none else some .mbz

/-- A condition whose failure is reason 6. -/
def needCls (c : Bool) : Option Reason := if c then none else some .cls

/-- FN bits 1:0. -/
def Raw.low (r : Raw) : Nat := (r.fn.extractLsb' 0 2).toNat

/-- FN bits 5:3. -/
def Raw.mid (r : Raw) : Nat := (r.fn.extractLsb' 3 3).toNat

/-- FN bit 2. -/
def Raw.u (r : Raw) : Bool := r.fn.getLsbD 2

/-- FN bit 7. -/
def Raw.top (r : Raw) : Bool := r.fn.getLsbD 7

/-- FN bit 6. -/
def Raw.s (r : Raw) : Bool := r.fn.getLsbD 6

/-- Bits of IMM. -/
def Raw.i (r : Raw) (lo n : Nat) : BitVec n := r.imm.extractLsb' lo n

/-- MK, the mask register of R89. -/
def Raw.mk' (r : Raw) : BitVec 3 := r.i 0 3

/-- Does the word give FC? -/
def Raw.hasC (r : Raw) : Bool := !isAbs r.fc

/-- Second source: FC, or IMM when FC is absent (R29). -/
def Raw.src2 (r : Raw) : Src2 := if isAbs r.fc then .imm r.imm else .reg (toGQ r.fc)

/-- IMM must be zero when FC gives the second source (R29). -/
def immSrc2 (r : Raw) : Option Reason := if r.hasC then immMask r 0 else none

/-- Codes of the modifiers (R31, R89). -/
def Size.ofCode : Nat → Size | 0 => .b | 1 => .h | 2 => .w | _ => .d
def Size.code : Size → BitVec 2 | .b => 0 | .h => 1 | .w => 2 | .d => 3
def ESize.ofCode : Nat → ESize | 0 => .b | 1 => .h | _ => .w
def ESize.code : ESize → BitVec 2 | .b => 0 | .h => 1 | .w => 2
def FFmt.ofCode : Nat → FFmt | 0 => .bf16 | 1 => .f16 | _ => .f32
def FFmt.code : FFmt → BitVec 2 | .bf16 => 0 | .f16 => 1 | .f32 => 2
def Rm.ofCode : Nat → Rm | 0 => .dyn | 1 => .rne | 2 => .rtz | 3 => .rup | _ => .rdn
def Rm.code : Rm → BitVec 3 | .dyn => 0 | .rne => 1 | .rtz => 2 | .rup => 3 | .rdn => 4
def Scope.ofCode : Nat → Scope | 0 => .act | 1 => .core | 2 => .clu | 3 => .die | 4 => .pkg | _ => .fab
def Scope.code : Scope → BitVec 3 | .act => 0 | .core => 1 | .clu => 2 | .die => 3 | .pkg => 4 | .fab => 5
def ICond.ofCode : Nat → ICond
  | 0 => .eq | 1 => .ne | 2 => .lt | 3 => .le | 4 => .gt | 5 => .ge | _ => .tst
def ICond.code : ICond → BitVec 3 | .eq => 0 | .ne => 1 | .lt => 2 | .le => 3 | .gt => 4 | .ge => 5 | .tst => 6
def FCond.ofCode : Nat → FCond
  | 0 => .eq | 1 => .ne | 2 => .lt | 3 => .le | 4 => .gt | 5 => .ge | _ => .un
def FCond.code : FCond → BitVec 3 | .eq => 0 | .ne => 1 | .lt => 2 | .le => 3 | .gt => 4 | .ge => 5 | .un => 6
def TBFmt.ofCode : Nat → TBFmt | 0 => .tb8 | 1 => .tb6 | _ => .tb4
def TBFmt.code : TBFmt → BitVec 2 | .tb8 => 0 | .tb6 => 1 | .tb4 => 2
def FenceKind.ofCode : Nat → FenceKind | 0 => .all | 1 => .ld | _ => .st
def FenceKind.code : FenceKind → BitVec 2 | .all => 0 | .ld => 1 | .st => 2
def PrefLevel.ofCode : Nat → PrefLevel | 0 => .l1 | 1 => .cc | _ => .home
def PrefLevel.code : PrefLevel → BitVec 2 | .l1 => 0 | .cc => 1 | .home => 2

/-- Codes of the numeric types (R95); 0x3 and 0x8 to 0xB are reserved. -/
def NType.ofCode : Nat → Option NType
  | 0 => some .bf16 | 1 => some .f16 | 2 => some .f32 | 4 => some .i8 | 5 => some .i16 | 6 => some .i32
  | 7 => some .i64 | 12 => some .n8 | 13 => some .n16 | 14 => some .n32 | 15 => some .n64
  | _ => none
def NType.code : NType → BitVec 4
  | .bf16 => 0 | .f16 => 1 | .f32 => 2 | .i8 => 4 | .i16 => 5 | .i32 => 6 | .i64 => 7
  | .n8 => 12 | .n16 => 13 | .n32 => 14 | .n64 => 15

/-- Operation and ordering of AMO (R145). -/
def AmoOp.ofCode (u : Bool) : Nat → AmoOp
  | 0 => .swap | 1 => .add | 2 => .and | 3 => .or | 4 => .xor | 5 => .min u | 6 => .max u | _ => .fadd
def AmoOp.code : AmoOp → BitVec 4
  | .swap => 0 | .add => 1 | .and => 2 | .or => 3 | .xor => 4 | .min _ => 5 | .max _ => 6 | .fadd => 7
def AmoOp.u : AmoOp → Bool | .min u | .max u => u | _ => false
def AmoOrd.ofCode (sc : Scope) : Nat → AmoOrd | 0 => .relaxed | 1 => .acq sc | 2 => .rel sc | _ => .ar sc
def AmoOrd.code : AmoOrd → BitVec 2 | .relaxed => 0 | .acq _ => 1 | .rel _ => 2 | .ar _ => 3
def AmoOrd.scope : AmoOrd → BitVec 3 | .relaxed => 0 | .acq s | .rel s | .ar s => s.code

/-- A rounding field outside R31 (0b101 to 0b111). -/
def rmBad (r : Raw) : Bool := 4 < r.mid

/-- A rounding field of an instruction that rounds by RNE: 0b000 or 0b001 (R116, R123). -/
def rneBad (r : Raw) : Bool := 1 < r.mid

/-- A scope field outside R31 (0b110, 0b111). -/
def scBad (r : Raw) : Bool := 5 < r.mid

/-- The format field 0b11 of R89. -/
def fmtBad (r : Raw) : Bool := r.low == 3

/-! ## Decoding -/

/-- One form: FN check, operand checks, IMM check, then the instruction. -/
def form (r : Raw) (fnBad : Option Reason) (ka kb kc : Kind) (immBad : Option Reason) (i : Instr)
    (extra : Option Reason := none) : Except Reason Instr :=
  match fnBad <|> opsBad ka kb kc extra r <|> immBad with
  | some e => .error e
  | none => .ok i

/-- The two-source integer family (R70). -/
def alu2 (r : Raw) (mk : Hdr → Size → Bool → GQ → GQ → Src2 → Instr) : Except Reason Instr :=
  form r (fnMask r 0x07) .g .g .gOpt (immSrc2 r) (mk r.h (.ofCode r.low) r.u (toGQ r.fa) (toGQ r.fb) r.src2)

/-- The one-source integer family (R72). -/
def alu1 (r : Raw) (mk : Hdr → Size → Bool → GQ → GQ → Instr) : Except Reason Instr :=
  form r (fnMask r 0x07) .g .g .no (immMask r 0) (mk r.h (.ofCode r.low) r.u (toGQ r.fa) (toGQ r.fb))

/-- An offset transfer (R82). -/
def xferB (r : Raw) (mk : Hdr → BitVec 32 → Instr) : Except Reason Instr :=
  form r (fnMask r 0) .none .none .none none (mk r.h r.imm)

/-- A register transfer (R82). -/
def xferR (r : Raw) (mk : Hdr → GQ → Instr) : Except Reason Instr :=
  form r (fnMask r 0) .none .g .none (immMask r 0) (mk r.h (toGQ r.fb))

/-- An instruction without operands. -/
def bare (r : Raw) (mk : Hdr → Instr) : Except Reason Instr :=
  form r (fnMask r 0) .none .none .none (immMask r 0) (mk r.h)

/-- Memory operand of R135. -/
def Raw.memOp (r : Raw) : MemOp :=
  { base := toGQ r.fb, index := toGQ? r.fc, disp := r.imm, loc := r.top }

/-- Scalar floating point with two operands (R92); `fn` is the FN check. -/
def fp2 (r : Raw) (fn : Option Reason) (ka : Kind) (i : Instr) : Except Reason Instr :=
  form r (fnRes (fmtBad r) fn) ka .g .gOpt
    (if r.hasC then immMask r 0 else if r.low == 2 then none else immMask r 0xFFFF) i

/-- IMM of a masked vector instruction, with the queue rule of R88 for its destination. R39 makes both checks at step 8; an unassigned
bit (reason 4) is reported before the queue register (reason 6) (DESIGN CHOICE, notes/assumptions/77.md). -/
def mkImm (r : Raw) : Option Reason := immMask r 0x7 <|> needCls (maskedOk r.top r.mk' (toVQ r.fa))

/-- A masked vector instruction with a second source (R96, R101). -/
def vec2 (r : Raw) (fn : Option Reason) (mk : Bool → BitVec 3 → VQ → VQ → VSrc → Instr) : Except Reason Instr :=
  form r fn .v .v .vg (mkImm r) (mk r.top r.mk' (toVQ r.fa) (toVQ r.fb) (toVSrc r.fc))

/-- A fused vector instruction, which reads FA (R96). -/
def vec3 (r : Raw) (mk : Hdr → FFmt → Rm → Bool → BitVec 3 → BitVec 5 → VQ → VSrc → Instr) : Except Reason Instr :=
  form r (fnRes (fmtBad r || rmBad r) (fnMask r 0xBB)) .vReg .v .vg (immMask r 0x7)
    (mk r.h (.ofCode r.low) (.ofCode r.mid) r.top r.mk' ((sidx r.fa).setWidth 5) (toVQ r.fb) (toVSrc r.fc))

/-- Is FA a g operand (class 0, or q0-q3)? It chooses the scalar form of a special function (R116). -/
def Raw.isSca (r : Raw) : Bool := scls r.fa == 0 || (scls r.fa == 3 && (sidx r.fa).toNat < 4)

/-- Check of FN bit 7 in the scalar form of a special function, made at FA (R39, R116). -/
def scaZ (r : Raw) : Option Reason := if r.isSca && r.top then some .mbz else none

/-- FN of a special function: type `.f32`, and the rounding field (R116). -/
def sfFn (r : Raw) (rmB : Bool) : Option Reason := fnRes (r.low != 2 || rmB) (fnMask r 0xBB)

/-- Special functions of one operand (R116, R117, R118). -/
def sf1 (r : Raw) (rmB : Bool) (mk : SF1 → Instr) : Except Reason Instr :=
  if r.isSca then
    form r (sfFn r rmB) .g .g .none (immMask r 0) (mk (.sca (toGQ r.fa) (toGQ r.fb))) (scaZ r)
  else
    form r (sfFn r rmB) .v .v .none (mkImm r) (mk (.vec r.top r.mk' (toVQ r.fa) (toVQ r.fb)))

/-- SREG destination of SWR: its row in the opcode table. -/
def swrInstr (h : Hdr) (r : SReg) (b : Src2) : Instr :=
  match r with
  | .supv => .swrSupv h b
  | .sfqh => .swrSfqh h b
  | .hbud => .swrHbud h b
  | .mlen => .swrMlen h b
  | .mqw => .swrMqw h b
  | .logp => .swrLogp h b
  | r => .swr h r b

/-- The special register of a checked specifier. -/
def toSReg (s : BitVec 12) : SReg := (SReg.ofNum (sidx s)).getD .wsp

/-- FMT of a sign operation and its source (R94). -/
def sgnOf {α : Type} (op : Nat) (c : α) : Sgn α :=
  match op with
  | 0 => .cpy c | 1 => .ncp c | 2 => .xor c | _ => .abs

/-- FN bits 4:3, the sign operation. -/
def Raw.sgnOp (r : Raw) : Nat := (r.fn.extractLsb' 3 2).toNat

/-- Payload operand of SEND and REPLY (R179). -/
def Raw.sendSrc (r : Raw) : SendSrc :=
  if scls r.fb == 1 || (scls r.fb == 3 && 4 ≤ (sidx r.fb).toNat) then .lanes (toVQ r.fb)
  else .regs (toGQ r.fb) (r.i 4 3)

/-- IMM of SEND and REPLY: class, count and the register range (R179). -/
def sendImm (r : Raw) : Option Reason :=
  immMask r 0x7F <|> need (sendOk r.sendSrc (r.i 0 4)) <|>
  (match r.sendSrc with | .lanes _ => need (r.i 4 3 == 0) | .regs .. => none)

/-- Decodes the word of a major opcode, after steps 1 to 3 of R39. Where RM must be 0b000, the reserved values 0b101-0b111 give reason 4
in FMIN and FMAX and reason 2 in VRED and MEWISE; R92, R105 and R262 leave open which (DESIGN CHOICE, notes/assumptions/73.md). -/
def decodeOp (r : Raw) : Except Reason Instr :=
  let h := r.h
  match r.op.toNat with
  | 0x01 => form r (fnMask r 0) .no .no .no (immMask r 0) (.nop r.h)
  | 0x10 => alu2 r .add
  | 0x11 => alu2 r .sub
  | 0x12 => alu1 r .mov
  | 0x13 => alu2 r .mul
  | 0x14 => alu2 r .mulh
  | 0x15 => alu2 r .mulhu
  | 0x16 => alu2 r .div
  | 0x17 => alu2 r .divu
  | 0x18 => alu2 r .rem
  | 0x19 => alu2 r .remu
  | 0x1A => alu2 r .and
  | 0x1B => alu2 r .or
  | 0x1C => alu2 r .xor
  | 0x1D => alu2 r .andn
  | 0x1E => alu2 r .shl
  | 0x1F => alu2 r .shr
  | 0x20 => alu2 r .sar
  | 0x21 => alu2 r .rot
  | 0x22 => alu1 r .clz
  | 0x23 => alu1 r .popc
  | 0x24 => alu2 r .min
  | 0x25 => alu2 r .max
  | 0x26 => form r (fnMask r 0xF7) .g .g .gOpt (immSrc2 r)
      (.sel h (.ofCode r.low) r.u (r.fn.extractLsb' 4 3) r.top (toGQ r.fa) (toGQ r.fb) r.src2)
  | 0x27 => form r (fnMask r 0x04) .g .none .none none (.ldi h r.u (toGQ r.fa) r.imm)
  | 0x28 => form r (fnMask r 0) .gReg .none .none none (.ldih h ((sidx r.fa).setWidth 5) r.imm)
  | 0x29 => form r (fnMask r 0x04) .g .g .gOpt (immSrc2 r) (.ext h r.u (toGQ r.fa) (toGQ r.fb) r.src2)
  | 0x2A => form r (fnMask r 0x04) .g .g .none (immMask r 0x3F3F)
      (.bfx h r.u (toGQ r.fa) (toGQ r.fb) (r.i 0 6) (r.i 8 6))
  | 0x2B => form r (fnMask r 0) .gReg .g .none (immMask r 0x3F3F)
      (.bfi h ((sidx r.fa).setWidth 5) (toGQ r.fb) (r.i 0 6) (r.i 8 6))
  | 0x2C => form r (fnMask r 0x80) .g .g .gOpt (if r.hasC then immMask r 0xFFFF0007 else none)
      (.lea h r.top (toGQ r.fa) (toGQ r.fb)
        (if r.hasC then .index (toGQ r.fc) (r.i 0 3) (r.i 16 16) else .disp r.imm))
  | 0x2D => form r (fnMask r 0) .g .g .none (immMask r 0) (.hidx h (toGQ r.fa) (toGQ r.fb))
  | 0x2E => form r (fnMask r 0) .g .g .none (immMask r 0) (.hxy h (toGQ r.fa) (toGQ r.fb))
  | 0x30 => xferB r .br
  | 0x31 => xferR r .brx
  | 0x32 => xferB r .call
  | 0x33 => xferR r .callx
  | 0x34 => xferR r .ret
  | 0x35 => form r (fnMask r 0) .gReg .none .none none (.loop h ((sidx r.fa).setWidth 5) r.imm)
  | 0x36 => bare r .endAct
  | 0x37 => form r (fnRes (r.mid == 7) (fnMask r 0x3F)) .p .g .gOpt (immSrc2 r)
      (.cmp h (.ofCode r.mid) (.ofCode r.low) r.u ((sidx r.fa).setWidth 3) (toGQ r.fb) r.src2)
  | 0x38 => fp2 r (fnRes (r.mid == 7) (fnMask r 0x3B)) .p
      (.fcmp h (.ofCode r.mid) (.ofCode r.low) ((sidx r.fa).setWidth 3) (toGQ r.fb) r.src2)
  | 0x39 => form r (fnMask r 0x0F) .p .p .p (immMask r 0)
      (.plog h (r.fn.extractLsb' 0 4) ((sidx r.fa).setWidth 3) ((sidx r.fb).setWidth 3) ((sidx r.fc).setWidth 3))
  | 0x3A =>
    let fn := fnRes (r.low == 3) (fnMask r 0x03)
    match r.low with
    | 0 =>
      if scls r.fa == 4 then
        form r fn .p .pg .none (immMask r 0)
          (.pmov h (if scls r.fb == 4 then .pp ((sidx r.fa).setWidth 3) ((sidx r.fb).setWidth 3)
            else .pg ((sidx r.fa).setWidth 3) (toGQ r.fb)))
      else form r fn .g .p .none (immMask r 0) (.pmov h (.gp (toGQ r.fa) ((sidx r.fb).setWidth 3)))
    | 1 => form r fn .g .none .none (immMask r 0) (.pmov h (.pack (toGQ r.fa)))
    | _ => form r fn .none .g .none (immMask r 0) (.pmov h (.unpack (toGQ r.fb)))
  | 0x3B => xferB r .asfork
  | 0x3C => bare r .aend
  | 0x40 => form r (fnMask r 0xC7) .g .g .gOpt none (.ld h (.ofCode r.low) r.u r.s (toGQ r.fa) r.memOp)
  | 0x41 => form r (fnMask r 0xC3) .g .g .gOpt none (.st h (.ofCode r.low) r.s (toGQ r.fa) r.memOp)
  | 0x42 => form r (fnRes (scBad r) (fnMask r 0xBF)) .g .g .gOpt none
      (.ldacq h (.ofCode r.mid) (.ofCode r.low) r.u (toGQ r.fa) r.memOp)
  | 0x43 => form r (fnRes (scBad r) (fnMask r 0xBB)) .g .g .gOpt none
      (.strel h (.ofCode r.mid) (.ofCode r.low) (toGQ r.fa) r.memOp)
  | 0x44 =>
    let op := (r.i 0 4).toNat
    let ord := (r.i 4 2).toNat
    form r (fnRes (r.low < 2 || scBad r) (fnMask r 0xBF)) .g .g .g
      (immMask r 0xFFFFFF3F <|> need (op < 8) <|> need (!(op == 7 && r.low == 3)) <|>
        need (!r.u || op == 5 || op == 6) <|> need (ord != 0 || r.mid == 0))
      (.amo h (.ofCode r.u op) (r.low == 3) (.ofCode (.ofCode r.mid) ord) r.top (toGQ r.fa) (toGQ r.fb) (toGQ r.fc)
        (r.i 8 24))
  | 0x45 =>
    let ord := (r.i 4 2).toNat
    form r (fnRes (r.low < 2 || scBad r) (fnMask r 0xBB)) .gReg .g .g
      (immMask r 0xFFFFFF30 <|> need (ord != 0 || r.mid == 0))
      (.cas h (r.low == 3) (.ofCode (.ofCode r.mid) ord) r.top ((sidx r.fa).setWidth 5) (toGQ r.fb) (toGQ r.fc)
        (r.i 8 24))
  | 0x46 => form r (fnRes (r.low == 3 || scBad r) (fnMask r 0x3B)) .none .none .none (immMask r 0)
      (.fence h (.ofCode r.low) (.ofCode r.mid))
  | 0x47 => form r (fnRes (scBad r) (fnMask r 0xBB)) .none .g .gOpt none
      (.cflush h (.ofCode r.mid) (.ofCode r.low) r.memOp)
  | 0x48 => form r (fnRes (scBad r) (fnMask r 0xBF)) .none .g .gOpt none
      (.cinv h r.u (.ofCode r.mid) (.ofCode r.low) r.memOp)
  | 0x49 => form r (fnRes (r.low == 3) (fnMask r 0x83)) .none .g .gOpt none (.pref h (.ofCode r.low) r.memOp)
  | 0x4A => bare r .sdrain
  | 0x50 => form r (fnMask r 0) (.eng 48 51) .g .g (immMask r 0xFFFF0001)
      (.scfg h (r.imm.getLsbD 0) ((sidx r.fa).setWidth 2) (toGQ r.fb) (toGQ r.fc) (r.i 16 16))
  | 0x51 => form r (fnMask r 0) .vBind (.eng 48 51) .none (immMask r 0)
      (.sbind h ((sidx r.fa).setWidth 2) ((sidx r.fb).setWidth 2))
  | 0x52 => form r (fnMask r 0) .vBind .none .none (immMask r 0) (.sunbind h ((sidx r.fa).setWidth 2))
  | 0x53 => fp2 r (fnRes (rmBad r) (fnMask r 0x3B)) .g
      (.fadd h (.ofCode r.low) (.ofCode r.mid) (toGQ r.fa) (toGQ r.fb) r.src2)
  | 0x54 => fp2 r (fnRes (rmBad r) (fnMask r 0x3B)) .g
      (.fsub h (.ofCode r.low) (.ofCode r.mid) (toGQ r.fa) (toGQ r.fb) r.src2)
  | 0x55 => fp2 r (fnRes (rmBad r) (fnMask r 0x3B)) .g
      (.fmul h (.ofCode r.low) (.ofCode r.mid) (toGQ r.fa) (toGQ r.fb) r.src2)
  | 0x56 => fp2 r (fnRes (rmBad r) (fnMask r 0x3B)) .gReg
      (.ffma h (.ofCode r.low) (.ofCode r.mid) ((sidx r.fa).setWidth 5) (toGQ r.fb) r.src2)
  | 0x57 => fp2 r (fnMask r 0x03) .g (.fmin h (.ofCode r.low) (toGQ r.fa) (toGQ r.fb) r.src2)
  | 0x58 => fp2 r (fnMask r 0x03) .g (.fmax h (.ofCode r.low) (toGQ r.fa) (toGQ r.fb) r.src2)
  | 0x59 =>
    let dt := NType.ofCode (r.i 0 4).toNat
    let src := NType.ofCode (r.i 4 4).toNat
    form r (fnRes (rmBad r) (fnMask r 0x38)) .g .g .none
      (immMask r 0xFF <|> need (dt.isSome && src.isSome) <|> need (cvtPairOk (dt.getD .f32) (src.getD .f32)))
      (.fcvt h (.ofCode r.mid) (dt.getD .f32) (src.getD .f32) (toGQ r.fa) (toGQ r.fb))
  | 0x5A => form r (fnRes (fmtBad r) (fnMask r 0x1B)) .g .g (if r.sgnOp == 3 then .none else .g) (immMask r 0)
      (.fsgn h (.ofCode r.low) (toGQ r.fa) (toGQ r.fb) (sgnOf r.sgnOp (toGQ r.fc)))
  | 0x60 => vec2 r (fnRes (fmtBad r || rmBad r) (fnMask r 0xBB)) (.vadd h (.ofCode r.low) (.ofCode r.mid))
  | 0x61 => vec2 r (fnRes (fmtBad r || rmBad r) (fnMask r 0xBB)) (.vsub h (.ofCode r.low) (.ofCode r.mid))
  | 0x62 => vec2 r (fnRes (fmtBad r || rmBad r) (fnMask r 0xBB)) (.vmul h (.ofCode r.low) (.ofCode r.mid))
  | 0x63 => vec3 r .vfma
  | 0x64 => vec3 r .vfms
  | 0x65 => vec3 r .vfnma
  | 0x66 => vec2 r (fnRes (fmtBad r) (fnMask r 0x83)) (.vmin h (.ofCode r.low))
  | 0x67 => vec2 r (fnRes (fmtBad r) (fnMask r 0x83)) (.vmax h (.ofCode r.low))
  | 0x68 => form r (fnRes (fmtBad r) (fnMask r 0x9B)) .v .v (if r.sgnOp == 3 then .none else .vg) (mkImm r)
      (.vsgn h (.ofCode r.low) r.top r.mk' (toVQ r.fa) (toVQ r.fb) (sgnOf r.sgnOp (toVSrc r.fc)))
  | 0x69 =>
    form r (fnRes (r.low == 1 || r.low == 3 || (r.u && r.low == 2) || r.mid == 7) (fnMask r 0x3F)) .k .v .vg
      (immMask r 0x7)
      (.vcmp h (if r.low == 2 then .flt (.ofCode r.mid) else .int (.ofCode r.mid) r.u) r.mk' ((sidx r.fa).setWidth 3)
        (toVQ r.fb) (toVSrc r.fc))
  | 0x6A => form r (fnMask r 0) .v .v .vg (immMask r 0x7)
      (.vsel h r.mk' (toVQ r.fa) (toVQ r.fb) (toVSrc r.fc))
  | 0x6B => vec2 r (fnRes (fmtBad r) (fnMask r 0x8F <|> need (r.fn.getLsbD 3 || !r.u)))
      (.viadd h (.ofCode r.low) (r.fn.getLsbD 3) r.u)
  | 0x6C => vec2 r (fnRes (fmtBad r) (fnMask r 0x8F <|> need (r.fn.getLsbD 3 || !r.u)))
      (.visub h (.ofCode r.low) (r.fn.getLsbD 3) r.u)
  | 0x6D => vec2 r (fnRes (fmtBad r) (fnMask r 0x83)) (.vimul h (.ofCode r.low))
  | 0x6E => vec2 r (fnRes (r.low != 2) (fnMask r 0x83)) (.vand h)
  | 0x6F => vec2 r (fnRes (r.low != 2) (fnMask r 0x83)) (.vor h)
  | 0x70 => vec2 r (fnRes (r.low != 2) (fnMask r 0x83)) (.vxor h)
  | 0x71 => vec2 r (fnRes (fmtBad r) (fnMask r 0x83)) (.vshl h (.ofCode r.low))
  | 0x72 => vec2 r (fnRes (fmtBad r) (fnMask r 0x83)) (.vshr h (.ofCode r.low))
  | 0x73 => vec2 r (fnRes (fmtBad r) (fnMask r 0x83)) (.vsar h (.ofCode r.low))
  | 0x74 =>
    let dt := NType.ofCode (r.i 4 4).toNat
    let src := NType.ofCode (r.i 8 4).toNat
    let p : BitVec 2 := r.i 12 2
    let d := dt.getD .f32
    let t := src.getD .f32
    form r (fnRes (rmBad r) (fnMask r 0xB8)) .v .v .none
      (immMask r 0x3FF7 <|> need (dt.isSome && src.isSome && d.bits != 64 && t.bits != 64) <|>
        need (cvtPairOk d t) <|> need (p.toNat < cvtRatio d t) <|> needCls (vcvtOk r.top r.mk' d t p (toVQ r.fa)))
      (.vcvt h (.ofCode r.mid) r.top r.mk' d t p (toVQ r.fa) (toVQ r.fb))
  | 0x75 => form r (fnRes (fmtBad r) (fnMask r 0x83)) .v .g .none (mkImm r)
      (.vbcast h (.ofCode r.low) r.top r.mk' (toVQ r.fa) (toGQ r.fb))
  | 0x76 =>
    let i : Idx := if r.hasC then .reg (toGQ r.fc) else .imm (r.i 0 6)
    form r (fnRes (fmtBad r) (fnMask r 0x07)) .g .v .gOpt
      (if r.hasC then immMask r 0 else immMask r 0x3F <|> need (idxOk (.ofCode r.low) i))
      (.vextr h (.ofCode r.low) r.u (toGQ r.fa) (toVQ r.fb) i)
  | 0x77 =>
    let i : Idx := if r.hasC then .reg (toGQ r.fc) else .imm (r.i 0 6)
    form r (fnRes (fmtBad r) (fnMask r 0x03)) .vReg .g .gOpt
      (if r.hasC then immMask r 0 else immMask r 0x3F <|> need (idxOk (.ofCode r.low) i))
      (.vins h (.ofCode r.low) ((sidx r.fa).setWidth 5) (toGQ r.fb) i)
  | 0x78 => form r (fnRes (fmtBad r) (fnMask r 0x83)) .v .v .v (mkImm r)
      (.vperm h (.ofCode r.low) r.top r.mk' (toVQ r.fa) (toVQ r.fb) (toVQ r.fc))
  | 0x79 =>
    let op := (r.fn.extractLsb' 6 2).toNat
    let flt := r.low == 2
    let add := flt && op == 0
    form r (fnRes (r.low == 1 || r.low == 3 || (r.u && flt) || op == 3 || rmBad r)
        (need (add || r.mid == 0))) .g .v .none (immMask r 0x7)
      (.vred h (match flt, op with
          | true, 0 => .fadd (.ofCode r.mid) | true, 1 => .fmax | true, _ => .fmin
          | false, 0 => .iadd r.u | false, 1 => .imax r.u | false, _ => .imin r.u)
        r.mk' (toGQ r.fa) (toVQ r.fb))
  | 0x7A => form r (fnRes (2 ≤ r.low || rmBad r) (fnMask r 0xBB)) .vReg .v .v (immMask r 0x7)
      (.vdot2 h (r.low == 1) (.ofCode r.mid) r.top r.mk' ((sidx r.fa).setWidth 5) (toVQ r.fb) (toVQ r.fc))
  | 0x7B => form r (fnRes (r.low != 0) (fnMask r 0x8C)) .vReg .v .v (immMask r 0x7)
      (.vdot4 h r.u (r.fn.getLsbD 3) r.top r.mk' ((sidx r.fa).setWidth 5) (toVQ r.fb) (toVQ r.fc))
  | 0x7C => form r (fnMask r 0xC0) .v .g .gOpt
      (immMask r 0xFFFFFF0F <|> needCls (maskedOk r.top r.mk' (toVQ r.fa)))
      (.vld h r.s r.top (r.imm.getLsbD 3) r.mk' (toVQ r.fa) (toGQ r.fb) (toGQ? r.fc) (r.i 8 24))
  | 0x7D => form r (fnMask r 0x40) .v .g .gOpt (immMask r 0xFFFFFF0F)
      (.vst h r.s (r.imm.getLsbD 3) r.mk' (toVQ r.fa) (toGQ r.fb) (toGQ? r.fc) (r.i 8 24))
  | 0x7E => form r (fnMask r 0xC0) .v .g .v
      (immMask r 0xFFFFFF0F <|> needCls (maskedOk r.top r.mk' (toVQ r.fa)))
      (.vgather h r.s r.top (r.imm.getLsbD 3) r.mk' (toVQ r.fa) (toGQ r.fb) (toVQ r.fc) (r.i 8 24))
  | 0x7F => form r (fnMask r 0x40) .v .g .v (immMask r 0xFFFFFF0F)
      (.vscatter h r.s (r.imm.getLsbD 3) r.mk' (toVQ r.fa) (toGQ r.fb) (toVQ r.fc) (r.i 8 24))
  | 0x80 => form r (fnRes (r.low == 3 || rmBad r) (fnMask r 0x3B)) .v .g .none
      (immMask r (if r.low == 2 then 0xFFFFFF10 else 0xFFFFFF00))
      (.vldf h (match r.low with | 0 => .bf16 | 1 => .raw | _ => .f32 (r.imm.getLsbD 4)) (.ofCode r.mid)
        (toVQ r.fa) (toGQ r.fb) (r.i 8 24))
  | 0x81 => form r (fnRes (r.low == 3 || rneBad r) (fnMask r 0x3B)) .v .g (if r.low == 2 then .v else .none)
      (immMask r 0xFFFFFF00)
      (.vstf h (match r.low with | 0 => .bf16 | 1 => .raw | _ => .f32 (toVQ r.fc)) (r.mid == 1)
        (toVQ r.fa) (toGQ r.fb) (r.i 8 24))
  | 0x82 => form r (fnRes (r.low == 3 || rneBad r) (fnMask r 0x3B)) .v .v .v (immMask r 0)
      (.baddq h (.ofCode r.low) (r.mid == 1) (toVQ r.fa) (toVQ r.fb) (toVQ r.fc))
  | 0x83 => form r (fnMask r 0x0F) .k .k .k (immMask r 0)
      (.klog h (r.fn.extractLsb' 0 4) ((sidx r.fa).setWidth 3) ((sidx r.fb).setWidth 3) ((sidx r.fc).setWidth 3))
  | 0x84 =>
    let fn := fnRes (2 ≤ r.low) (fnMask r 0x03)
    match r.low with
    | 0 =>
      if scls r.fa == 4 then
        form r fn .k .kg .none (immMask r 0)
          (.kmov h (if scls r.fb == 4 then .kk ((sidx r.fa).setWidth 3) ((sidx r.fb).setWidth 3)
            else .kg ((sidx r.fa).setWidth 3) (toGQ r.fb)))
      else form r fn .g .k .none (immMask r 0) (.kmov h (.gk (toGQ r.fa) ((sidx r.fb).setWidth 3)))
    | _ => form r fn .k .g .none (immMask r 0) (.kmov h (.first ((sidx r.fa).setWidth 3) (toGQ r.fb)))
  | 0x90 => sf1 r (rneBad r) (.rcpa h (r.mid == 1))
  | 0x91 => sf1 r (rneBad r) (.rsqa h (r.mid == 1))
  | 0x92 => sf1 r (rmBad r) (.sqrtf h (.ofCode r.mid))
  | 0x93 =>
    if r.isSca then
      form r (sfFn r (rmBad r)) .g .g .g (immMask r 0)
        (.divf h (.ofCode r.mid) (.sca (toGQ r.fa) (toGQ r.fb) (toGQ r.fc))) (scaZ r)
    else
      form r (sfFn r (rmBad r)) .v .v .vg (mkImm r)
        (.divf h (.ofCode r.mid) (.vec r.top r.mk' (toVQ r.fa) (toVQ r.fb) (toVSrc r.fc)))
  | 0x94 => sf1 r (rneBad r) (.exp2a h (r.mid == 1))
  | 0x95 => sf1 r (rneBad r) (.log2a h (r.mid == 1))
  | 0x96 => sf1 r (rneBad r) (.tanha h (r.mid == 1))
  | 0x97 => sf1 r (rneBad r) (.gelua h (r.mid == 1))
  | 0x98 =>
    if r.isSca then
      form r (sfFn r (rneBad r)) .g .g .none (immMask r 0)
        (.sincos h (r.mid == 1) (.sca (toGQ r.fa) (toGQ r.fb))) (scaZ r)
    else
      form r (sfFn r (rneBad r)) .vEven .v .none (immMask r 0x7)
        (.sincos h (r.mid == 1) (.vec r.top r.mk' ((sidx r.fa).extractLsb' 1 4) (toVQ r.fb)))
  | 0x99 =>
    if r.isSca then
      form r (sfFn r (rmBad r)) .g .g .g (immMask r 0)
        (.pmerge h (.ofCode r.mid) (.sca (toGQ r.fa) (toGQ r.fb) (toGQ r.fc))) (scaZ r)
    else
      form r (sfFn r (rmBad r)) .v .v .v (mkImm r)
        (.pmerge h (.ofCode r.mid) (.vec r.top r.mk' (toVQ r.fa) (toVQ r.fb) (toVQ r.fc)))
  | 0xA0 =>
    let set := r.fn.getLsbD 0
    form r (fnRes (rneBad r) (fnMask r 0x39)) .d .d (if set then .gOpt else .none)
      (if set && !r.hasC then need (r.i 16 16 == (if r.imm.getLsbD 15 then 0xFFFF else 0)) else immMask r 0)
      (.dnorm h (r.mid == 1) ((sidx r.fa).setWidth 4) ((sidx r.fb).setWidth 4)
        (if set then (if r.hasC then .reg (toGQ r.fc) else .imm (r.i 0 16)) else .keep))
  | 0xA1 =>
    let rne := r.mid == 1
    match r.low with
    | 0 => form r (fnRes (rneBad r) (fnMask r 0x3B)) .d .v .none (immMask r 0)
        (.dcvt h (.fromBf16 rne ((sidx r.fa).setWidth 4) (toVQ r.fb)))
    | 1 => form r (fnRes (rneBad r) (fnMask r 0x3B)) .d .v .v (immMask r 0)
        (.dcvt h (.fromF32 rne ((sidx r.fa).setWidth 4) (toVQ r.fb) (toVQ r.fc)))
    | 2 => form r (fnRes (rmBad r) (fnMask r 0x3B)) .v .d .none (immMask r 0)
        (.dcvt h (.toBf16 (.ofCode r.mid) (toVQ r.fa) ((sidx r.fb).setWidth 4)))
    | _ => form r (fnRes (rmBad r) (fnMask r 0x3B)) .vEven .d .none (immMask r 0)
        (.dcvt h (.toF32 (.ofCode r.mid) ((sidx r.fa).extractLsb' 1 4) ((sidx r.fb).setWidth 4)))
  | 0xA2 => form r (fnRes (rmBad r) (fnMask r 0x39)) .g .d .d (immMask r 0)
      (.ddot h (r.fn.getLsbD 0) (.ofCode r.mid) (toGQ r.fa) ((sidx r.fb).setWidth 4) ((sidx r.fc).setWidth 4))
  | 0xA3 =>
    let w2 := r.fn.getLsbD 0
    form r (fnRes (rmBad r) (fnMask r 0x79)) .v (if w2 then .dEven else .d) .g none
      (.dsim8 h (.ofCode r.mid) r.s (toVQ r.fa)
        (if w2 then .w2 ((sidx r.fb).extractLsb' 1 3) else .w1 ((sidx r.fb).setWidth 4)) (toGQ r.fc) r.imm)
  | 0xA4 => form r (fnMask r 0) .d .d .gOpt (immSrc2 r)
      (.dscale h ((sidx r.fa).setWidth 4) ((sidx r.fb).setWidth 4) r.src2)
  | 0xA5 => form r (fnRes (rneBad r) (fnMask r 0x39)) .d .d .d (immMask r 0)
      (.dadd h (r.fn.getLsbD 0) (r.mid == 1) ((sidx r.fa).setWidth 4) ((sidx r.fb).setWidth 4)
        ((sidx r.fc).setWidth 4))
  | 0xA6 => form r (fnRes (rneBad r) (fnMask r 0x38)) .d .d .d
      (immMask r 0x1FFFF <|> need (r.imm.toNat ≤ 65536))
      (.dlerp h (r.mid == 1) ((sidx r.fa).setWidth 4) ((sidx r.fb).setWidth 4) ((sidx r.fc).setWidth 4) (r.i 0 17))
  | 0xA7 => form r (fnMask r 0) .d .d .none (immMask r 0)
      (.dneg h ((sidx r.fa).setWidth 4) ((sidx r.fb).setWidth 4))
  | 0xA8 => form r (fnRes (rneBad r) (fnMask r 0x38)) .d .d .g (immMask r 0x1F1F)
      (.drot h (r.mid == 1) ((sidx r.fa).setWidth 4) ((sidx r.fb).setWidth 4) (toGQ r.fc) (r.i 0 5) (r.i 8 5))
  | 0xA9 =>
    let fn := fnRes (r.low == 3) (fnMask r 0x03)
    match r.low with
    | 0 => form r fn .d .d .none (immMask r 0) (.dmovn h (.dd ((sidx r.fa).setWidth 4) ((sidx r.fb).setWidth 4)))
    | 1 => form r fn .g .d .none (immMask r 0) (.dmovn h (.gd (toGQ r.fa) ((sidx r.fb).setWidth 4)))
    | _ => form r fn .g .d .none (immMask r 0) (.dmovn h (.gf (toGQ r.fa) ((sidx r.fb).setWidth 4)))
  | 0xAA => form r (fnMask r 0x40) .d .g .gOpt none
      (.dld h r.s ((sidx r.fa).setWidth 4) (toGQ r.fb) (toGQ? r.fc) r.imm)
  | 0xAB => form r (fnMask r 0x40) .d .g .gOpt none
      (.dst h r.s ((sidx r.fa).setWidth 4) (toGQ r.fb) (toGQ? r.fc) r.imm)
  | 0xAC => form r (fnRes (r.low == 3) (fnMask r 0x03)) .p .d .none (if r.low == 2 then none else immMask r 0)
      (.dtest h ((sidx r.fa).setWidth 3) ((sidx r.fb).setWidth 4)
        (match r.low with | 0 => .zero | 1 => .sat | _ => .gt r.imm))
  | 0xB0 => form r (fnMask r 0x40) .g .vg .gOpt (sendImm r)
      (.send h r.s (toGQ r.fa) r.sendSrc (r.i 0 4) (toGQ? r.fc))
  | 0xB1 => form r (fnMask r 0x40) .g .g .gOpt
      (immMask r 0xFFF <|> need ((r.i 4 8).toNat < 240) <|> need (r.i 0 4 != 15))
      (.sendl h r.s (toGQ r.fa) (toGQ r.fb) (r.i 4 8) (r.i 0 4) (toGQ? r.fc))
  | 0xB2 => form r (fnMask r 0x40) .none .vg .gOpt (sendImm r) (.reply h r.s r.sendSrc (r.i 0 4) (toGQ? r.fc))
  | 0xB3 => form r (fnMask r 0) .none .none .none (immMask r 0xFF <|> need (128 ≤ (r.i 0 8).toNat))
      (.refuse h (r.i 0 8))
  | 0xB4 =>
    let fn := fnRes (4 < (r.fn.extractLsb' 0 3).toNat) (fnMask r 0x07)
    let m : BitVec 2 := r.i 0 2
    match (r.fn.extractLsb' 0 3).toNat with
    | 0 => form r fn .none .g .none (immMask r 0x3) (.mbcfgQ h m (toGQ r.fb))
    | 1 => form r fn .none .g .none (immMask r 0x3) (.mbcfgComb h m (toGQ r.fb))
    | 2 => form r fn .none .g .g (immMask r 0x3) (.mbcfgBob h m (toGQ r.fb) (toGQ r.fc))
    | 3 => form r fn .none .g .none (immMask r 0x1F3) (.mbcfgHnd h m (r.i 4 4) (r.imm.getLsbD 8) (toGQ r.fb))
    | _ => form r fn .none .g .none (immMask r 0x3) (.mbcfgOff h m (toGQ r.fb))
  | 0xB5 => form r (fnMask r 0) .none .none .none (immMask r 0x3FFF0003) (.cmask h (r.i 0 2) (r.i 16 14))
  | 0xB6 => form r (fnMask r 0) .none .none .none (immMask r 0x3FFF0003) (.cunmask h (r.i 0 2) (r.i 16 14))
  | 0xB7 => form r (fnMask r 0x01) .g .none .none (immMask r 0x3)
      (.mbstat h (r.fn.getLsbD 0) (toGQ r.fa) (r.i 0 2))
  | 0xB8 => form r (fnMask r 0x07 <|> need (!r.u || r.low == 1 || r.low == 2)) .none .g .g (immMask r 0x3)
      (.mbarm h (match r.low with | 0 => .add | 1 => .max r.u | 2 => .min r.u | _ => .pmerge) (r.i 0 2)
        (toGQ r.fb) (toGQ r.fc))
  | 0xB9 => form r (fnMask r 0x03) .g .none .none (immMask r (if r.low == 3 then 0x3 else 0))
      (.self h (match r.low with | 0 => .aad | 1 => .aid | 2 => .grp | _ => .mbx (r.i 0 2)) (toGQ r.fa))
  | 0xC0 => form r (fnMask r 0) .none .none .none (immMask r 0x3)
      (.entry h (r.imm.getLsbD 0) (r.imm.getLsbD 1))
  | 0xC1 => form r (fnMask r 0) .none .gOpt .none (if isAbs r.fb then none else immMask r 0)
      (.calld h (if isAbs r.fb then .off r.imm else .reg (toGQ r.fb)))
  | 0xC2 => bare r .retd
  | 0xC3 => form r (fnMask r 0x01) .none .g .g (immMask r 0x1)
      (.lend h (r.fn.getLsbD 0) (r.imm.getLsbD 0) (toGQ r.fb) (toGQ r.fc))
  | 0xC4 => form r (fnMask r 0x01) .none .none .none (immMask r 0x1)
      (.unlend h (r.fn.getLsbD 0) (r.imm.getLsbD 0))
  | 0xC5 =>
    let fn := fnRes (r.low == 3) (fnMask r (if r.low == 0 then 0x83 else 0x03))
    match r.low with
    | 0 => form r fn .g .g .none none (.domq h (.probe (toGQ r.fa) (toGQ r.fb) r.imm r.top))
    | 1 => form r fn .g .none .none (immMask r 0) (.domq h (.depth (toGQ r.fa)))
    | _ => form r fn .g .none .none (immMask r 0) (.domq h (.caller (toGQ r.fa)))
  | 0xD0 => form r (fnMask r 0) (.eng 0 1) .gOpt .none (immMask r (if isAbs r.fb then 0x1FFFFFF else 0xFF))
      (.mma h ((sidx r.fa).getLsbD 0) (if isAbs r.fb then .imm (r.i 8 17) else .reg (toGQ r.fb)) (r.i 0 4) (r.i 4 4))
  | 0xD1 => form r (fnMask r 0) (.eng 0 1) .gOpt .none (immMask r (if isAbs r.fb then 0x1FFFFFF else 0xFF))
      (.mmas h ((sidx r.fa).getLsbD 0) (if isAbs r.fb then .imm (r.i 8 17) else .reg (toGQ r.fb)) (r.i 0 4) (r.i 4 4))
  | 0xD2 => form r (fnMask r 0) (.eng 0 1) .g .none (immMask r 0xFFF)
      (.mmasx h ((sidx r.fa).getLsbD 0) (toGQ r.fb) (r.i 0 4) (r.i 4 4) (r.i 8 4))
  | 0xD3 => form r (fnMask r 0) (.eng 0 1) .none .none (immMask r 0) (.mzero h ((sidx r.fa).getLsbD 0))
  | 0xD4 => form r (fnMask r 0) (.eng 0 1) .none .none (immMask r 0xF)
      (.mload h ((sidx r.fa).getLsbD 0) (r.i 0 4))
  | 0xD5 => form r (fnRes (rmBad r) (fnMask r 0x38)) .none (.eng 0 1) .none (immMask r 0xF)
      (.mstore h (.ofCode r.mid) (r.i 0 4) ((sidx r.fb).getLsbD 0))
  | 0xD6 => form r (fnMask r 0) .none .none .none (immMask r 0xFF) (.mxpose h (r.i 0 4) (r.i 4 4))
  | 0xD7 =>
    let op := (r.fn.extractLsb' 0 3).toNat
    let rm := Rm.ofCode r.mid
    let mm := op == 2 || op == 3
    let sca := op < 4
    form r (fnRes (5 < op || rmBad r) (fnMask r (if mm then 0x07 else 0x3F))) (.eng 0 1)
      (if sca then .g else .none) .none (immMask r (if sca then 0 else 0xF))
      (.mewise h ((sidx r.fa).getLsbD 0) (match op with
        | 0 => .mul rm (toGQ r.fb) | 1 => .add rm (toGQ r.fb) | 2 => .max (toGQ r.fb) | 3 => .min (toGQ r.fb)
        | 4 => .mulv rm (r.i 0 4) | _ => .addv rm (r.i 0 4)))
  | 0xD8 =>
    let fn := fnRes (2 ≤ r.low) (fnMask r (if r.low == 1 then 0x07 else 0x03))
    match r.low with
    | 0 => form r fn .none .g .g (immMask r 0xF) (.mcfgSw h (r.i 0 4) (toGQ r.fb) (toGQ r.fc))
    | _ => form r fn .g .none .none (immMask r 0) (.mcfgSt h r.u (toGQ r.fa))
  | 0xE0 => form r (fnMask r 0) .g .g (if isAbs r.fc then .none else .eng 32 39) (immMask r 0)
      (.copy h (toGQ r.fa) (toGQ r.fb) (if isAbs r.fc then none else some ((sidx r.fc).setWidth 3)))
  | 0xE1 => form r (fnMask r 0x01) .g .g .none (immMask r 0)
      (.gather h (r.fn.getLsbD 0) (toGQ r.fa) (toGQ r.fb))
  | 0xE2 => form r (fnMask r 0) (.eng 32 39) .g .g (immMask r 0)
      (.cbinit h ((sidx r.fa).setWidth 3) (toGQ r.fb) (toGQ r.fc))
  | 0xE3 => form r (fnMask r 0) .g (.eng 32 39) .gOpt (immMask r 0)
      (.cbwait h (toGQ r.fa) ((sidx r.fb).setWidth 3) (toGQ? r.fc))
  | 0xE4 => form r (fnMask r 0) .none (.eng 32 39) .none (need (1 ≤ r.imm.toNat && r.imm.toNat ≤ 64))
      (.cbrel h ((sidx r.fb).setWidth 3) r.imm)
  | 0xE5 => form r (fnMask r 0) .none (.eng 16 19) .gOpt (immSrc2 r)
      (.waitc h ((sidx r.fb).setWidth 2) (if r.hasC then .reg (toGQ r.fc) else .imm r.imm))
  | 0xE6 => form r (fnRes (r.low == 3) (fnMask r 0x03)) .g (.eng 16 19) .none (immMask r 0)
      (.readc h (match r.low with | 0 => .assigned | 1 => .present | _ => .failed) (toGQ r.fa)
        ((sidx r.fb).setWidth 2))
  | 0xE7 => form r (fnMask r 0) .none .g .none (immMask r 0x3) (.cbar h (r.i 0 2) (toGQ r.fb))
  | 0xE8 => form r (fnMask r 0) .g .g .none (immMask r 0) (.gsub h (toGQ r.fa) (toGQ r.fb))
  | 0xE9 =>
    let set := r.fn.getLsbD 0
    let e : EvSrc := if isAbs r.fb then .imm (r.i 0 8) else .reg (toGQ r.fb)
    let immB := need (isAbs r.fb || r.i 0 8 == 0) <|>
      (if r.hasC then need (r.i 8 24 == 0) else need (r.i 8 24 != 0))
    if set then form r (fnMask r 0x01) .none .gOpt .gNeed immB (.gsigSet h e (toGQ r.fc))
    else form r (fnMask r 0x01) .none .gOpt .gOpt immB
      (.gsig h e (if r.hasC then .reg (toGQ r.fc) else .imm (r.i 8 24)))
  | 0xF0 => form r (fnMask r 0) .g .sreg .none (immMask r 0) (.srd h (toGQ r.fa) (toSReg r.fb))
  | 0xF1 => form r (fnMask r 0) .sreg .gOpt .none (if isAbs r.fb then none else immMask r 0)
      (swrInstr h (toSReg r.fa) (if isAbs r.fb then .imm r.imm else .reg (toGQ r.fb)))
  | 0xF2 => form r (fnMask r 0) .none .none .none (immMask r 0xFFFF) (.trap h (r.i 0 16))
  | 0xF3 => form r (fnMask r 0) .none .none .none (immMask r 0xFFFF) (.brk h (r.i 0 16))
  | 0xF4 => form r (fnMask r 0) .g .g .g (immMask r 0) (.resume h (toGQ r.fa) (toGQ r.fb) (toGQ r.fc))
  | 0xF5 => form r (fnMask r 0) .g .g .g (immMask r 0) (.winmap h (toGQ r.fa) (toGQ r.fb) (toGQ r.fc))
  | 0xF6 => form r (fnMask r 0x01) .g .g .none (immMask r 0) (.ckpt h (r.fn.getLsbD 0) (toGQ r.fa) (toGQ r.fb))
  | 0xF7 =>
    let sc := Scope.ofCode r.mid
    let fn := fnRes (2 ≤ r.low || r.mid == 0 || 4 < r.mid) (fnMask r 0x3B)
    match r.low with
    | 0 => form r fn .none .g .none (immMask r 0) (.tlbinvPage h sc (toGQ r.fb))
    | _ => form r fn .none .none .none (immMask r 0) (.tlbinvAll h sc)
  | 0xF8 => form r (fnMask r 0x01) .none .gOpt .none (immMask r (if isAbs r.fb then 0xFFFFFF else 0))
      (.logmark h (r.fn.getLsbD 0) (if isAbs r.fb then .imm (r.i 0 24) else .reg (toGQ r.fb)))
  | 0xF9 => form r (fnMask r 0x01) .none .g .g (immMask r 0)
      (if r.fn.getLsbD 0 then .cstopGo h (toGQ r.fb) (toGQ r.fc) else .cstop h (toGQ r.fb) (toGQ r.fc))
  | 0xFA =>
    let fn := fnRes (r.low == 3) (fnMask r 0x03)
    match r.low with
    | 0 => form r fn .g .g .g (immMask r 0) (.killAct h (toGQ r.fa) (toGQ r.fb) (toGQ r.fc))
    | 1 => form r fn .g .g .none (immMask r 0) (.killActor h (toGQ r.fa) (toGQ r.fb))
    | _ => form r fn .g .g .none (immMask r 0) (.killGrp h (toGQ r.fa) (toGQ r.fb))
  | _ => .error .opcode

/-- Is OP an opcode that R37 allocates? -/
def opAllocated (op : BitVec 8) : Bool :=
  let n := op.toNat
  n == 0x01 || (0x10 ≤ n && n ≤ 0x2E) || (0x30 ≤ n && n ≤ 0x3C) || (0x40 ≤ n && n ≤ 0x4A) ||
  (0x50 ≤ n && n ≤ 0x5A) || (0x60 ≤ n && n ≤ 0x84) || (0x90 ≤ n && n ≤ 0x99) || (0xA0 ≤ n && n ≤ 0xAC) ||
  (0xB0 ≤ n && n ≤ 0xB9) || (0xC0 ≤ n && n ≤ 0xC5) || (0xD0 ≤ n && n ≤ 0xD8) || (0xE0 ≤ n && n ≤ 0xE9) ||
  (0xF0 ≤ n && n ≤ 0xFA)

/-- Decoding, with the checks of R39 in their order: opcode, guard (and ENTRY's own check of it, R194), bit 76, then
the entry's checks. -/
def decodeRaw (r : Raw) : Except Reason Instr :=
  if !opAllocated r.op then .error .opcode
  else if r.h.grd == 15 then .error .guard
  else if r.op == 0xC0 && r.h.grd != 7 then .error .mbz
  else if r.b76 then .error .mbz
  else decodeOp r

/-- Decoding of a 96-bit word. -/
def decodeWord (w : IWord) : Except Reason Instr := decodeRaw (unpack w)

/-- The word of 12 consecutive bytes, byte 0 first (R26). -/
def wordOfBytes (bs : List Byte) : IWord :=
  BitVec.ofNat 96 (bs.foldr (fun b acc => b.toNat + 256 * acc) 0)

/-- The 12 bytes of a word, byte 0 first (R26). -/
def bytesOfWord (w : IWord) : List Byte := (List.range 12).map fun i => w.extractLsb' (8 * i) 8

/-- Decoding of the bytes at a program counter: the first 12 make the word, and the rest is answered with it. -/
def decodeBytes (bs : List Byte) : Except Reason (Instr × List Byte) :=
  match decodeWord (wordOfBytes (bs.take 12)) with
  | .ok i => .ok (i, bs.drop 12)
  | .error e => .error e

/-- The instruction whose bits are `w`, numbered from the least significant bit of byte 0; every word is 96 bits. -/
def decodeTableWord (nbits w : Nat) : Option Instr :=
  if nbits ≤ 96 then
    match decodeBytes (bytesOfWord (BitVec.ofNat 96 w)) with
    | .ok (i, _) => some i
    | .error _ => none
  else none

/-! ## Encoding -/

/-- Bits of FN. -/
def fnB (b7 b6 : Bool) (mid : BitVec 3) (b2 : Bool) (low : BitVec 2) : BitVec 8 :=
  BitVec.ofBool b7 ++ (BitVec.ofBool b6 ++ (mid ++ (BitVec.ofBool b2 ++ low)))

/-- Fields of a word whose specifiers default to absent. -/
def raw (op : BitVec 8) (h : Hdr) (fa fb fc : BitVec 12) (fn : BitVec 8 := 0) (imm : BitVec 32 := 0) : Raw :=
  { op, h, fa, fb, fc, fn, imm }

/-- IMM of a second source. -/
def Src2.immBits : Src2 → BitVec 32
  | .reg _ => 0
  | .imm x => x

/-- FC of a second source. -/
def Src2.spec : Src2 → BitVec 12
  | .reg x => x.spec
  | .imm _ => absent

/-- The two-source integer family (R70). -/
def encAlu2 (op : BitVec 8) (h : Hdr) (sz : Size) (u : Bool) (a b : GQ) (c : Src2) : Raw :=
  raw op h a.spec b.spec c.spec (fnB false false 0 u sz.code) c.immBits

/-- The one-source integer family (R72). -/
def encAlu1 (op : BitVec 8) (h : Hdr) (sz : Size) (u : Bool) (a b : GQ) : Raw :=
  raw op h a.spec b.spec absent (fnB false false 0 u sz.code)

/-- A memory operand (R135). -/
def encMem (op : BitVec 8) (h : Hdr) (fa : BitVec 12) (m : MemOp) (s : Bool) (mid : BitVec 3) (u : Bool)
    (low : BitVec 2) : Raw :=
  raw op h fa m.base.spec (optSpec m.index) (fnB m.loc s mid u low) m.disp

/-- A masked vector instruction with a second source (R96, R101). -/
def encVec (op : BitVec 8) (h : Hdr) (a : BitVec 12) (b : VQ) (c : BitVec 12) (z : Bool) (mid : BitVec 3) (u : Bool)
    (low : BitVec 2) (mk : BitVec 3) : Raw :=
  raw op h a b.spec c (fnB z false mid u low) (mk.setWidth 32)

/-- A special function of one operand (R116). -/
def encSF1 (op : BitVec 8) (h : Hdr) (rm : BitVec 3) : SF1 → Raw
  | .sca a b => raw op h a.spec b.spec absent (fnB false false rm false 2)
  | .vec z mk a b => raw op h a.spec b.spec absent (fnB z false rm false 2) (mk.setWidth 32)

/-- RNE written as 0b000 or 0b001. -/
def rneCode (rne : Bool) : BitVec 3 := if rne then 1 else 0

/-- FN bits 5:3 of a sign operation. -/
def Sgn.code {α : Type} : Sgn α → BitVec 3
  | .cpy _ => 0 | .ncp _ => 1 | .xor _ => 2 | .abs => 3

/-- FC of a sign operation. -/
def Sgn.spec {α : Type} (f : α → BitVec 12) : Sgn α → BitVec 12
  | .cpy c | .ncp c | .xor c => f c
  | .abs => absent

/-- Element index of VEXTR and VINS. -/
def Idx.spec : Idx → BitVec 12 | .reg c => c.spec | .imm _ => absent
def Idx.immBits : Idx → BitVec 32 | .reg _ => 0 | .imm i => i.setWidth 32

/-- Payload of SEND and REPLY with the class. -/
def SendSrc.spec : SendSrc → BitVec 12 | .regs b _ => b.spec | .lanes b => b.spec
def SendSrc.immBits (cls : BitVec 4) : SendSrc → BitVec 32
  | .regs _ n => (n ++ cls).setWidth 32
  | .lanes _ => cls.setWidth 32

/-- K of MMA and MMAS with the two slots. -/
def KSrc.spec : KSrc → BitVec 12 | .imm _ => absent | .reg b => b.spec
def KSrc.immBits (swA swB : BitVec 4) : KSrc → BitVec 32
  | .imm k => (k ++ (swB ++ swA)).setWidth 32
  | .reg _ => (swB ++ swA).setWidth 32

/-- An SWR (R155). -/
def encSwr (h : Hdr) (r : SReg) (b : Src2) : Raw := raw 0xF1 h (sregSpec r) b.spec absent 0 b.immBits

/-- The fields of an instruction's word, from the encoding tables of the entries; the events have no word. -/
def encRaw : Instr → Option Raw
  | .nop h => some (raw 0x01 h absent absent absent)
  | .add h sz u a b c => some (encAlu2 0x10 h sz u a b c)
  | .sub h sz u a b c => some (encAlu2 0x11 h sz u a b c)
  | .mov h sz u a b => some (encAlu1 0x12 h sz u a b)
  | .mul h sz u a b c => some (encAlu2 0x13 h sz u a b c)
  | .mulh h sz u a b c => some (encAlu2 0x14 h sz u a b c)
  | .mulhu h sz u a b c => some (encAlu2 0x15 h sz u a b c)
  | .div h sz u a b c => some (encAlu2 0x16 h sz u a b c)
  | .divu h sz u a b c => some (encAlu2 0x17 h sz u a b c)
  | .rem h sz u a b c => some (encAlu2 0x18 h sz u a b c)
  | .remu h sz u a b c => some (encAlu2 0x19 h sz u a b c)
  | .and h sz u a b c => some (encAlu2 0x1A h sz u a b c)
  | .or h sz u a b c => some (encAlu2 0x1B h sz u a b c)
  | .xor h sz u a b c => some (encAlu2 0x1C h sz u a b c)
  | .andn h sz u a b c => some (encAlu2 0x1D h sz u a b c)
  | .shl h sz u a b c => some (encAlu2 0x1E h sz u a b c)
  | .shr h sz u a b c => some (encAlu2 0x1F h sz u a b c)
  | .sar h sz u a b c => some (encAlu2 0x20 h sz u a b c)
  | .rot h sz u a b c => some (encAlu2 0x21 h sz u a b c)
  | .clz h sz u a b => some (encAlu1 0x22 h sz u a b)
  | .popc h sz u a b => some (encAlu1 0x23 h sz u a b)
  | .min h sz u a b c => some (encAlu2 0x24 h sz u a b c)
  | .max h sz u a b c => some (encAlu2 0x25 h sz u a b c)
  | .sel h sz u j neg a b c =>
    some (raw 0x26 h a.spec b.spec c.spec
      (BitVec.ofBool neg ++ (j ++ (0#1 ++ (BitVec.ofBool u ++ sz.code)))) c.immBits)
  | .ldi h u a imm => some (raw 0x27 h a.spec absent absent (fnB false false 0 u 0) imm)
  | .ldih h a imm => some (raw 0x28 h (gSpec a) absent absent 0 imm)
  | .ext h u a b c => some (raw 0x29 h a.spec b.spec c.spec (fnB false false 0 u 0) c.immBits)
  | .bfx h u a b pos wid1 =>
    some (raw 0x2A h a.spec b.spec absent (fnB false false 0 u 0) ((wid1 ++ (0#2 ++ pos)).setWidth 32))
  | .bfi h a b pos wid1 => some (raw 0x2B h (gSpec a) b.spec absent 0 ((wid1 ++ (0#2 ++ pos)).setWidth 32))
  | .lea h loc a b f =>
    some (match f with
      | .disp d => raw 0x2C h a.spec b.spec absent (fnB loc false 0 false 0) d
      | .index c s d => raw 0x2C h a.spec b.spec c.spec (fnB loc false 0 false 0) (d ++ (0#13 ++ s)))
  | .hidx h a b => some (raw 0x2D h a.spec b.spec absent)
  | .hxy h a b => some (raw 0x2E h a.spec b.spec absent)
  | .br h off => some (raw 0x30 h absent absent absent 0 off)
  | .brx h b => some (raw 0x31 h absent b.spec absent)
  | .call h off => some (raw 0x32 h absent absent absent 0 off)
  | .callx h b => some (raw 0x33 h absent b.spec absent)
  | .ret h b => some (raw 0x34 h absent b.spec absent)
  | .loop h a off => some (raw 0x35 h (gSpec a) absent absent 0 off)
  | .endAct h => some (raw 0x36 h absent absent absent)
  | .cmp h cond sz u p b c =>
    some (raw 0x37 h (pSpec p) b.spec c.spec (fnB false false cond.code u sz.code) c.immBits)
  | .fcmp h cond fmt p b c =>
    some (raw 0x38 h (pSpec p) b.spec c.spec (fnB false false cond.code false fmt.code) c.immBits)
  | .plog h t a b c => some (raw 0x39 h (pSpec a) (pSpec b) (pSpec c) (0#4 ++ t))
  | .pmov h f =>
    some (match f with
      | .pp a b => raw 0x3A h (pSpec a) (pSpec b) absent
      | .pg a b => raw 0x3A h (pSpec a) b.spec absent
      | .gp a b => raw 0x3A h a.spec (pSpec b) absent
      | .pack a => raw 0x3A h a.spec absent absent 1
      | .unpack b => raw 0x3A h absent b.spec absent 2)
  | .asfork h off => some (raw 0x3B h absent absent absent 0 off)
  | .aend h => some (raw 0x3C h absent absent absent)
  | .ld h sz u s a m => some (encMem 0x40 h a.spec m s 0 u sz.code)
  | .st h sz s a m => some (encMem 0x41 h a.spec m s 0 false sz.code)
  | .ldacq h sc sz u a m => some (encMem 0x42 h a.spec m false sc.code u sz.code)
  | .strel h sc sz a m => some (encMem 0x43 h a.spec m false sc.code false sz.code)
  | .amo h op dw ord loc a b c disp =>
    some (raw 0x44 h a.spec b.spec c.spec (fnB loc false ord.scope op.u (if dw then 3 else 2))
      (disp ++ (0#2 ++ (ord.code ++ op.code))))
  | .cas h dw ord loc a b c disp =>
    some (raw 0x45 h (gSpec a) b.spec c.spec (fnB loc false ord.scope false (if dw then 3 else 2))
      (disp ++ (0#2 ++ (ord.code ++ 0#4))))
  | .fence h k sc => some (raw 0x46 h absent absent absent (fnB false false sc.code false k.code))
  | .cflush h sc sz m => some (encMem 0x47 h absent m false sc.code false sz.code)
  | .cinv h i sc sz m => some (encMem 0x48 h absent m false sc.code i sz.code)
  | .pref h l m => some (encMem 0x49 h absent m false 0 false l.code)
  | .sdrain h => some (raw 0x4A h absent absent absent)
  | .scfg h wr sg b c stride =>
    some (raw 0x50 h (sgSpec sg) b.spec c.spec 0 (stride ++ (0#15 ++ BitVec.ofBool wr)))
  | .sbind h v sg => some (raw 0x51 h (spec 1 (28 + v.setWidth 9)) (sgSpec sg) absent)
  | .sunbind h v => some (raw 0x52 h (spec 1 (28 + v.setWidth 9)) absent absent)
  | .fadd h fmt rm a b c => some (raw 0x53 h a.spec b.spec c.spec (fnB false false rm.code false fmt.code) c.immBits)
  | .fsub h fmt rm a b c => some (raw 0x54 h a.spec b.spec c.spec (fnB false false rm.code false fmt.code) c.immBits)
  | .fmul h fmt rm a b c => some (raw 0x55 h a.spec b.spec c.spec (fnB false false rm.code false fmt.code) c.immBits)
  | .ffma h fmt rm a b c =>
    some (raw 0x56 h (gSpec a) b.spec c.spec (fnB false false rm.code false fmt.code) c.immBits)
  | .fmin h fmt a b c => some (raw 0x57 h a.spec b.spec c.spec (fnB false false 0 false fmt.code) c.immBits)
  | .fmax h fmt a b c => some (raw 0x58 h a.spec b.spec c.spec (fnB false false 0 false fmt.code) c.immBits)
  | .fcvt h rm dt src a b =>
    some (raw 0x59 h a.spec b.spec absent (fnB false false rm.code false 0) ((src.code ++ dt.code).setWidth 32))
  | .fsgn h fmt a b s => some (raw 0x5A h a.spec b.spec (s.spec GQ.spec) (fnB false false s.code false fmt.code))
  | .vadd h fmt rm z mk a b c => some (encVec 0x60 h a.spec b c.spec z rm.code false fmt.code mk)
  | .vsub h fmt rm z mk a b c => some (encVec 0x61 h a.spec b c.spec z rm.code false fmt.code mk)
  | .vmul h fmt rm z mk a b c => some (encVec 0x62 h a.spec b c.spec z rm.code false fmt.code mk)
  | .vfma h fmt rm z mk a b c => some (encVec 0x63 h (vSpec a) b c.spec z rm.code false fmt.code mk)
  | .vfms h fmt rm z mk a b c => some (encVec 0x64 h (vSpec a) b c.spec z rm.code false fmt.code mk)
  | .vfnma h fmt rm z mk a b c => some (encVec 0x65 h (vSpec a) b c.spec z rm.code false fmt.code mk)
  | .vmin h fmt z mk a b c => some (encVec 0x66 h a.spec b c.spec z 0 false fmt.code mk)
  | .vmax h fmt z mk a b c => some (encVec 0x67 h a.spec b c.spec z 0 false fmt.code mk)
  | .vsgn h fmt z mk a b s => some (encVec 0x68 h a.spec b (s.spec VSrc.spec) z s.code false fmt.code mk)
  | .vcmp h op mk k b c =>
    some (match op with
      | .int cond u => encVec 0x69 h (kSpec k) b c.spec false cond.code u 0 mk
      | .flt cond => encVec 0x69 h (kSpec k) b c.spec false cond.code false 2 mk)
  | .vsel h mk a b c => some (encVec 0x6A h a.spec b c.spec false 0 false 0 mk)
  | .viadd h sz sat u z mk a b c => some (encVec 0x6B h a.spec b c.spec z (if sat then 1 else 0) u sz.code mk)
  | .visub h sz sat u z mk a b c => some (encVec 0x6C h a.spec b c.spec z (if sat then 1 else 0) u sz.code mk)
  | .vimul h sz z mk a b c => some (encVec 0x6D h a.spec b c.spec z 0 false sz.code mk)
  | .vand h z mk a b c => some (encVec 0x6E h a.spec b c.spec z 0 false 2 mk)
  | .vor h z mk a b c => some (encVec 0x6F h a.spec b c.spec z 0 false 2 mk)
  | .vxor h z mk a b c => some (encVec 0x70 h a.spec b c.spec z 0 false 2 mk)
  | .vshl h sz z mk a b c => some (encVec 0x71 h a.spec b c.spec z 0 false sz.code mk)
  | .vshr h sz z mk a b c => some (encVec 0x72 h a.spec b c.spec z 0 false sz.code mk)
  | .vsar h sz z mk a b c => some (encVec 0x73 h a.spec b c.spec z 0 false sz.code mk)
  | .vcvt h rm z mk dt src p a b =>
    some (raw 0x74 h a.spec b.spec absent (fnB z false rm.code false 0)
      ((p ++ (src.code ++ (dt.code ++ (0#1 ++ mk)))).setWidth 32))
  | .vbcast h sz z mk a b => some (raw 0x75 h a.spec b.spec absent (fnB z false 0 false sz.code) (mk.setWidth 32))
  | .vextr h sz u a b i => some (raw 0x76 h a.spec b.spec i.spec (fnB false false 0 u sz.code) i.immBits)
  | .vins h sz a b i => some (raw 0x77 h (vSpec a) b.spec i.spec (fnB false false 0 false sz.code) i.immBits)
  | .vperm h sz z mk a b c => some (encVec 0x78 h a.spec b c.spec z 0 false sz.code mk)
  | .vred h op mk a b =>
    some (raw 0x79 h a.spec b.spec absent (match op with
      | .fadd rm => fnB false false rm.code false 2
      | .fmax => fnB false true 0 false 2
      | .fmin => fnB true false 0 false 2
      | .iadd u => fnB false false 0 u 0
      | .imax u => fnB false true 0 u 0
      | .imin u => fnB true false 0 u 0) (mk.setWidth 32))
  | .vdot2 h half rm z mk a b c =>
    some (encVec 0x7A h (vSpec a) b c.spec z rm.code false (if half then 1 else 0) mk)
  | .vdot4 h u sat z mk a b c => some (encVec 0x7B h (vSpec a) b c.spec z (if sat then 1 else 0) u 0 mk)
  | .vld h s z loc mk a b c disp =>
    some (raw 0x7C h a.spec b.spec (optSpec c) (fnB z s 0 false 0) (disp ++ (0#4 ++ (BitVec.ofBool loc ++ mk))))
  | .vst h s loc mk a b c disp =>
    some (raw 0x7D h a.spec b.spec (optSpec c) (fnB false s 0 false 0) (disp ++ (0#4 ++ (BitVec.ofBool loc ++ mk))))
  | .vgather h s z loc mk a b c disp =>
    some (raw 0x7E h a.spec b.spec c.spec (fnB z s 0 false 0) (disp ++ (0#4 ++ (BitVec.ofBool loc ++ mk))))
  | .vscatter h s loc mk a b c disp =>
    some (raw 0x7F h a.spec b.spec c.spec (fnB false s 0 false 0) (disp ++ (0#4 ++ (BitVec.ofBool loc ++ mk))))
  | .vldf h f rm a b disp =>
    some (match f with
      | .bf16 => raw 0x80 h a.spec b.spec absent (fnB false false rm.code false 0) (disp ++ 0#8)
      | .raw => raw 0x80 h a.spec b.spec absent (fnB false false rm.code false 1) (disp ++ 0#8)
      | .f32 hi => raw 0x80 h a.spec b.spec absent (fnB false false rm.code false 2)
          (disp ++ (0#3 ++ (BitVec.ofBool hi ++ 0#4))))
  | .vstf h f rne a b disp =>
    some (match f with
      | .bf16 => raw 0x81 h a.spec b.spec absent (fnB false false (rneCode rne) false 0) (disp ++ 0#8)
      | .raw => raw 0x81 h a.spec b.spec absent (fnB false false (rneCode rne) false 1) (disp ++ 0#8)
      | .f32 c => raw 0x81 h a.spec b.spec c.spec (fnB false false (rneCode rne) false 2) (disp ++ 0#8))
  | .baddq h fmt rne a b c => some (raw 0x82 h a.spec b.spec c.spec (fnB false false (rneCode rne) false fmt.code))
  | .klog h t a b c => some (raw 0x83 h (kSpec a) (kSpec b) (kSpec c) (0#4 ++ t))
  | .kmov h f =>
    some (match f with
      | .kk a b => raw 0x84 h (kSpec a) (kSpec b) absent
      | .kg a b => raw 0x84 h (kSpec a) b.spec absent
      | .gk a b => raw 0x84 h a.spec (kSpec b) absent
      | .first a b => raw 0x84 h (kSpec a) b.spec absent 1)
  | .rcpa h rne x => some (encSF1 0x90 h (rneCode rne) x)
  | .rsqa h rne x => some (encSF1 0x91 h (rneCode rne) x)
  | .sqrtf h rm x => some (encSF1 0x92 h rm.code x)
  | .divf h rm x =>
    some (match x with
      | .sca a b c => raw 0x93 h a.spec b.spec c.spec (fnB false false rm.code false 2)
      | .vec z mk a b c => encVec 0x93 h a.spec b c.spec z rm.code false 2 mk)
  | .exp2a h rne x => some (encSF1 0x94 h (rneCode rne) x)
  | .log2a h rne x => some (encSF1 0x95 h (rneCode rne) x)
  | .tanha h rne x => some (encSF1 0x96 h (rneCode rne) x)
  | .gelua h rne x => some (encSF1 0x97 h (rneCode rne) x)
  | .sincos h rne x =>
    some (match x with
      | .sca a b => raw 0x98 h a.spec b.spec absent (fnB false false (rneCode rne) false 2)
      | .vec z mk a b => raw 0x98 h (vSpec (a ++ 0#1)) b.spec absent (fnB z false (rneCode rne) false 2)
          (mk.setWidth 32))
  | .pmerge h rm x =>
    some (match x with
      | .sca a b c => raw 0x99 h a.spec b.spec c.spec (fnB false false rm.code false 2)
      | .vec z mk a b c => encVec 0x99 h a.spec b c.spec z rm.code false 2 mk)
  | .dnorm h rne a b s =>
    some (match s with
      | .keep => raw 0xA0 h (dSpec a) (dSpec b) absent (fnB false false (rneCode rne) false 0)
      | .reg c => raw 0xA0 h (dSpec a) (dSpec b) c.spec (fnB false false (rneCode rne) false 1)
      | .imm c => raw 0xA0 h (dSpec a) (dSpec b) absent (fnB false false (rneCode rne) false 1) (c.signExtend 32))
  | .dcvt h f =>
    some (match f with
      | .fromBf16 rne a b => raw 0xA1 h (dSpec a) b.spec absent (fnB false false (rneCode rne) false 0)
      | .fromF32 rne a b c => raw 0xA1 h (dSpec a) b.spec c.spec (fnB false false (rneCode rne) false 1)
      | .toBf16 rm a b => raw 0xA1 h a.spec (dSpec b) absent (fnB false false rm.code false 2)
      | .toF32 rm a b => raw 0xA1 h (vSpec (a ++ 0#1)) (dSpec b) absent (fnB false false rm.code false 3))
  | .ddot h dot rm a b c =>
    some (raw 0xA2 h a.spec (dSpec b) (dSpec c) (fnB false false rm.code false (if dot then 1 else 0)))
  | .dsim8 h rm s a q c disp =>
    some (match q with
      | .w1 b => raw 0xA3 h a.spec (dSpec b) c.spec (fnB false s rm.code false 0) disp
      | .w2 b => raw 0xA3 h a.spec (dSpec (b ++ 0#1)) c.spec (fnB false s rm.code false 1) disp)
  | .dscale h a b c => some (raw 0xA4 h (dSpec a) (dSpec b) c.spec 0 c.immBits)
  | .dadd h sub rne a b c =>
    some (raw 0xA5 h (dSpec a) (dSpec b) (dSpec c) (fnB false false (rneCode rne) false (if sub then 1 else 0)))
  | .dlerp h rne a b c t =>
    some (raw 0xA6 h (dSpec a) (dSpec b) (dSpec c) (fnB false false (rneCode rne) false 0) (t.setWidth 32))
  | .dneg h a b => some (raw 0xA7 h (dSpec a) (dSpec b) absent)
  | .drot h rne a b c e sh =>
    some (raw 0xA8 h (dSpec a) (dSpec b) c.spec (fnB false false (rneCode rne) false 0)
      ((sh ++ (0#3 ++ e)).setWidth 32))
  | .dmovn h f =>
    some (match f with
      | .dd a b => raw 0xA9 h (dSpec a) (dSpec b) absent
      | .gd a b => raw 0xA9 h a.spec (dSpec b) absent 1
      | .gf a b => raw 0xA9 h a.spec (dSpec b) absent 2)
  | .dld h s a b c disp => some (raw 0xAA h (dSpec a) b.spec (optSpec c) (fnB false s 0 false 0) disp)
  | .dst h s a b c disp => some (raw 0xAB h (dSpec a) b.spec (optSpec c) (fnB false s 0 false 0) disp)
  | .dtest h p b cond =>
    some (match cond with
      | .zero => raw 0xAC h (pSpec p) (dSpec b) absent 0
      | .sat => raw 0xAC h (pSpec p) (dSpec b) absent 1
      | .gt imm => raw 0xAC h (pSpec p) (dSpec b) absent 2 imm)
  | .send h rel d src cls c =>
    some (raw 0xB0 h d.spec src.spec (optSpec c) (fnB false rel 0 false 0) (src.immBits cls))
  | .sendl h rel d b len1 cls c =>
    some (raw 0xB1 h d.spec b.spec (optSpec c) (fnB false rel 0 false 0) ((len1 ++ cls).setWidth 32))
  | .reply h rel src cls c =>
    some (raw 0xB2 h absent src.spec (optSpec c) (fnB false rel 0 false 0) (src.immBits cls))
  | .refuse h code => some (raw 0xB3 h absent absent absent 0 (code.setWidth 32))
  | .mbcfgQ h m b => some (raw 0xB4 h absent b.spec absent 0 (m.setWidth 32))
  | .mbcfgComb h m b => some (raw 0xB4 h absent b.spec absent 1 (m.setWidth 32))
  | .mbcfgBob h m b c => some (raw 0xB4 h absent b.spec c.spec 2 (m.setWidth 32))
  | .mbcfgHnd h m cls idem b =>
    some (raw 0xB4 h absent b.spec absent 3 ((BitVec.ofBool idem ++ (cls ++ (0#2 ++ m))).setWidth 32))
  | .mbcfgOff h m b => some (raw 0xB4 h absent b.spec absent 4 (m.setWidth 32))
  | .cmask h m mask => some (raw 0xB5 h absent absent absent 0 ((mask ++ (0#14 ++ m)).setWidth 32))
  | .cunmask h m mask => some (raw 0xB6 h absent absent absent 0 ((mask ++ (0#14 ++ m)).setWidth 32))
  | .mbstat h dig a m => some (raw 0xB7 h a.spec absent absent ((BitVec.ofBool dig).setWidth 8) (m.setWidth 32))
  | .mbarm h op m b c =>
    some (raw 0xB8 h absent b.spec c.spec (match op with
      | .add => 0 | .max u => fnB false false 0 u 1 | .min u => fnB false false 0 u 2 | .pmerge => 3) (m.setWidth 32))
  | .self h f a =>
    some (match f with
      | .aad => raw 0xB9 h a.spec absent absent 0
      | .aid => raw 0xB9 h a.spec absent absent 1
      | .grp => raw 0xB9 h a.spec absent absent 2
      | .mbx m => raw 0xB9 h a.spec absent absent 3 (m.setWidth 32))
  | .entry h j hs =>
    some (raw 0xC0 h absent absent absent 0 ((BitVec.ofBool hs ++ BitVec.ofBool j).setWidth 32))
  | .calld h t =>
    some (match t with
      | .off imm => raw 0xC1 h absent absent absent 0 imm
      | .reg b => raw 0xC1 h absent b.spec absent)
  | .retd h => some (raw 0xC2 h absent absent absent)
  | .lend h w n b c =>
    some (raw 0xC3 h absent b.spec c.spec ((BitVec.ofBool w).setWidth 8) ((BitVec.ofBool n).setWidth 32))
  | .unlend h p n =>
    some (raw 0xC4 h absent absent absent ((BitVec.ofBool p).setWidth 8) ((BitVec.ofBool n).setWidth 32))
  | .domq h f =>
    some (match f with
      | .probe a b disp loc => raw 0xC5 h a.spec b.spec absent (fnB loc false 0 false 0) disp
      | .depth a => raw 0xC5 h a.spec absent absent 1
      | .caller a => raw 0xC5 h a.spec absent absent 2)
  | .mma h acc k swA swB => some (raw 0xD0 h (accSpec acc) k.spec absent 0 (k.immBits swA swB))
  | .mmas h acc k swA swB => some (raw 0xD1 h (accSpec acc) k.spec absent 0 (k.immBits swA swB))
  | .mmasx h acc k swA swB swM =>
    some (raw 0xD2 h (accSpec acc) k.spec absent 0 ((swM ++ (swB ++ swA)).setWidth 32))
  | .mzero h acc => some (raw 0xD3 h (accSpec acc) absent absent)
  | .mload h acc sw => some (raw 0xD4 h (accSpec acc) absent absent 0 (sw.setWidth 32))
  | .mstore h rm sw acc =>
    some (raw 0xD5 h absent (accSpec acc) absent (fnB false false rm.code false 0) (sw.setWidth 32))
  | .mxpose h swD swS => some (raw 0xD6 h absent absent absent 0 ((swS ++ swD).setWidth 32))
  | .mewise h acc op =>
    some (match op with
      | .mul rm b => raw 0xD7 h (accSpec acc) b.spec absent (fnB false false rm.code false 0)
      | .add rm b => raw 0xD7 h (accSpec acc) b.spec absent (fnB false false rm.code false 1)
      | .max b => raw 0xD7 h (accSpec acc) b.spec absent (fnB false false 0 false 2)
      | .min b => raw 0xD7 h (accSpec acc) b.spec absent (fnB false false 0 false 3)
      | .mulv rm sw => raw 0xD7 h (accSpec acc) absent absent (fnB false false rm.code true 0) (sw.setWidth 32)
      | .addv rm sw => raw 0xD7 h (accSpec acc) absent absent (fnB false false rm.code true 1) (sw.setWidth 32))
  | .mcfgSw h sw b c => some (raw 0xD8 h absent b.spec c.spec 0 (sw.setWidth 32))
  | .mcfgSt h clr a => some (raw 0xD8 h a.spec absent absent (fnB false false 0 clr 1))
  | .copy h a b cb => some (raw 0xE0 h a.spec b.spec (match cb with | none => absent | some c => cbSpec c))
  | .gather h sc a b => some (raw 0xE1 h a.spec b.spec absent ((BitVec.ofBool sc).setWidth 8))
  | .cbinit h cb b c => some (raw 0xE2 h (cbSpec cb) b.spec c.spec)
  | .cbwait h a cb c => some (raw 0xE3 h a.spec (cbSpec cb) (optSpec c))
  | .cbrel h cb k => some (raw 0xE4 h absent (cbSpec cb) absent 0 k)
  | .waitc h t n =>
    some (match n with
      | .reg c => raw 0xE5 h absent (tlcSpec t) c.spec
      | .imm x => raw 0xE5 h absent (tlcSpec t) absent 0 x)
  | .readc h f a t =>
    some (raw 0xE6 h a.spec (tlcSpec t) absent (match f with | .assigned => 0 | .present => 1 | .failed => 2))
  | .cbar h bar b => some (raw 0xE7 h absent b.spec absent 0 (bar.setWidth 32))
  | .gsub h a b => some (raw 0xE8 h a.spec b.spec absent)
  | .gsig h e n =>
    some (raw 0xE9 h absent (match e with | .imm _ => absent | .reg b => b.spec)
      (match n with | .imm _ => absent | .reg c => c.spec) 0
      ((match n with | .imm x => x | .reg _ => 0) ++ (match e with | .imm x => x | .reg _ => 0)))
  | .gsigSet h e c =>
    some (raw 0xE9 h absent (match e with | .imm _ => absent | .reg b => b.spec) c.spec 1
      (match e with | .imm x => x.setWidth 32 | .reg _ => 0))
  | .srd h a r => some (raw 0xF0 h a.spec (sregSpec r) absent)
  | .swr h r b => some (encSwr h r b)
  | .swrSupv h b => some (encSwr h .supv b)
  | .swrSfqh h b => some (encSwr h .sfqh b)
  | .swrHbud h b => some (encSwr h .hbud b)
  | .swrMlen h b => some (encSwr h .mlen b)
  | .swrMqw h b => some (encSwr h .mqw b)
  | .swrLogp h b => some (encSwr h .logp b)
  | .trap h code => some (raw 0xF2 h absent absent absent 0 (code.setWidth 32))
  | .brk h code => some (raw 0xF3 h absent absent absent 0 (code.setWidth 32))
  | .resume h a b c => some (raw 0xF4 h a.spec b.spec c.spec)
  | .winmap h a b c => some (raw 0xF5 h a.spec b.spec c.spec)
  | .ckpt h ts a b => some (raw 0xF6 h a.spec b.spec absent ((BitVec.ofBool ts).setWidth 8))
  | .tlbinvPage h sc b => some (raw 0xF7 h absent b.spec absent (fnB false false sc.code false 0))
  | .tlbinvAll h sc => some (raw 0xF7 h absent absent absent (fnB false false sc.code false 1))
  | .logmark h f v =>
    some (match v with
      | .imm n => raw 0xF8 h absent absent absent ((BitVec.ofBool f).setWidth 8) (n.setWidth 32)
      | .reg b => raw 0xF8 h absent b.spec absent ((BitVec.ofBool f).setWidth 8))
  | .cstop h b c => some (raw 0xF9 h absent b.spec c.spec 0)
  | .cstopGo h b c => some (raw 0xF9 h absent b.spec c.spec 1)
  | .killAct h a b c => some (raw 0xFA h a.spec b.spec c.spec 0)
  | .killActor h a b => some (raw 0xFA h a.spec b.spec absent 1)
  | .killGrp h a b => some (raw 0xFA h a.spec b.spec absent 2)
  | _ => none

/-- The word of a well-formed instruction (R25); the events have none. -/
def encode (i : Instr) : Option IWord := (encRaw i).map pack

end Sys2Proof
end

