-- ==== Sys2Proof/Machine/State.lean ====
section
/-! DEFINITION. The state of the machine as plain data, the reasons a step can stop, and the state after reset.
INVENTORY.md lists every field under '## State' with the rule of spec/ that names it and its reset value. -/

namespace Sys2Proof.Machine

/-- A finite map as a list of pairs; the first pair of a key counts. -/
abbrev Map (κ α : Type) := List (κ × α)

/-- Memory: (address, byte) pairs in strictly rising order, none equal to what an unlisted address reads as
(DESIGN CHOICE, notes/assumptions/1.md). The keys are laid out by `Ops.lean`. -/
abbrev Memory := List Host.Cell

/-! ## Translation -/

/-- A translation of one page (R306, R307): page size in bits, virtual and physical page, permissions, domain, key. -/
structure TlbEntry where
  ctx : Nat
  bits : Nat
  vpage : Nat
  ppage : Nat
  r : Bool
  w : Bool
  x : Bool
  dom : BitVec 6
  key : BitVec 9
  deriving DecidableEq, Repr

/-! ## One activation -/

/-- How control arrived at the next instruction of a stream (R195, R197). -/
inductive Arrival where
  | handler | transfer | calld | retd
  deriving DecidableEq, Repr

/-- What a stream is held on; `ready` holds nothing. -/
inductive Wait where
  | ready
  /-- a walk of a granule is in progress (R308) -/
  | walk (granule : Nat)
  /-- an entry of the fault queue, by SEQ (R153, R311) -/
  | fault (granule seq : Nat)
  /-- a probe of CINV, PREF or DOMQ waits for a walk of a granule (R308, R309) -/
  | probe (granule : Nat)
  /-- END waits for its conditions (R84) -/
  | ending
  /-- END has issued; the release is under way -/
  | ended
  /-- SDRAIN waits for the checks of the stores below a number (R152) -/
  | draining (upto : Nat)
  /-- WAITC (R279) -/
  | waitc (t : BitVec 2) (n : Nat)
  /-- CBWAIT with its destination (R276) -/
  | cbwait (a : GQ) (cb : BitVec 3) (i : Nat)
  /-- CBAR (R281) -/
  | barrier (b : BitVec 2)
  /-- GSUB: the answer of the graph unit goes to this operand (R325) -/
  | gsub (a : GQ)
  /-- an early commit waits for the seam check (R351) -/
  | seam
  /-- MBCFG.off of a mailbox waits for the refusals of its bobbin's messages (R183) -/
  | closing (mbx : BitVec 6)
  deriving DecidableEq, Repr

/-- One stream of an activation: R17, R42, R196, R197, R226. -/
structure StreamSt where
  pc : Word
  wait : Wait := .ready
  /-- from-domain of the next fetch -/
  fromDom : BitVec 6
  arrival : Arrival
  /-- byte address of the transferring or preceding instruction, 0 at handler start (R196, INFO) -/
  lastPc : Word := 0
  /-- set by RESUME: the next instruction is not matched by a breakpoint again (R226) -/
  skipBp : Bool := false
  /-- first cycle in which the stream may issue (R85, R172, R207) -/
  notBefore : Nat := 0
  /-- cycle in which its previous instruction issued (R33) -/
  issuedAt : Option Nat := none
  /-- the granule whose fault-queue entry Pelson has refused to this stream (R311) -/
  refused : Option Nat := none
  /-- the answer of the graph unit to the GSUB it waits at (R325) -/
  answer : Option Word := none
  /-- DOM of the instruction it is held at after its issue -/
  heldDom : BitVec 6 := 0
  /-- an access stream that has completed no instruction (R197) -/
  fresh : Bool := false
  /-- until `notBefore`, it waits for the acknowledgements of its CSTOP (R221, R232) -/
  acks : Bool := false
  /-- DOM and word of the instruction that has been fetched and has not completed (R192) -/
  fetched : Option (BitVec 6 × IWord) := none
  /-- the translation that its last walk has found, under which it proceeds (R312) -/
  given : Option TlbEntry := none
  /-- granules that its instruction has probed in vain (R309) -/
  skip : List Nat := []
  deriving DecidableEq, Repr

/-- A record of the thimble (R198). -/
structure ThimbleRec where
  rpc : Word
  sp : Word
  w0 : Option Window
  w1 : Option Window
  cdom : BitVec 6
  edom : BitVec 6
  deriving DecidableEq, Repr

/-- A stream generator (R112); `ahead` holds elements fetched and not yet popped (R114). -/
structure StreamGen where
  wr : Bool := false
  base : Word := 0
  len : Nat := 0
  stride : BitVec 16 := 0
  pos : Nat := 0
  ahead : List (BitVec 32) := []
  deriving DecidableEq, Repr

/-- What a store under check does when it passes. -/
inductive StoreKind where
  /-- bytes, weak or strong; `rel` is the scope of a STREL -/
  | plain (strong : Bool) (rel : Option Scope)
  /-- a block of a format window (R109): data, RND at issue, and whether its flags were raised at issue -/
  | block (f : VstfForm) (a c : VReg) (rnd : BitVec 2) (raised : Bool)
  /-- CFLUSH over a byte range (R149) -/
  | flush (sc : Scope) (len : Nat)
  deriving DecidableEq, Repr

/-- What a check of bytes finds. -/
inductive Checked where
  /-- physical address of each global byte, in order -/
  | pass (phys : List (Nat × Byte))
  /-- a translation is missing -/
  | walk (granule : Nat)
  /-- the lowest failing byte in the order of the instruction, KIND and CAUSE of R219 -/
  | fail (addr kind cause : Nat)
  deriving DecidableEq, Repr

/-- A store under check (R138, R139), in issue order. -/
structure PStore where
  id : Nat
  stream : Stream
  pc : Word
  dom : BitVec 6
  word : IWord
  windows : List Window
  kind : StoreKind
  addr : Word
  /-- address and value of every byte stored, in the order of the instruction -/
  bytes : List (Nat × Byte)
  /-- number of tile commands in the cluster's queues when the store issued, by core: R254 -/
  issued : Nat
  /-- entries that its activation had placed in the outbound buffer before it (R351) -/
  mark : Nat
  /-- what its check will find, where that was found at issue: it has register or window bytes as well (R16, R158) -/
  found : Option Checked := none
  /-- the granule whose translation it waits for, and one that Pelson has refused to it (R311) -/
  waits : Option Nat := none
  refused : Option Nat := none
  /-- granules that a CFLUSH has probed in vain (R309) -/
  skip : List Nat := []
  /-- check passed, but held by a pending-read range (R254) -/
  held : Bool := false
  deriving DecidableEq, Repr

/-- The lines that a CFLUSH covers: physical lines, or every line of the cluster cache (R149, R265). -/
inductive FlushSet where
  | lines (l : List Nat)
  | every
  deriving DecidableEq, Repr

/-- An entry of the outbound buffer (R175). -/
inductive OutEntry where
  /-- a global store: its id, its bytes by virtual address; after its check, by physical address -/
  | store (id : Nat) (va : List (Nat × Byte)) (phys : Option (List (Nat × Byte))) (strong : Bool) (rel : Option Scope)
      (size : Nat)
  | fence (k : FenceKind) (sc : Scope)
  /-- CFLUSH: after its check, the lines of its range -/
  | flush (id : Nat) (sc : Scope) (lines : Option FlushSet)
  | msg (m : Msg) (delay : Nat)
  deriving DecidableEq, Repr

/-- A message in a mailbox: its arrival in the order of the NI, its kills, and the flags of a combining fold. -/
structure Queued where
  m : Msg
  /-- order of arrival at the core's NI -/
  order : Nat
  /-- cycle of arrival -/
  at_ : Nat
  kills : Nat := 0
  /-- a seam mismatch has redelivered it (R352) -/
  seam : Bool := false
  /-- completion of a combining mailbox: FLG bits of its folds (R174) -/
  flags : BitVec 5 := 0
  comb : Bool := false
  deriving DecidableEq, Repr

/-- An entry of a queue register: its value, the cycle of its push and the stream that pushed it (R43). -/
structure QEntry (α : Type) where
  val : α
  at_ : Nat
  by_ : Stream
  deriving DecidableEq, Repr

/-- An activation: registers (R18), activation record (R17) and what the slot keeps for it. -/
structure Act where
  /-- number of its actor on the core -/
  actor : Nat
  /-- activating mailbox, as MBX of R165 -/
  mbx : BitVec 6
  g : Vector Word 32
  v : Vector VReg 32
  d : Vector DLanes 16
  n : Vector (BitVec 16) 16
  p : BitVec 8
  k : Vector (BitVec 16) 8
  qg : Vector (List (QEntry Word)) 4
  qv : Vector (List (QEntry VReg)) 4
  main : StreamSt
  acc : StreamSt
  strm : Bool
  park : Bool
  ecom : Bool
  flg : BitVec 5
  fen : BitVec 5
  rnd : BitVec 2
  hused : Nat
  hdr1 : Word
  msg : Queued
  budget : Nat
  outb : List OutEntry
  /-- entries that it has placed in its outbound buffer so far -/
  placed : Nat
  /-- when each global store that it holds was issued: the tile commands issued before it in the cluster, and the cycle (R254, R266,
  R267) -/
  stamps : List (Nat × Nat × Nat)
  /-- CLM word index and old contents, youngest first (R163) -/
  tack : List (Nat × Word)
  checks : List PStore
  nextStore : Nat
  /-- top record first (R198) -/
  thimble : List ThimbleRec
  pend0 : Option Window
  pend1 : Option Window
  /-- windows that it has lent so far (R205) -/
  lends : Nat
  gens : Vector StreamGen 4
  bind : Vector (Option (BitVec 2)) 4
  /-- staleness point of weak loads (R140) -/
  stale : Nat
  /-- target of the WINMAP window (R157) -/
  win : Option SlotId
  idem : Bool
  issued : Bool
  byComb : Bool
  /-- graph node this activation serves, and the engine numbers of its commands (R321) -/
  node : Option Nat
  cmds : List (BitVec 2 × Nat)
  /-- a store has failed its check: parked before the next cycle (R139) -/
  storeFault : Bool
  /-- first cycle at which its first instruction may issue (R211) -/
  startAt : Nat
  /-- dirty bits of the 16 blocks of its workspace (R216); joined to those of the core when the slot is freed -/
  dirtyWs : BitVec 16
  deriving DecidableEq, Repr

/-! ## Actors and mailboxes -/

/-- An actor (R164, R190, R227); the loader creates it. -/
structure Actor where
  aid : BitVec 48
  group : BitVec 16
  parallel : Bool
  priv : Bool
  stateBase : Word
  stk : Word
  stksz : Nat
  ret : BitVec 2
  hdom : BitVec 6
  owner : BitVec 32
  /-- (mailbox, class) to handler address and idempotent mark; no entry marks no handler -/
  handlers : Map (BitVec 2 × BitVec 4) (Word × Bool)
  /-- KILL of the actor or group that contains the killer: it ends when the killer ends (R231) -/
  dying : Bool := false
  deriving DecidableEq, Repr

/-- Kind of a mailbox (R168). -/
inductive MbxKind where
  | unconfigured | queue | combining
  deriving DecidableEq, Repr

/-- What the NI keeps beside a message in a bobbin: its arrival, whether it waits for its replay entry (R172, R367), the bytes of its
payload (R365), and the graph node that a dispatch stands for (R320). -/
structure Spilled where
  order : Nat
  at_ : Nat
  held : Bool
  len : Nat := 0
  node : Option Nat := none
  deriving DecidableEq, Repr

/-- A bobbin (R170): byte address, entries, index of its head, and its messages in order. -/
structure Bobbin where
  base : Word
  entries : Nat
  head : Nat
  msgs : List Spilled := []
  deriving DecidableEq, Repr

/-- A bobbin whose mailbox is gone while messages in it are still to be refused, and arrivals that were on their way into it
(R183, R231). -/
structure Closing where
  mbx : BitVec 6
  bob : Bobbin
  late : List Msg
  deriving DecidableEq, Repr

/-- A combining mailbox (R174, R185). -/
structure Combine where
  armed : Bool := false
  op : ArmOp := .add
  acc : Word := 0
  count : Nat := 0
  left : Nat := 0
  flags : BitVec 5 := 0
  deriving DecidableEq, Repr

/-- A mailbox (R168, R183-R186, R365, R367). -/
structure Mailbox where
  kind : MbxKind := .unconfigured
  depth : Nat := 0
  spill : Bool := false
  prio : BitVec 2 := 0
  mask : BitVec 14 := 0
  ring : List Queued := []
  put : List Queued := []
  reserve : List Queued := []
  bobbin : Option Bobbin := none
  drop : Nat := 0
  comb : Combine := {}
  digest : Word := 0
  /-- record mode: the ring that Pelson supplies, its base and size, and the entries written (R367) -/
  ring_ : Option (Nat × Nat) := none
  recorded : Nat := 0
  /-- replay mode: the index of the next entry and the entries left -/
  replay : Option (Nat × List Word) := none
  /-- arrivals that wait for a page of the bobbin, in order: to be looked at again, or on their way into the bobbin with whether they
  feed the digest and whether they wait for their replay entry (R170, R367) -/
  limbo : List (Queued × Option (Bool × Bool)) := []
  deriving DecidableEq, Repr

/-! ## Cores -/

/-- A timeline counter (R278, R280): last number assigned, present value, last failed. -/
structure Tlc where
  assigned : Nat := 0
  present : Nat := 0
  failed : Nat := 0
  deriving DecidableEq, Repr

/-- A release still open on tlc3 (R278): its number and its messages not yet done, as (DST, SEQ). -/
structure OpenRelease where
  n : Nat
  msgs : List (BitVec 32 × BitVec 16)
  deriving DecidableEq, Repr

/-- A command of the copy or the gather engine (R268-R275, CKPT of R217). -/
structure EngCmd where
  n : Nat
  slot : BitVec 3
  stream : Stream
  dom : BitVec 6
  windows : List Window
  aid : BitVec 48
  /-- workspace of the issuer, while the issuer lives (R271) -/
  owner : Option SlotId
  src : Word
  dst : Word
  x : Nat
  y : Nat
  z : Nat
  sys : Word
  szs : Word
  dys : Word
  dzs : Word
  /-- GATHER: index address and scatter -/
  idx : Option (Word × Bool)
  /-- GATHER: the index of the present row -/
  row : Nat := 0
  /-- CKPT: `.ts`, and the blocks of its dirty set in increasing order -/
  ckpt : Option (Bool × List Nat)
  /-- COPY: its buffer, and the slot it has reserved -/
  cb : Option (BitVec 3 × Option Nat)
  /-- bytes moved so far; all of them once the command has stopped -/
  pos : Nat
  /-- leave: not needed or granted -/
  leave : Bool
  /-- local stores of the issuer that must be performed first -/
  after : Nat
  /-- tile commands issued before it, cluster-wide, and the cycle of its issue (R254) -/
  issued : Nat
  since : Nat := 0
  /-- the bytes that it has read and not written yet of a block of a TB6 window, which is read as one access (R58) -/
  got : List (Nat × Byte) := []
  /-- the granule whose translation it waits for, and one that Pelson has refused to it (R311) -/
  waits : Option Nat := none
  refused : Option Nat := none
  /-- the translation that its last walk has found, under which it proceeds (R312) -/
  given : Option TlbEntry := none
  /-- its next write is held by a pending-read range (R254) -/
  held : Bool := false
  /-- CKPT: the position at which a stop ends it (R213) -/
  cut : Option Nat := none
  deriving DecidableEq, Repr

/-- A swatch slot (R245). -/
structure Swatch where
  base : Nat
  fmt : BitVec 3
  pitch : Nat
  sbase : Nat
  spitch : Nat
  deriving DecidableEq, Repr

/-- What a tile command does (R259-R262). -/
inductive TileOp where
  | mma (acc : Bool) (a b : Swatch) (k : Nat)
  | mmas (acc : Bool) (a b : Swatch) (k : Nat)
  | mmasx (acc : Bool) (a b m : Swatch) (k : Nat)
  | mzero (acc : Bool)
  | mload (acc : Bool) (s : Swatch)
  | mstore (d : Swatch) (acc : Bool) (rm : Rm)
  | mxpose (d s : Swatch)
  | mewise (acc : Bool) (op : Nat) (rm : Rm) (x : BitVec 32) (v : Option Swatch)
  deriving DecidableEq, Repr

/-- A queued tile command (R248). -/
structure TileCmd where
  n : Nat
  op : TileOp
  slot : BitVec 3
  stream : Stream
  dom : BitVec 6
  windows : List Window
  aid : BitVec 48
  /-- the issuer, while it lives -/
  owner : Option SlotId
  /-- local stores of the issuer that it waits for -/
  after : Nat
  enter : Nat
  leave : Bool
  /-- elements of K done so far; for a command of one step, 1 once it is done -/
  step : Nat
  /-- rights have been checked, before the first step (R258) -/
  checked : Bool := false
  /-- flags of its steps, and a poisoned byte consumed (R255, R256) -/
  flags : BitVec 5 := 0
  bad : Bool := false
  /-- pending-read ranges: first and last byte (R254) -/
  ranges : List (Nat × Nat)
  /-- cluster-wide issue number, for R254 -/
  seq : Nat
  deriving DecidableEq, Repr

/-- What a core keeps for one context. -/
structure CoreCtx where
  seqs : Map (BitVec 32) (BitVec 16) := []
  tlc : Vector Tlc 4 := Vector.replicate 4 {}
  releases : List OpenRelease := []
  /-- messages held back by a delayed one, with the cycle of injection (R173, R180) -/
  inject : List (Msg × Nat) := []
  /-- domain tags of the 32 local pages (R189) -/
  tags : Vector (BitVec 6) 32 := Vector.replicate 32 0
  /-- dirty bits of the 512 blocks of CLM (R216) -/
  dirty : BitVec 512 := BitVec.allOnes 512
  /-- stop: issuer and cycle of arrival (R213) -/
  stop : Option (BitVec 32 × Nat) := none
  stopped : Bool := false
  /-- arrivals taken by the NI so far -/
  arrivals : Nat := 0
  sw : Vector (Option Swatch) 16 := Vector.replicate 16 none
  acc0 : Vector (BitVec 32) 4096 := Vector.replicate 4096 0
  acc1 : Vector (BitVec 32) 4096 := Vector.replicate 4096 0
  mflg : BitVec 5 := 0
  err : Bool := false
  tile : List TileCmd := []
  copyQ : List EngCmd := []
  gatherQ : List EngCmd := []
  /-- bobbins of mailboxes that are gone, whose messages are still to be refused (R183, R231) -/
  closing : List Closing := []
  /-- what the workspace of a slot holds since its last activation went (R15, R217) -/
  left : Map Nat Act := []
  deriving DecidableEq, Repr

/-- The rotation at reset (R44). -/
def rotReset : List (BitVec 3 × Stream) :=
  (List.range 8).flatMap fun i => [(BitVec.ofNat 3 i, .main), (BitVec.ofNat 3 i, .access)]

/-- A line of an instruction cache: physical line and bytes (R36, R150). -/
structure ILine where
  line : Nat
  data : List Byte
  deriving DecidableEq, Repr

/-- What a core keeps whichever context runs (R44, R223, R221, R241, R264, R150). -/
structure CoreHw where
  /-- rotation of the 16 candidates (R44) -/
  rot : List (BitVec 3 × Stream) := rotReset
  logp : Word := 0
  woff : Nat := 0
  lost : Nat := 0
  /-- pending records of the activity ring, oldest first -/
  ring : List (BitVec 32) := []
  /-- logged span: state, cause, length in cycles -/
  span : BitVec 2 × BitVec 6 × Nat := (3, 0, 0)
  /-- first cycle in which the NI can take another arrival (R169) -/
  niFree : Nat := 0
  /-- classification seen instead of the span's, and for how many cycles in a row -/
  cand : BitVec 2 × BitVec 6 × Nat := (3, 0, 0)
  /-- slots that issued in the span, in the run of `cand`, and in this cycle -/
  runSlots : BitVec 8 := 0
  candSlots : BitVec 8 := 0
  nowSlots : BitVec 8 := 0
  /-- translations, lines of the L1 and of the level-zero instruction cache, each most recently used first -/
  tlb : List TlbEntry := []
  l1 : List Nat := []
  icache : List ILine := []
  deriving DecidableEq, Repr

/-! ## Clusters -/

/-- A circular buffer (R274). -/
structure CBuf where
  base : Nat
  slot : Nat
  cnt : Nat
  head : Nat
  tail : Nat
  free : Nat
  fill : Nat
  /-- reserved slots in order, with a mark when their copy has completed: core and number of the copy (R275) -/
  resv : List (Nat × Nat × Bool)
  deriving DecidableEq, Repr

/-- A cluster barrier (R281): expected count, holders, and holders that continue at a cycle, every arrival being there. -/
structure Barrier where
  expect : Nat := 0
  holders : List (SlotId × Stream) := []
  opening : List (Nat × SlotId × Stream) := []
  deriving DecidableEq, Repr

/-- The scale pairs that a line of a format window carries (R302): the window's format, and each byte by its physical address, with
a mark where it is poisoned. -/
structure Scales where
  fmt : Nat
  bytes : List (Nat × Byte × Bool)
  deriving DecidableEq, Repr

/-- A line of the cluster cache (R264, R265, R298, R300, R302): its context, physical line, bytes, dirty bits, cycle of its fill,
key, poisoned sectors, scale pairs. -/
structure CLine where
  ctx : Nat
  line : Nat
  data : Vector Byte 128
  dirty : BitVec 128
  fill : Nat
  key : BitVec 9
  poison : BitVec 8
  scales : Option Scales
  deriving DecidableEq, Repr

/-- A line of a stash (R266, R302): line of the window, physical line, dirty bits, key, scale pairs. -/
structure StashLine where
  wl : Nat
  line : Nat
  dirty : BitVec 128
  key : BitVec 9
  scales : Option Scales
  deriving DecidableEq, Repr

/-- A stash (R266): window base, size, tile offset, and the lines filled. -/
structure Stash where
  base : Nat
  size : Nat
  tile : Nat
  lines : List StashLine
  deriving DecidableEq, Repr

/-- What a cluster keeps for one context. -/
structure ClusterCtx where
  cbufs : Vector (Option CBuf) 8 := Vector.replicate 8 none
  barriers : Vector Barrier 4 := Vector.replicate 4 {}
  /-- dirty bits of the 1,536 blocks of the tile store (R216) -/
  dirty : BitVec 1536 := BitVec.allOnes 1536
  /-- domain tags of the 96 blocks of the tile store (R189) -/
  tags : Vector (BitVec 6) 96 := Vector.replicate 96 0
  stash : Option Stash := none
  /-- tile commands issued so far in the cluster (R254) -/
  issued : Nat := 0
  deriving DecidableEq, Repr

/-- A line of a home slice (R296, R299, R300): physical line, set, way, key, valid and dirty sectors; `under` holds what the
memory has of a clean sector that was filled under another key than it was written with. -/
structure SliceLine where
  line : Nat
  set : Nat
  way : Nat
  key : BitVec 9
  valid : BitVec 8
  dirty : BitVec 8
  under : List (Nat × Byte) := []
  deriving DecidableEq, Repr

/-- A walk that waits for a walker, is in progress, or waits on the fault queue (R308-R311). -/
structure Walk where
  ctx : Nat
  granule : Nat
  acc : AccKind
  /-- a walker has begun it -/
  begun : Bool := false
  /-- SEQ of its entry of the fault queue, once it has one -/
  seq : Option Nat := none
  deriving DecidableEq, Repr

/-- What a cluster keeps whichever context runs. -/
structure ClusterHw where
  mqw : BitVec 32 := 0x11111111
  /-- current queue and credit of the sequencer (R250), and the cycle at which its step ends -/
  queue : BitVec 3 := 7
  credit : Nat := 0
  busy : Nat := 0
  /-- the cores, of 0 to 7, that the copy and the gather engine have served last (R268; DESIGN CHOICE, notes/assumptions/81.md) -/
  served : Nat × Nat := (7, 7)
  tlb : List TlbEntry := []
  /-- walks in the order of their requests: two are in progress, 64 wait, and what follows is held (R308) -/
  walks : List Walk := []
  lines : List CLine := []
  /-- lines of the cluster instruction cache, most recently used first -/
  icache : List ILine := []
  /-- lines of its own memory that the home slice caches, most recent first (R296) -/
  slice : List SliceLine := []
  /-- DEC-TED in place of SEC-DED; ways 7 and 15 are out of service (R299) -/
  dected : Bool := false
  /-- stash bits of the slice's lines: line and stashing cluster (R267, R297) -/
  stashBits : List (Nat × Nat) := []
  deriving DecidableEq, Repr

/-! ## Contexts -/

/-- A breakpoint (R225). -/
structure Breakpoint where
  aid : BitVec 48 := 0
  flags : BitVec 4 := 0
  index : Word := 0
  deriving DecidableEq, Repr

/-- A performance counter (R228). -/
structure Counter where
  event : BitVec 16 := 0
  en : Bool := false
  unav : Bool := false
  shared : Bool := false
  ovf : Bool := false
  count : Word := 0
  /-- counts not yet folded into the descriptor (R228) -/
  pending : Nat := 0
  deriving DecidableEq, Repr

/-- An entry of the fault queue that is outstanding (R310): SEQ, granule, kind, walkers' cluster. -/
structure FaultEntry where
  seq : Nat
  granule : Nat
  kind : BitVec 8
  cluster : Nat
  deriving DecidableEq, Repr

/-- State of a graph node (R314-R321). Ready, running: the graph clock since which it waits at its level, the level. -/
inductive NodeState where
  | waiting
  /-- `elig` is the cycle from which it can be dispatched (R323) -/
  | ready (since level elig : Nat)
  | running (worker : BitVec 8) (since level : Nat)
  /-- its activation has ended: (core, counter, number) to be reached (R321) -/
  | ending (worker : BitVec 8) (waits : List (Nat × Nat × Nat))
  /-- a control node before or in its evaluation; the granule that an access of it waits for -/
  | evaluating (granule : Option Nat)
  /-- a control node with its expansion: descriptors not accepted yet, nodes not complete, its status (R317) -/
  | expanded (todo : List (List Byte)) (kids status : Nat)
  deriving DecidableEq, Repr

/-- A graph node in flight (R313-R321): identity, descriptor, submitter, predecessors that have not completed. -/
structure Node where
  id : Nat
  desc : List Byte
  /-- return mailbox and AID of the submitter -/
  submitter : BitVec 32
  aid : BitVec 48
  cluster : Nat
  dom : BitVec 6
  windows : List Window
  preds : List Nat
  parent : Option Nat
  /-- the copy that a loop's expansion holds -/
  copy : Bool
  st : NodeState
  deriving DecidableEq, Repr

/-- A DONE word that waits for a translation: cluster, address, status, and the rights of its node (R321, R193). -/
structure DoneWord where
  cluster : Nat
  addr : Nat
  status : Nat
  dom : BitVec 6
  windows : List Window
  deriving DecidableEq, Repr

/-- A record of the store-fault queue that waits for a translation, and its notice: core, address, bytes, SRC, whether the faulting
actor is the supervisor's, payload (R219, R220, R139, R270). -/
structure FaultReport where
  core : Nat
  addr : Nat
  data : List Byte
  src : BitVec 32
  own : Bool
  note : List Byte
  deriving DecidableEq, Repr

/-- A worker of the graph unit (R319, R320): its entry, dispatches outstanding, and a refusal's passover: until one of
these ends, or until the graph clock reaches a number. -/
structure Worker where
  entry : Word := 0
  out : Nat := 0
  passOwn : Bool := false
  passUntil : Option Nat := none
  deriving DecidableEq, Repr

/-- A submit frame of a guest (R340). -/
structure SubFrame where
  desc : Vector Byte 192 := Vector.replicate 192 0
  node : Word := 0
  /-- DONE is 1 until the first submission (DESIGN CHOICE, notes/assumptions/72.md) -/
  stat : Word := 0x100
  deriving DecidableEq, Repr

/-- A context: its descriptor (R192, R225, R228, R266, R306, R319, R327, R335, R337) and its registers (R21). -/
structure Ctx where
  svb : Nat := 0
  svl : Nat := 512
  mlen : BitVec 3 := 4
  hbud : BitVec 19 := 32768
  supv : BitVec 32 := 0
  sfqh : Word := 0
  /-- DOM of the privileged code that set SFQH (R220) -/
  sfqhDom : BitVec 6 := 0
  /-- store-fault records written so far (R219) -/
  sfSeq : BitVec 32 := 0
  root : Nat := 0
  rights : Vector (BitVec 8) 4096 := Vector.replicate 4096 0
  /-- the copy of the rights table that the cores loaded when the context last started (R192) -/
  live : Vector (BitVec 8) 4096 := Vector.replicate 4096 0
  grant : Word := 0
  keys : List Nat := []
  lockstitch : Bool := false
  bps : Vector Breakpoint 8 := Vector.replicate 8 {}
  counters : Vector Counter 16 := Vector.replicate 16 {}
  workers : Vector Worker 256 := Vector.replicate 256 {}
  quota : Nat := 4096
  events : Vector Word 256 := Vector.replicate 256 0
  nodes : List Node := []
  nextNode : Nat := 1
  /-- ready compute nodes of each level, first to be dispatched first (R318) -/
  levels : Vector (List Nat) 4 := Vector.replicate 4 []
  /-- delivered cycles in which the context has run, for aging (R318, R324) -/
  gclock : Nat := 0
  dones : List DoneWord := []
  /-- store-fault records that wait for a translation, in order -/
  reports : List FaultReport := []
  slice : Nat := 4194304
  used : Nat := 0
  fwin : Vector (Word × Word × Word × Word) 16 := Vector.replicate 16 (0, 0, 0, 0)
  fqBase : Nat := 0
  fqSeq : Nat := 0
  fqOut : List FaultEntry := []
  /-- completions (true) and refusals that came while the context was stopped, by SEQ: R312 -/
  fqHeld : List (BitVec 32 × Bool) := []
  frames : Vector SubFrame 16 := Vector.replicate 16 {}
  guestDom : BitVec 6 := 0
  /-- the guest-physical range mapped onto the partition's memory (R339) -/
  guestBase : Nat := 0
  guestSize : Nat := 0
  /-- fault-notice window (R343): records written so far, and the ring of 63 -/
  notices : Vector (List Byte) 63 := Vector.replicate 63 (List.replicate 64 0)
  noticeOff : Nat := 0
  /-- interrupts 0 and 1 raised to the guest (R340, R343) -/
  irq0 : Nat := 0
  irq1 : Nat := 0
  /-- notices 0x001D of a resize, sent at the restart (R330) -/
  moved : List (List Byte) := []
  running : Bool := false
  terminated : Bool := false
  /-- a restore waits for the end of a live update (R355) -/
  waitsUpdate : Bool := false
  deriving DecidableEq, Repr

/-! ## Package and fabric -/

/-- Power state of the module (R14, R346). -/
inductive Power where
  | asleep | inReset | booted
  deriving DecidableEq, Repr

/-- What the SPDM responder answers (R345): both signatures of a signed answer, and the measurement blocks. -/
inductive SpdmAnswer where
  | version (major minor : Nat) | capabilities | algorithms | digests | certificate
  | challenge (ed25519 mldsa65 : Word)
  | measurements (blocks : List Word) (ed25519 mldsa65 : Word)
  deriving DecidableEq, Repr

/-- Responder of SPDM (R345): measurement blocks 1 to 5, and its answers, newest first. -/
structure Spdm where
  meas : Vector Word 5 := Vector.replicate 5 0
  answers : List SpdmAnswer := []
  deriving DecidableEq, Repr

/-- The handover structure of a live update (R347): the fields of its header, and its body. -/
structure Handover where
  magic : BitVec 32
  version : BitVec 16
  length : BitVec 32
  crc : BitVec 32
  body : List Byte
  deriving DecidableEq, Repr

/-- Live update in progress (R347, R348): the new image, its slot, whether it is graph-unit firmware and not Pelson, the handover
structure, and the reference time by which the heartbeat must have come. -/
structure Update where
  img : Image
  slot : Bool
  graph : Bool
  hand : Handover
  due : Nat
  deriving DecidableEq, Repr

/-- What waits in Pelson's bobbins, or at a submit frame, during a live update (R347): a notice for Pelson, a message for one
of its mailboxes, a record for a fault-notice window, the end of a context, and a write to BELL. -/
inductive PelsonAct where
  | take (c : Nat) (m : Msg)
  | mail (c : Nat) (m : Msg)
  | record (c : Nat) (payload : List Byte)
  | terminate (c reason : Nat)
  | bell (c : Nat) (f : BitVec 4)
  deriving DecidableEq, Repr

/-- A frame a port has sent and that is not acknowledged yet: destination, retransmissions, cycle of the next (R361, R363). -/
structure Sent where
  dfid : BitVec 13
  f : Frame
  tries : Nat
  due : Nat
  deriving DecidableEq, Repr

/-- A transmit request that a port has taken and not sent yet: its queue, context and message, and for a put the bytes read so
far and the granule it waits for or that Pelson has refused to it (R359, R311). -/
structure PortReq where
  q : Nat
  ctx : Nat
  m : Msg
  got : List Byte := []
  waits : Option Nat := none
  refused : Option Nat := none
  deriving DecidableEq, Repr

/-- What a port has taken of the frames of one flow (R361): their epoch, the next number in order, and under RUD the numbers
taken beyond it. -/
structure Taken where
  epoch : Nat := 0
  next : Nat := 0
  beyond : List Nat := []
  deriving DecidableEq, Repr

/-- An Ultra Ethernet port (R356-R365): context and job bound, RCCC in place of NSCC as the job's congestion control, drop
count, requests in order, frames not acknowledged, frames it has sent, newest first, and its digest. -/
structure Port where
  ctx : Option Nat := none
  job : Nat := 0
  rccc : Bool := false
  drops : Nat := 0
  reqs : List PortReq := []
  sent : List Sent := []
  out : List (BitVec 13 × Frame) := []
  digest : Word := 0
  /-- the next number of each flow it sends: queue, destination FID and AAD, mode (R361) -/
  numbers : Map (Nat × BitVec 13 × BitVec 32 × BitVec 8) Nat := []
  /-- how often it has lost a peer, by FID (R363); and what the device's resets add to that number -/
  boots : Nat := 0
  epochs : Map (BitVec 13) Nat := []
  /-- what it has taken: source FID, port and queue, destination AAD, mode (R361) -/
  taken : Map (BitVec 13 × Nat × Nat × BitVec 32 × BitVec 8) Taken := []
  deriving DecidableEq, Repr

/-- The governor of a die (R353): its budget, once Pelson has set one; leave granted and leave asked for, in arrival order,
each as context, core, queue (0 matrix, 1 copy, 2 gather) and load. -/
structure Governor where
  budget : Option Nat := none
  granted : List ((Nat × Nat × Nat) × Nat) := []
  waiting : List ((Nat × Nat × Nat) × Nat) := []
  deriving DecidableEq, Repr

/-- A pair of activations in lockstitch (R349-R352): the primary's slot and the secondary's; values the primary has
loaded and passed on, oldest first, each with the stream that loaded it; hashes of the two releases that wait for the seam
check, with END as the cause and the number of entries. -/
structure Seam where
  primary : SlotId
  secondary : SlotId
  values : List (Stream × List Byte) := []
  /-- answers of the graph unit for the secondary's GSUBs -/
  answers : List Word := []
  hp : Option (Word × Bool × Nat) := none
  hs : Option (Word × Bool × Nat) := none
  deriving DecidableEq, Repr

/-- Privilege mode of a hart of the general cores. -/
inductive HartMode where
  | machine | supervisor | user
  deriving DecidableEq, Repr

/-- A general core: an RV64GC hart with the hypervisor extension (R7, R333); the manual gives none of its registers, which are RISC-V's
(PRESUMED, notes/assumptions/78.md). -/
structure Hart where
  pc : Word := 0
  /-- x1 to x31 -/
  x : Vector Word 31 := Vector.replicate 31 0
  f : Vector Word 32 := Vector.replicate 32 0
  fcsr : BitVec 8 := 0
  mode : HartMode := .machine
  /-- virtualization mode of the hypervisor extension -/
  virt : Bool := false
  /-- control and status registers that have been written, by number -/
  csrs : Map (BitVec 12) Word := []
  deriving DecidableEq, Repr

/-- Which instruction is being executed: where it was fetched, its domain and its word. -/
structure Cur where
  sid : SlotId
  stream : Stream
  dom : BitVec 6 := 0
  word : IWord := 0
  deriving DecidableEq, Repr

/-- The machine. -/
structure State where
  -- the model's own fields
  agenda : List (Nat × Instr)
  cur : Cur
  /-- candidates found held in this cycle, with the cause of the wait (R221) -/
  blocked : Map (SlotId × Stream) (BitVec 6)
  /-- cores that have issued in this cycle -/
  issued : List Nat
  /-- counter of free values -/
  free : Nat
  -- time (R21, R337)
  cycle : Nat
  /-- reference time, in units of 1/39,480 tick of 10 ns: REFT is this divided by 39,480 -/
  reft : Nat
  -- memory (R136, R242, R295)
  mem : Memory
  /-- poisoned sectors of the homes, of CLM and of the tile stores, by address / 16 (R298) -/
  poison : List Nat
  /-- key under which the memory holds a sector, by physical address / 16 (R300) -/
  sectorKeys : Map Nat (BitVec 9)
  /-- corrected errors, by package stack and pseudo-channel (R298) -/
  corrected : Map (Nat × Nat) Nat
  -- activations, actors, mailboxes, by context and core
  acts : Map SlotId Act
  actors : Map (Nat × Nat × Nat) Actor
  mbxs : Map (Nat × Nat × BitVec 6) Mailbox
  coreCtx : Map (Nat × Nat) CoreCtx
  coreHw : Map Nat CoreHw
  clCtx : Map (Nat × Nat) ClusterCtx
  clHw : Map Nat ClusterHw
  ctxs : Map Nat Ctx
  -- package and fabric
  power : Power
  /-- no slot was accepted: the failure on the management interface (R346) -/
  bootFailed : Bool
  sid : BitVec 32
  /-- compute clock in kHz (R354) -/
  clock : Nat
  keysHeld : List Nat
  slotA : Option Image
  slotB : Option Image
  bootB : Bool
  svn : BitVec 8
  /-- boot ROM patch and debug lock (R345) -/
  patch : Word
  debugLock : Bool
  update : Option Update
  /-- a heartbeat has been written since the last update began (R348) -/
  beat : Bool
  spdm : Spdm
  gov : Vector Governor 2
  powerCap : Nat
  fid : BitVec 13
  ports : Vector Port 16
  spares : List (Nat × Nat × BitVec 2)
  seams : List Seam
  /-- messages handed to Pelson or to a guest (R333), newest first -/
  pelson : List (Nat × Msg)
  /-- what waits for the end of a live update, oldest first (R347) -/
  waiting : List PelsonAct
  /-- mailboxes of the general cores that a guest or a service owns, by AAD (R333) -/
  owners : List (BitVec 32)
  /-- the general cores (R333) -/
  harts : Vector Hart 16
  deriving DecidableEq, Repr

/-! ## Stops -/

/-- Faults of the model: there are none. The faults of the manual are notices that park an activation (R40, R154), and every
instruction and event has an effect. -/
inductive Fault where
  deriving DecidableEq, Repr

/-- Refusals of the model. -/
inductive Refusal where
  /-- An instruction without a meaning yet; raised by `exec` alone. Safe. -/
  | notModelled (mnemonic : String)
  /-- A word is executed while `cur` names no activation; raised by the wrapper of every word's meaning. Safe: `step`
  never executes a word there. -/
  | noActivation
  deriving DecidableEq, Repr

/-! ## Reset -/

/-- An image that verifies; DESIGN CHOICE, notes/assumptions/29.md. -/
def imageReset : Image := { version := 1, svn := 0, length := 0, signed := true, takes := 1 }

/-- The machine right after reset (R4): the registers at the values of R21 and of the entries; nothing runs. -/
def State.reset : State where
  agenda := []
  cur := { sid := { ctx := 0, core := 0, slot := 0 }, stream := .main }
  blocked := []
  issued := []
  free := 0
  cycle := 0
  reft := 0
  mem := []
  poison := []
  sectorKeys := []
  corrected := []
  acts := []
  actors := []
  mbxs := []
  coreCtx := []
  coreHw := []
  clCtx := []
  clHw := []
  ctxs := []
  power := .inReset
  bootFailed := false
  sid := 0x01040102
  clock := 940000
  keysHeld := []
  slotA := some imageReset
  slotB := none
  bootB := false
  svn := 0
  patch := 0
  debugLock := false
  update := none
  beat := false
  spdm := {}
  gov := Vector.replicate 2 {}
  powerCap := 1900
  fid := 0
  ports := Vector.replicate 16 {}
  spares := []
  seams := []
  pelson := []
  waiting := []
  owners := []
  harts := Vector.replicate 16 {}

end Sys2Proof.Machine
end

