-- ==== Sys2Proof/Machine/Ops.lean ====
section
/-! DEFINITION. Named operations over the state: maps, memory, time, positions on the mesh, messages and notices,
parking (R40), what an issue cycle does to the streams, killing an activation (R177), and the monad of the meanings. -/

namespace Sys2Proof.Machine

/-! ## Maps -/

/-- The value of a key. -/
def Map.look {κ α : Type} [DecidableEq κ] : Map κ α → κ → Option α
  | [], _ => none
  | (k', v) :: t, k => if k' = k then some v else Map.look t k

/-- Sets the value of a key, in the place of its pair or at the end. -/
def Map.put {κ α : Type} [DecidableEq κ] : Map κ α → κ → α → Map κ α
  | [], k, v => [(k, v)]
  | (k', v') :: t, k, v => if k' = k then (k, v) :: t else (k', v') :: Map.put t k v

/-- Removes every pair of a key. -/
def Map.del {κ α : Type} [DecidableEq κ] (m : Map κ α) (k : κ) : Map κ α := m.filter fun x => x.1 ≠ k

/-- Changes one element of a vector. -/
def vmod {α : Type} {n : Nat} (v : Vector α n) (i : Nat) (f : α → α) : Vector α n :=
  match v[i]? with
  | some x => v.set! i (f x)
  | none => v

/-! ## Memory (DESIGN CHOICE, notes/assumptions/1.md) -/

/-- What an address that no pair lists reads as. -/
def unlisted : Byte := 0

/-- The byte at an address. -/
def Memory.read : Memory → Nat → Byte
  | [], _ => unlisted
  | (b, v) :: t, a => if b = a then v else if a < b then unlisted else Memory.read t a

/-- Adds a pair in front, unless it says what an unlisted address reads as. -/
def Memory.cons (a : Nat) (v : Byte) (t : Memory) : Memory := if v = unlisted then t else (a, v) :: t

/-- Writes a byte, keeping the canonical form. -/
def Memory.write : Memory → Nat → Byte → Memory
  | [], a, v => Memory.cons a v []
  | (b, w) :: t, a, v =>
    if b = a then Memory.cons a v t
    else if a < b then Memory.cons a v ((b, w) :: t)
    else (b, w) :: Memory.write t a v

/-- Canonical form: addresses strictly rising from `lo`, no pair equal to what an unlisted address reads as. -/
def Memory.wfFrom : Nat → Memory → Bool
  | _, [] => true
  | lo, (a, v) :: t => decide (lo ≤ a) && decide (v ≠ unlisted) && Memory.wfFrom (a + 1) t

/-- Canonical form of a memory. -/
def Memory.wf (m : Memory) : Bool := Memory.wfFrom 0 m

/-- Size of one local space of the layout. -/
def span : Nat := 1 <<< 40

/-- Key of a byte of a core's CLM (R162), of one context. -/
def clmKey (ctx core off : Nat) : Nat := span * (4 * (ctx * 8192 + core) + 1) + off

/-- Key of a byte of a cluster's tile store (R242), of one context. -/
def tileKey (ctx cluster off : Nat) : Nat := span * (4 * (ctx * 512 + cluster) + 2) + off

/-- Little-endian bytes of a number (R15). -/
def bytesLE : Nat → Nat → List Byte
  | 0, _ => []
  | n + 1, x => BitVec.ofNat 8 x :: bytesLE n (x / 256)

/-- The number of little-endian bytes. -/
def ofBytesLE : List Byte → Nat
  | [] => 0
  | b :: t => b.toNat + 256 * ofBytesLE t

/-- Bytes `off` to `off + n - 1` of a list, as a number; bytes beyond the list read 0. -/
def fieldLE (bs : List Byte) (off n : Nat) : Nat := ofBytesLE ((bs.drop off).take n)

/-! ## Pieces of the state -/

/-- Cluster or I/O node of a core number, and the core within it (R165). -/
def nodeOf (core : Nat) : Nat := core / 8

/-- The blank activation: registers as at entry (R20), nothing placed. -/
def Act.blank : Act where
  actor := 0
  mbx := 0
  g := Vector.replicate 32 0
  v := Vector.replicate 32 (Vector.replicate 16 0)
  d := Vector.replicate 16 (Vector.replicate 32 0)
  n := Vector.replicate 16 0x8000
  p := 0
  k := Vector.replicate 8 0
  qg := Vector.replicate 4 []
  qv := Vector.replicate 4 []
  main := { pc := 0, fromDom := 0, arrival := .handler }
  acc := { pc := 0, fromDom := 0, arrival := .transfer }
  strm := false
  park := false
  ecom := false
  flg := 0
  fen := 0
  rnd := 0
  hused := 0
  hdr1 := 0
  msg := { m := { dst := 0, cls := 0, src := 0, payload := [] }, order := 0, at_ := 0 }
  budget := 0
  outb := []
  placed := 0
  stamps := []
  tack := []
  checks := []
  nextStore := 0
  thimble := []
  pend0 := none
  pend1 := none
  lends := 0
  gens := Vector.replicate 4 {}
  bind := Vector.replicate 4 none
  stale := 0
  win := none
  idem := false
  issued := false
  byComb := false
  node := none
  cmds := []
  storeFault := false
  startAt := 0
  dirtyWs := BitVec.allOnes 16

/-- The activation of a slot. -/
def State.actAt (s : State) (t : SlotId) : Option Act := s.acts.look t

/-- The activation whose instruction is executed. -/
def State.act? (s : State) : Option Act := s.acts.look s.cur.sid

/-- As `act?`; the blank activation where there is none. -/
def State.act (s : State) : Act := s.act?.getD Act.blank

/-- Replaces the present activation. -/
def State.setAct (s : State) (a : Act) : State := { s with acts := s.acts.put s.cur.sid a }

/-- Changes the present activation. -/
def State.modAct (s : State) (f : Act → Act) : State := s.setAct (f s.act)

/-- Changes the activation of a slot, if there is one. -/
def State.modActAt (s : State) (t : SlotId) (f : Act → Act) : State :=
  match s.acts.look t with
  | some a => { s with acts := s.acts.put t (f a) }
  | none => s

/-- A context's descriptor; a context without one reads as just created. -/
def State.ctxAt (s : State) (c : Nat) : Ctx := (s.ctxs.look c).getD {}

/-- Changes a context's descriptor. -/
def State.modCtx (s : State) (c : Nat) (f : Ctx → Ctx) : State := { s with ctxs := s.ctxs.put c (f (s.ctxAt c)) }

/-- What a core keeps for a context. -/
def State.coreAt (s : State) (c core : Nat) : CoreCtx := (s.coreCtx.look (c, core)).getD {}

/-- Changes what a core keeps for a context. -/
def State.modCore (s : State) (c core : Nat) (f : CoreCtx → CoreCtx) : State :=
  { s with coreCtx := s.coreCtx.put (c, core) (f (s.coreAt c core)) }

/-- Length of the longest span without an extension record (R222). -/
def spanMax : Nat := 16777215

/-- A record: state, cause, DELTA (R222). -/
def logRecord (state : BitVec 2) (cause : BitVec 6) (delta : Nat) : BitVec 32 := state ++ cause ++ BitVec.ofNat 24 delta

/-- A core of which nothing has been noted since reset has been IDLE in every cycle, with an extension record for each longest span
(R221, R222). -/
def CoreHw.idle (cycle : Nat) : CoreHw :=
  { span := (3, 0, cycle % spanMax), ring := List.replicate (min 1024 (cycle / spanMax)) (logRecord 3 63 spanMax) }

/-- What a core keeps whichever context runs. -/
def State.hwAt (s : State) (core : Nat) : CoreHw := (s.coreHw.look core).getD (CoreHw.idle s.cycle)

/-- Changes what a core keeps whichever context runs. -/
def State.modHw (s : State) (core : Nat) (f : CoreHw → CoreHw) : State :=
  { s with coreHw := s.coreHw.put core (f (s.hwAt core)) }

/-- What a cluster keeps for a context. -/
def State.clAt (s : State) (c cl : Nat) : ClusterCtx := (s.clCtx.look (c, cl)).getD {}

/-- Changes what a cluster keeps for a context. -/
def State.modCl (s : State) (c cl : Nat) (f : ClusterCtx → ClusterCtx) : State :=
  { s with clCtx := s.clCtx.put (c, cl) (f (s.clAt c cl)) }

/-- What a cluster keeps whichever context runs. -/
def State.clHwAt (s : State) (cl : Nat) : ClusterHw := (s.clHw.look cl).getD {}

/-- Changes what a cluster keeps whichever context runs. -/
def State.modClHw (s : State) (cl : Nat) (f : ClusterHw → ClusterHw) : State :=
  { s with clHw := s.clHw.put cl (f (s.clHwAt cl)) }

/-- An actor. -/
def State.actorAt (s : State) (c core i : Nat) : Option Actor := s.actors.look (c, core, i)

/-- A mailbox; one that nothing configured is unconfigured. -/
def State.mbxAt (s : State) (c core : Nat) (m : BitVec 6) : Mailbox := (s.mbxs.look (c, core, m)).getD {}

/-- Changes a mailbox. -/
def State.modMbx (s : State) (c core : Nat) (m : BitVec 6) (f : Mailbox → Mailbox) : State :=
  { s with mbxs := s.mbxs.put (c, core, m) (f (s.mbxAt c core m)) }

/-- Context, core and cluster of the present activation. -/
def State.cctx (s : State) : Nat := s.cur.sid.ctx
def State.ccore (s : State) : Nat := s.cur.sid.core
def State.ccl (s : State) : Nat := nodeOf s.cur.sid.core

/-- The actor of the present activation. -/
def State.cactor? (s : State) : Option Actor := s.actorAt s.cctx s.ccore s.act.actor

/-- Is the present activation privileged (R22)? -/
def State.isPriv (s : State) : Bool := match s.cactor? with | some a => a.priv | none => false

/-- The actor that owns the mailbox named by an AAD: core number and actor number (R165). -/
def aadCore (a : BitVec 32) : Nat := (a.extractLsb' 6 13).toNat
def aadActor (a : BitVec 32) : Nat := (a.extractLsb' 2 4).toNat
def aadMbx (a : BitVec 32) : BitVec 6 := a.extractLsb' 0 6

/-- AAD of a mailbox of a core (R165). -/
def aadOf (core : Nat) (m : BitVec 6) : BitVec 32 := BitVec.ofNat 32 (0x80000000 + core * 64 + m.toNat)

/-- SRC of a notice of a core for which the manual states no SRC: its mailbox is open (DESIGN CHOICE, notes/assumptions/38.md). -/
def sysAad (core : Nat) : BitVec 32 := aadOf core (Config.noticeMbx core)

/-- Does an actor own the mailbox named by SUPV of the context? -/
def State.ownsSupv (s : State) (c core actor : Nat) : Bool :=
  let v := (s.ctxAt c).supv
  v != 0 && aadCore v == core && aadActor v == actor

/-- Byte address of entry i of a bobbin. -/
def Bobbin.entryAt (b : Bobbin) (i : Nat) : Nat := b.base.toNat + 256 * (i % b.entries)

/-! ## Bytes of memory, with the dirty bits of R216 -/

/-- Reads `n` bytes from a key on. -/
def State.readKeys (s : State) (key n : Nat) : List Byte := (List.range n).map fun i => s.mem.read (key + i)

/-- Writes one byte at a key. -/
def State.writeKey (s : State) (key : Nat) (v : Byte) : State := { s with mem := s.mem.write key v }

/-- Marks the block of a CLM byte dirty. -/
def State.dirtyClm (s : State) (c core off : Nat) : State :=
  s.modCore c core fun k => { k with dirty := k.dirty ||| BitVec.twoPow 512 (off / 256) }

/-- Marks the block of a tile-store byte dirty. -/
def State.dirtyTile (s : State) (c cl off : Nat) : State :=
  s.modCl c cl fun k => { k with dirty := k.dirty ||| BitVec.twoPow 1536 (off / 4096) }

/-- Writes a byte of CLM. -/
def State.writeClm (s : State) (c core off : Nat) (v : Byte) : State :=
  (s.writeKey (clmKey c core off) v).dirtyClm c core off

/-- Writes a byte of the tile store. -/
def State.writeTile (s : State) (c cl off : Nat) (v : Byte) : State :=
  (s.writeKey (tileKey c cl off) v).dirtyTile c cl off

/-- Writes bytes of CLM from an offset on. -/
def State.writeClmBytes (s : State) (c core off : Nat) : List Byte → State
  | [] => s
  | b :: t => State.writeClmBytes (s.writeClm c core off b) c core (off + 1) t

/-! ## Time -/

/-- Inserts an event behind every event that is due no later. -/
def insertEvent (due : Nat) (i : Instr) : List (Nat × Instr) → List (Nat × Instr)
  | [] => [(due, i)]
  | (d, j) :: t => if d ≤ due then (d, j) :: insertEvent due i t else (due, i) :: (d, j) :: t

/-- Schedules an event `delay` cycles from now. -/
def State.after (s : State) (delay : Nat) (i : Instr) : State :=
  { s with agenda := insertEvent (s.cycle + delay) i s.agenda }

/-- Schedules an event for now, unless the same event is already due now. -/
def State.now (s : State) (i : Instr) : State :=
  if s.agenda.any (fun e => e.1 ≤ s.cycle && e.2 == i) then s else s.after 0 i

/-- Takes a free value from the counter (DESIGN CHOICE, notes/assumptions/7.md). -/
def State.freeByte (s : State) : Byte × State := (Config.freeByte s.free, { s with free := s.free + 1 })

/-- Counts an event of a context (R228, R229). -/
def State.count (s : State) (c : Nat) (code : BitVec 16) (n : Nat := 1) : State :=
  if (s.ctxAt c).counters.any (fun k => k.event == code && k.en && !k.unav) then
    s.modCtx c fun x => { x with counters := x.counters.map fun k =>
      if k.event == code && k.en && !k.unav then { k with pending := k.pending + n } else k }
  else s

/-- Counts a SHARED event, which is not caused by one context alone: for every context that runs (R229, R230). -/
def State.countShared (s : State) (code : BitVec 16) (n : Nat) : State :=
  (s.ctxs.filter fun x => x.2.running).foldl (fun s x => s.count x.1 code n) s

/-! ## Positions on the Hilbert order (R8, R77) -/

/-- One turn of the curve. -/
def hilbertTurn (m : Nat) (x y rx ry : Nat) : Nat × Nat :=
  if ry = 0 then (if rx = 1 then (m - 1 - y, m - 1 - x) else (y, x)) else (x, y)

/-- Coordinates of a die-local index. -/
def hilbertD2xy (d : Nat) : Nat × Nat :=
  let step (p : Nat × Nat) (lv : Nat) : Nat × Nat :=
    let t := d / 4 ^ lv
    let m := 2 ^ lv
    let rx := (t / 2) % 2
    let ry := (t ^^^ rx) % 2
    let (x, y) := hilbertTurn m p.1 p.2 rx ry
    (x + m * rx, y + m * ry)
  [0, 1, 2, 3].foldl step (0, 0)

/-- Die-local index of coordinates. -/
def hilbertXy2d (x y : Nat) : Nat :=
  let step (p : Nat × Nat × Nat) (m : Nat) : Nat × Nat × Nat :=
    let (x, y, d) := p
    let rx := if x &&& m ≠ 0 then 1 else 0
    let ry := if y &&& m ≠ 0 then 1 else 0
    let d' := d + m * m * ((3 * rx) ^^^ ry)
    let (x', y') := hilbertTurn 16 x y rx ry
    (x', y', d')
  ([8, 4, 2, 1].foldl step (x, y, 0)).2.2

/-- Global coordinates of a cluster (R8). -/
def clusterXY (i : Nat) : Nat × Nat :=
  let (x, y) := hilbertD2xy (i % 256)
  (if 256 ≤ i then x + 16 else x, y)

/-- Cluster at global coordinates. -/
def clusterAt (x y : Nat) : Nat := if 16 ≤ x then 256 + hilbertXy2d (x - 16) y else hilbertXy2d x y

/-- Mesh neighbours of a cluster (R287). -/
def neighbours (i : Nat) : List Nat :=
  let (x, y) := clusterXY i
  (if 0 < x then [clusterAt (x - 1) y] else []) ++ (if x < 31 then [clusterAt (x + 1) y] else []) ++
  (if 0 < y then [clusterAt x (y - 1)] else []) ++ (if y < 15 then [clusterAt x (y + 1)] else [])

/-- Distance of two indices. -/
def dist (a b : Nat) : Nat := if a ≤ b then b - a else a - b

/-- The next cluster of a route (R290). -/
def nextHop (cur dst svb svl : Nat) : Nat :=
  let ok (i : Nat) : Bool :=
    decide (svb ≤ i) && decide (i < svb + svl) &&
      (if cur < dst then decide (cur < i) && decide (i ≤ dst) else decide (i < cur) && decide (dst ≤ i))
  let best (b : Nat) (i : Nat) : Nat := if ok i && decide (dist dst i < dist dst b) then i else b
  (neighbours cur).foldl best cur

/-- Hops of a route (R290), by fuel. -/
def hopsFuel : Nat → Nat → Nat → Nat → Nat → Nat
  | 0, _, _, _, _ => 0
  | f + 1, cur, dst, svb, svl =>
    if cur = dst then 0
    else
      let n := nextHop cur dst svb svl
      if n = cur then 0 else 1 + hopsFuel f n dst svb svl

/-- Hops between two clusters of a partition. -/
def hops (src dst svb svl : Nat) : Nat := hopsFuel 512 src dst svb svl

/-- The cluster whose router carries a node's traffic (R287). -/
def meshNode (node svb : Nat) : Nat := if node < 512 then node else svb

/-- Cycles of the bridge between the I/O die and a partition (R334). -/
def bridge (node : Nat) : Nat := if node < 512 then 0 else 24

/-! ## Where memory lies (R294, R295) -/

/-- Home cluster of a physical address of a partition (R295). -/
def homeOf (svb svl p : Nat) : Nat := svb + ((p - svb * 2 ^ 30) / 4096) % svl

/-- Address of a byte in the 1 GiB of its home cluster (R295). -/
def localAddr (svb svl p : Nat) : Nat := (p - svb * 2 ^ 30) / 4096 / svl * 4096 + (p - svb * 2 ^ 30) % 4096

/-- Number of its line there. -/
def localLine (svb svl p : Nat) : Nat := localAddr svb svl p / 128

/-- Sector of a byte in its line. -/
def sectorOf (p : Nat) : Nat := p % 128 / 16

/-- Package stack of a cluster's memory (R294). -/
def stackOf (cl : Nat) : Nat := 4 * (cl / 256) + cl % 256 / 64

/-- Pseudo-channel of that stack which holds a sector of a cluster's lines (R294). -/
def channelOf (cl sector : Nat) : Nat := 4 * (cl % 64) + sector % 4

/-- Is the pseudo-channel of a sector of a cluster's lines spared (R298)? -/
def State.spared (s : State) (cl sector : Nat) : Bool := s.spares.any fun x => x.1 == stackOf cl && x.2.1 == channelOf cl sector

/-! ## Code addresses (R34) -/

/-- Instruction index of a byte address. -/
def indexOf (pc : Word) : Int := ((pc.toNat / 128) * 10 + (pc.toNat % 128) / 12 : Nat)

/-- Byte address of an instruction index, modulo 2^64 (R34). A negative index, before the wrap, is divided with floor (DESIGN CHOICE,
notes/assumptions/73.md). -/
def addrOf (i : Int) : Word := BitVec.ofInt 64 (i / 10 * 128 + i % 10 * 12)

/-- Byte address of the next instruction. -/
def nextPc (pc : Word) : Word := addrOf (indexOf pc + 1)

/-- Byte address at an offset in instructions. -/
def relPc (pc : Word) (off : BitVec 32) : Word := addrOf (indexOf pc + off.toInt)

/-! ## CRCs (R347, R351, R365) -/

/-- CRC-64 (ECMA-182), continued by one byte. -/
def crc64Byte (d : BitVec 64) (b : Byte) : BitVec 64 :=
  (List.range 8).foldl (fun d _ => if d.msb then (d <<< 1) ^^^ 0x42F0E1EBA9EA3693 else d <<< 1)
    (d ^^^ (b.setWidth 64 <<< 56))

/-- CRC-64 continued by bytes. -/
def crc64 (d : BitVec 64) (bs : List Byte) : BitVec 64 := bs.foldl crc64Byte d

/-- CRC-32C, reflected. -/
def crc32c (bs : List Byte) : BitVec 32 :=
  ~~~ bs.foldl (fun d b => (List.range 8).foldl
    (fun d _ => if d.getLsbD 0 then (d >>> 1) ^^^ 0x82F63B78 else d >>> 1) (d ^^^ b.setWidth 32)) 0xFFFFFFFF

/-! ## Messages (R166) -/

/-- Length in flits. -/
def msgFlits (m : Msg) : Nat := (16 + m.payload.length + 63) / 64

/-- Header word 0. -/
def msgWord0 (m : Msg) : Word :=
  BitVec.ofNat 64 (m.dst.toNat + m.cls.toNat <<< 32 + (msgFlits m - 1) <<< 36 + m.col.toNat <<< 38 +
    m.seq.toNat <<< 40 + (if m.rel then 1 else 0) <<< 56)

/-- Header word 1. -/
def msgWord1 (m : Msg) : Word := m.tag ++ m.src

/-- Header and payload. -/
def msgBytes (m : Msg) : List Byte := bytesLE 8 (msgWord0 m).toNat ++ bytesLE 8 (msgWord1 m).toNat ++ m.payload

/-- Next sequence number of a destination at a core (R166). -/
def State.takeSeq (s : State) (c core : Nat) (dst : BitVec 32) : BitVec 16 × State :=
  let q := ((s.coreAt c core).seqs.look dst).getD 0
  (q, s.modCore c core fun k => { k with seqs := k.seqs.put dst (q + 1) })

/-- Injects a message at a core's NI, with its sequence number: to the core itself 7 cycles later, otherwise into the
mesh 4 cycles later, and from the I/O die over the bridge (R180, R291, R334). -/
def State.injectNow (s : State) (c core : Nat) (m : Msg) : State :=
  let (q, s) := s.takeSeq c core m.dst
  let m := { m with seq := q }
  if aadCore m.dst = core then s.after 7 (.messageArrival c m)
  else s.after (4 + bridge (nodeOf core)) (.packetRoute c (meshNode (nodeOf core) (s.ctxAt c).svb) (nodeOf (aadCore m.dst)) (.message m none))

/-- A message that a core's NI holds back until a cycle (R173, R180). -/
def State.holdBack (s : State) (c core : Nat) (m : Msg) (at_ : Nat) : State :=
  (s.modCore c core fun k => { k with inject := k.inject ++ [(m, at_)] }).after (at_ - s.cycle) (.delayedInjection c core m)

/-- Injects a message of a core, behind those to the same destination that are held back (R173). -/
def State.inject (s : State) (c core : Nat) (m : Msg) : State :=
  if (s.coreAt c core).inject.any (fun x => x.1.dst == m.dst) then s.holdBack c core m s.cycle else s.injectNow c core m

/-- Cycles of a packet from a node to a cluster of a partition (R291); from the I/O die it crosses the bridge (R334). -/
def Ctx.meshDelay (x : Ctx) (src dst : Nat) : Nat := 7 + bridge src + 2 * hops (meshNode src x.svb) dst x.svb x.svl

/-- Something for Pelson waits during a live update (R347). -/
def State.await (s : State) (a : PelsonAct) : State := { s with waiting := s.waiting ++ [a] }

/-- A message handed to Pelson (R333), or to its bobbins during a live update (R347). -/
def State.toPelson (s : State) (c : Nat) (m : Msg) : State :=
  if s.update.isSome then s.await (.take c m) else { s with pelson := (c, m) :: s.pelson }

/-! ## Notices (R40, R41) -/

/-- The 48 bytes of a notice (R41). -/
def noticeBytes (code reason slot : Nat) (dom : BitVec 6) (aid : BitVec 48) (pc : Word) (word : IWord) (info : Word) :
    List Byte :=
  bytesLE 2 code ++ bytesLE 1 reason ++ bytesLE 1 slot ++ bytesLE 1 dom.toNat ++ bytesLE 3 0 ++ bytesLE 6 aid.toNat ++
  bytesLE 2 0 ++ bytesLE 8 pc.toNat ++ bytesLE 12 word.toNat ++ bytesLE 4 0 ++ bytesLE 8 info.toNat

/-- Pelson adds a record to the ring of the fault-notice window (R343): 48 bytes of the notice, then zeros; and raises
interrupt 1. -/
def State.recordNotice (s : State) (c : Nat) (payload : List Byte) : State :=
  if s.update.isSome then s.await (.record c payload)
  else s.modCtx c fun x => { x with
    notices := vmod x.notices (x.noticeOff % 63) fun _ => payload.take 48 ++ List.replicate (64 - (payload.take 48).length) 0
    noticeOff := x.noticeOff + 1, irq1 := x.irq1 + 1 }

/-- Pelson terminates a context (R343): its activations end, it is not restored, and notice 0x001F is recorded. -/
def State.terminate (s : State) (c : Nat) (reason : Nat) : State :=
  if s.update.isSome then s.await (.terminate c reason)
  else
  let s := s.modCtx c fun x => { x with running := false, terminated := true }
  { s.recordNotice c (noticeBytes 0x001F reason 0 0 0 0 0 0) with acts := s.acts.filter fun a => a.1.ctx ≠ c }

/-- A class 14 message from an AAD. -/
def noticeMsg (dst src : BitVec 32) (payload : List Byte) : Msg := { dst, cls := 14, src, payload }

/-- Sends a notice of a core to Pelson itself, which takes it as `use` says: over the mesh and the bridge from a compute die, and at once
from the I/O die (R291, R334). -/
def State.tellPelson (s : State) (c core : Nat) (m : Msg) (use : PelsonUse) : State :=
  let x := s.ctxAt c
  let m := { m with use := some use }
  if 512 ≤ nodeOf core then s.now (.messageArrival c m)
  else s.after (x.meshDelay (nodeOf core) x.svb + bridge 528) (.messageArrival c m)

/-- Sends a notice of an actor to SUPV, or to its debug owner (R227); to Pelson, which terminates the context, where
there is no supervisor or the actor is its own (R40). -/
def State.notice (s : State) (c core actor : Nat) (src : BitVec 32) (toDebug : Bool) (payload : List Byte) : State :=
  let owner := match s.actorAt c core actor with | some a => a.owner | none => 0
  if toDebug && owner != 0 then s.inject c core (noticeMsg owner src payload)
  else if (s.ctxAt c).supv == 0 || s.ownsSupv c core actor then
    s.tellPelson c core (noticeMsg 0 src payload) .terminate
  else s.inject c core (noticeMsg (s.ctxAt c).supv src payload)

/-- What a parking notice says beside the fields of the activation (R41); `pc` and `word` where they are not those of
the faulting instruction. -/
structure Notice where
  code : Nat
  reason : Nat := 0
  info : Word := 0
  /-- the manual states no INFO for this notice: a free value (DESIGN CHOICE, notes/assumptions/7.md) -/
  openInfo : Bool := false
  pc : Option Word := none
  word : Option IWord := none
  dom : Option (BitVec 6) := none
  toDebug : Bool := false
  /-- addresses that have been translated, also where the access then faults (R241) -/
  pages : List Nat := []
  deriving DecidableEq, Repr

/-! ## Streams of the present activation -/

/-- The stream of the present instruction. -/
def Act.str (a : Act) (t : Stream) : StreamSt := match t with | .main => a.main | .access => a.acc

/-- Replaces a stream. -/
def Act.setStr (a : Act) (t : Stream) (x : StreamSt) : Act :=
  match t with | .main => { a with main := x } | .access => { a with acc := x }

/-- Byte address of the present instruction. -/
def State.pc (s : State) : Word := (s.act.str s.cur.stream).pc

/-- Is a byte address one that R35 admits for an instruction? -/
def codeAligned (w : Word) : Bool := decide (w.toNat % 128 < 120) && w.toNat % 128 % 12 == 0

/-- Moves an issued candidate to the back of the rotation; with YLD the slot's other candidate goes just before it. -/
def rotate (rot : List (BitVec 3 × Stream)) (slot : BitVec 3) (t : Stream) (yld : Bool) : List (BitVec 3 × Stream) :=
  let other : Stream := match t with | .main => .access | .access => .main
  let rest := rot.filter fun x => x ≠ (slot, t)
  if yld then (rest.filter fun x => x ≠ (slot, other)) ++ [(slot, other), (slot, t)] else rest ++ [(slot, t)]

/-- The issue cycle of the present instruction: the core has issued, the rotation moves, the instruction counts. -/
def State.issueCycle (s : State) (yld : Bool) : State :=
  let s := s.modHw s.ccore fun k =>
    { k with rot := rotate k.rot (BitVec.ofNat 3 s.cur.sid.slot) s.cur.stream yld
             nowSlots := k.nowSlots ||| BitVec.twoPow 8 s.cur.sid.slot }
  { s with issued := s.ccore :: s.issued }.count s.cctx 0x0001

/-- The stream goes on at `pc` after the present instruction, from its domain (R195-R197); `issued` is the cycle in which that
instruction issued (R33). -/
def State.goTo (s : State) (pc : Word) (arr : Arrival) (issued : Option Nat := some s.cycle) : State :=
  s.modAct fun a =>
    let x := a.str s.cur.stream
    a.setStr s.cur.stream { x with pc, arrival := arr, fromDom := s.cur.dom, lastPc := x.pc, wait := .ready, skipBp := false,
                                   issuedAt := issued, refused := none, answer := none, fresh := false, acks := false, fetched := none
                                   given := none, skip := [] }

/-- The present instruction is complete and its stream goes on at `pc`: R34, R44, R229. -/
def State.retireTo (s : State) (h : Hdr) (pc : Word) (arr : Arrival := .transfer) : State :=
  ((s.goTo pc arr).issueCycle h.yld).count s.cctx 0x0002

/-- The present instruction is complete and its stream goes on at the next one. -/
def State.retire (s : State) (h : Hdr) : State := s.retireTo h (nextPc s.pc)

/-- The present candidate does not issue in this cycle; it keeps its place in the rotation (R44). `why` is its cause in
the table of R221. -/
def State.hold (s : State) (why : BitVec 6) : State := { s with blocked := ((s.cur.sid, s.cur.stream), why) :: s.blocked }

/-- Sets what the present stream waits on. -/
def State.waitOn (s : State) (w : Wait) : State :=
  s.modAct fun a => a.setStr s.cur.stream { a.str s.cur.stream with wait := w }

/-- The present instruction has issued, and its stream is held at it. -/
def State.issueHeld (s : State) (h : Hdr) (w : Wait) : State :=
  ((s.modAct fun a => a.setStr s.cur.stream { a.str s.cur.stream with wait := w, heldDom := s.cur.dom, issuedAt := some s.cycle }).issueCycle
    h.yld).count s.cctx 0x0002

/-- A stream that is held after its issue goes on at the next instruction. -/
def State.goOn (s : State) (t : SlotId) (x : Stream) : State :=
  match s.acts.look t with
  | none => s
  | some a =>
    let s1 := { s with cur := { sid := t, stream := x, dom := (a.str x).heldDom, word := 0 } }
    s1.goTo (nextPc (a.str x).pc) .transfer (a.str x).issuedAt

/-- Streams that SDRAIN holds go on, where what it waits for is over. -/
def State.drainOver (s : State) (t : SlotId) (ended : Nat → Bool) : State :=
  [Stream.main, .access].foldl (fun s x =>
    match (s.acts.look t).map fun (a : Act) => (a.str x).wait with
    | some (.draining n) =>
      if ended n then
        ({ s.goOn t x with cur := s.cur } : State).modActAt t fun a => a.setStr x { a.str x with notBefore := s.cycle + 1 }
      else s
    | _ => s) s

/-- Slot byte of a notice (R41). -/
def slotByte (slot : Nat) (t : Stream) : Nat := slot % 8 + (match t with | .main => 0 | .access => 8)

/-- Takes a free value of 64 bits. -/
def State.freeWord (s : State) : Word × State :=
  let (bs, s) := (List.range 8).foldl (fun (acc : List Byte × State) _ =>
    let (b, s) := acc.2.freeByte; (b :: acc.1, s)) ([], s)
  (BitVec.ofNat 64 (ofBytesLE bs), s)

/-- The pair of the present activation in lockstitch, with `true` for its secondary (R350). -/
def State.seam? (s : State) : Option (Nat × Bool) :=
  if (s.ctxAt s.cctx).lockstitch then
    match s.seams.findIdx? (fun x => x.primary == s.cur.sid) with
    | some i => some (i, false)
    | none => (s.seams.findIdx? (fun x => x.secondary == s.cur.sid)).map fun i => (i, true)
  else none

/-- Is the present activation the secondary of a pair (R350)? -/
def State.isCopy (s : State) : Bool := match s.seam? with | some (_, b) => b | none => false

/-- The core whose NI, mailboxes and AADs the present activation has: the primary's under lockstitch (R349, R350). -/
def State.idCore (s : State) : Nat :=
  match s.seam? with
  | some (i, true) => (match s.seams[i]? with | some x => x.primary.core | none => s.ccore)
  | _ => s.ccore

/-- What a park leaves of a stream: nothing is fetched, and a refusal of Pelson's does not outlast it; a stream that has completed
no instruction has HDOM as its from-domain (R192, R197, R311). -/
def StreamSt.parked (x : StreamSt) (hdom : BitVec 6) : StreamSt :=
  { x with fetched := none, refused := none, given := none, skip := [], fromDom := if x.fresh then hdom else x.fromDom }

/-- An activation with PARK set (R40). -/
def Act.parked (a : Act) (hdom : BitVec 6) : Act :=
  { a with park := true, main := a.main.parked hdom, acc := a.acc.parked hdom }

/-- Sets PARK and sends the notice (R40), for the present activation; `ipc` is the byte address of the instruction. The
secondary of a pair parks alone: its primary sends the notice, and passes the park on in the place of a value, which a load
of the secondary may wait for (DEDUCED, notes/assumptions/32.md). -/
def State.parkAt (s : State) (ipc : Word) (n : Notice) : State :=
  let a := s.act
  let (info, s) := if n.openInfo then s.freeWord else (n.info, s)
  let s := match s.seam? with
    | some (i, false) => { s with seams := s.seams.modify i fun x => { x with values := x.values ++ [(s.cur.stream, [])] } }
    | _ => s
  let aid := match s.cactor? with | some x => x.aid | none => 0
  let b := a.parked (match s.cactor? with | some x => x.hdom | none => 0)
  if s.isCopy then s.setAct b
  else (s.setAct b).notice s.cctx s.ccore a.actor (aadOf s.ccore a.mbx) n.toDebug
    (noticeBytes n.code n.reason (slotByte s.cur.sid.slot s.cur.stream) (n.dom.getD s.cur.dom) aid (n.pc.getD ipc)
      (n.word.getD s.cur.word) info)

/-! ## Translation buffers -/

/-- Does an entry map an address of a context? -/
def TlbEntry.maps (e : TlbEntry) (c va : Nat) : Bool := e.ctx == c && va >>> e.bits == e.vpage

/-- The entry of a list that maps an address of a context. -/
def lookTlb (l : List TlbEntry) (c va : Nat) : Option TlbEntry := l.find? fun e => e.maps c va

/-- Set of the cluster TLB that an entry lies in (R308). -/
def tlbSet (e : TlbEntry) : Nat := e.vpage % 512

/-- Keeps the first `n` entries of a set. -/
def keepWays (set : Nat) : Nat → List TlbEntry → List TlbEntry
  | _, [] => []
  | n, e :: t =>
    if tlbSet e = set then (match n with | 0 => keepWays set 0 t | k + 1 => e :: keepWays set k t)
    else e :: keepWays set n t

/-- Enters a translation in a cluster TLB as the most recent: 8 ways of a set (R308). -/
def enterTlb (e : TlbEntry) (l : List TlbEntry) : List TlbEntry :=
  keepWays (tlbSet e) 8 (e :: l.filter fun x => x ≠ e)

/-- The translation of a global address by a core, from its TLB or its cluster's. -/
def State.xlat (s : State) (c core va : Nat) : Option TlbEntry :=
  (lookTlb (s.hwAt core).tlb c va).or (lookTlb (s.clHwAt (nodeOf core)).tlb c va)

/-- The translation of a global address under which an access proceeds: one that its walk has given, or that of the TLBs (R312). -/
def State.xlatOr (s : State) (given : Option TlbEntry) (c core va : Nat) : Option TlbEntry :=
  (given.filter (·.maps c va)).or (s.xlat c core va)

/-- The first n elements of a list. -/
def keepFirst {α : Type} : Nat → List α → List α
  | _, [] => []
  | n, e :: t => match n with | 0 => [] | k + 1 => e :: keepFirst k t

/-- Enters a translation in a core TLB as the most recent; the least recently used one goes where it is full (R241). -/
def enterCore (e : TlbEntry) (l : List TlbEntry) : List TlbEntry := e :: keepFirst Config.coreTlbMore (l.filter fun x => x ≠ e)

/-- A translation is used: it becomes the most recent of its TLB, and one found in the cluster TLB enters the core TLB (R241,
R308). -/
def State.touchTlb (s : State) (c core va : Nat) : State :=
  match lookTlb (s.hwAt core).tlb c va with
  | some e => s.modHw core fun k => { k with tlb := e :: k.tlb.filter fun x => x ≠ e }
  | none =>
    match lookTlb (s.clHwAt (nodeOf core)).tlb c va with
    | none => s
    | some e =>
      (s.modHw core fun k => { k with tlb := enterCore e k.tlb }).modClHw (nodeOf core) fun k => { k with tlb := enterTlb e k.tlb }

/-- The pages of an access become the most recent of their TLBs (R241). -/
def State.touchAll (s : State) (c core : Nat) (addrs : List Nat) : State :=
  ((addrs.filter fun a => decide (a < 2 ^ 55)).map (· / 65536)).eraseDups.foldl (fun s g => s.touchTlb c core (g * 65536)) s

/-- A fault of the present instruction: it parks before any effect, and takes one issue cycle (R40). -/
def State.park (s : State) (n : Notice) : State := ((s.touchAll s.cctx s.ccore n.pages).parkAt s.pc n).issueCycle false


/-! ## Page tables (R306, R307) -/

/-- Level, lowest virtual bit indexed, and entries of a table (R306). -/
def walkLevels : List (Nat × Nat × Nat) := [(3, 42, 8192), (2, 30, 4096), (1, 21, 512), (0, 16, 32)]

/-- Do n bytes at a physical address lie in the partition's memory (R295)? -/
def Ctx.inPart (x : Ctx) (a n : Nat) : Bool := decide (x.svb * 2 ^ 30 ≤ a) && decide (a + n ≤ (x.svb + x.svl) * 2 ^ 30)

/-- ADDR of an entry. -/
def pteAddr (w : Word) : Nat := (w.extractLsb' 8 38).toNat * 256

/-! ## Walks (R308) -/

/-- The latency of a strong load of a context by a cluster (R45): at its home, or 120 cycles more where the slice misses, and 8
more in a spared pseudo-channel (R298); from the I/O die with the bridge both ways (R334). -/
def State.strongCycles (s : State) (c cl phys : Nat) : Nat :=
  let x := s.ctxAt c
  let home := homeOf x.svb x.svl phys
  let hit := (s.clHwAt home).slice.any fun y => y.line == phys / 128 && y.valid.getLsbD (sectorOf phys)
  (if home = cl then 30 else 44 + 4 * hops (meshNode cl x.svb) home x.svb x.svl) + (if cl < 512 then 0 else 48) +
  (if hit then 0 else 120 + if s.spared home (sectorOf phys) then 8 else 0)

/-- The latencies of the reads of a walk from a table on. -/
def State.walkReads (s : State) (c cl va : Nat) : Nat → List (Nat × Nat × Nat) → Nat
  | _, [] => 0
  | tbl, (_, sh, n) :: t =>
    let p := tbl + 8 * (va >>> sh % n)
    let w : Word := BitVec.ofNat 64 (ofBytesLE (s.readKeys p 8))
    s.strongCycles c cl p + if w.getLsbD 0 && !w.getLsbD 1 then State.walkReads s c cl va (pteAddr w) t else 0

/-- A walker that is free begins the oldest walk that waits for one; each cluster has two (R308). -/
def State.beginWalk (s : State) (cl : Nat) : State :=
  let l := (s.clHwAt cl).walks
  if 2 ≤ (l.filter fun w => w.begun && w.seq.isNone).length then s
  else match l.find? fun w => !w.begun with
  | none => s
  | some w =>
    let mark (y : Walk) : Walk := if y.ctx = w.ctx ∧ y.granule = w.granule then { y with begun := true } else y
    (s.modClHw cl fun k => { k with walks := k.walks.map mark }).after
      (s.walkReads w.ctx cl (w.granule * 65536) (s.ctxAt w.ctx).root walkLevels + 4)
      (.walkEnd w.ctx cl (BitVec.ofNat 64 (w.granule * 65536)) w.acc)

/-- The walk of a granule. -/
def State.walkOf (s : State) (c cl granule : Nat) : Option Walk :=
  (s.clHwAt cl).walks.find? fun w => w.ctx == c && w.granule == granule

/-- The first waiter of a walk that only probes wait for (R310, ACC). -/
def State.firstWaiter (s : State) (c cl granule : Nat) (acc : AccKind) : State :=
  let va := BitVec.ofNat 64 (granule * 65536)
  ({ s with agenda := s.agenda.map fun e => if e.2 = .walkEnd c cl va .probe then (e.1, .walkEnd c cl va acc) else e } : State).modClHw cl
    fun k => { k with walks := k.walks.map fun w => if w.ctx = c ∧ w.granule = granule then { w with acc } else w }

/-- Asks the walkers of the cluster for a granule, unless they already walk it (R308). -/
def State.startWalk (s : State) (c cl granule : Nat) (acc : AccKind) : State :=
  match s.walkOf c cl granule with
  | some w => if w.acc = .probe ∧ acc ≠ .probe then s.firstWaiter c cl granule acc else s
  | none => ((s.modClHw cl fun k => { k with walks := k.walks ++ [{ ctx := c, granule, acc }] }).count c 0x0008).beginWalk cl

/-- SEQ of the fault-queue entry on which a walk waits, if it waits. -/
def State.walkSeq (s : State) (c cl granule : Nat) : Option Nat :=
  (s.walkOf c cl granule).bind (·.seq)

/-- The present stream waits for a granule: for a walk, or for the fault-queue entry of its walk. A probe waits only for a walk that may
still translate (R309). -/
def State.waitGranule (s : State) (granule : Nat) (acc : AccKind) : State :=
  let s := s.startWalk s.cctx s.ccl granule acc
  if acc = .probe then s.waitOn (.probe granule)
  else match s.walkSeq s.cctx s.ccl granule with
  | some q => s.waitOn (.fault granule q)
  | none => s.waitOn (.walk granule)

/-! ## The seam (R351) -/

/-- Core number of the pair's other core under lockstitch (R349), for a primary core. -/
def State.mate (s : State) (c core : Nat) : Option Nat :=
  let x := s.ctxAt c
  if x.lockstitch && decide (nodeOf core < x.svb + x.svl / 2) then some (core + 8 * (x.svl / 2)) else none

/-- What an entry contributes to the hash of a buffer: kind, address, size and data. -/
def OutEntry.hashed : OutEntry → List Byte
  | .store _ va _ strong rel n =>
    bytesLE 1 (1 + (if strong then 1 else 0) + (match rel with | some _ => 2 | none => 0)) ++ bytesLE 2 n ++
    va.flatMap fun b => bytesLE 8 b.1 ++ [b.2]
  | .fence .. => bytesLE 1 5
  | .flush _ _ l => bytesLE 1 6 ++ (match l with | some (.lines q) => q | _ => []).flatMap fun x => bytesLE 8 x
  | .msg m d => bytesLE 1 7 ++ bytesLE 4 d ++ msgBytes m

/-- The present activation of a pair comes to a release of the first n entries of its buffer: its NI forms their CRC-64 (R351; the
manual gives no encoding of the entries: DESIGN CHOICE, notes/assumptions/7.md), and once both are there the router of the primary
compares them, 2 × hops + 10 cycles later. -/
def State.seamHashOf (s : State) (isEnd : Bool) (n : Nat) : State :=
  match s.seam? with
  | none => s
  | some (i, second) =>
    let v := some (crc64 0 ((s.act.outb.take n).flatMap OutEntry.hashed), isEnd, n)
    let s := { s with seams := s.seams.modify i fun x => if second then { x with hs := v } else { x with hp := v } }
    match s.seams[i]? with
    | none => s
    | some m =>
      let c := s.ctxAt m.primary.ctx
      match m.hp, m.hs with
      | some x, some y =>
        s.after (2 * hops (nodeOf m.primary.core) (nodeOf m.secondary.core) c.svb c.svl + 10) (.seamCheck m.primary x.1 y.1)
      | _, _ => s

/-- A release of the whole buffer of the present activation. -/
def State.seamHash (s : State) (isEnd : Bool) : State := s.seamHashOf isEnd s.act.outb.length

/-! ## The monad of the meanings -/

/-- Why an instruction does not complete; each leaves the state as it was before the instruction, and then: -/
inductive Stop where
  /-- the activation parks with a notice -/
  | park (n : Notice)
  /-- the candidate does not issue in this cycle, for a cause of R221 -/
  | hold (why : BitVec 6)
  /-- the stream waits for a translation -/
  | walk (granule : Nat) (acc : AccKind)
  /-- the stream waits on something else -/
  | wait (w : Wait)
  /-- the activation consumes an uncorrectable error (R298); these addresses have been translated (R241) -/
  | poison (pages : List Nat)
  /-- an early commit under lockstitch waits for the seam check (R351) -/
  | seam
  deriving DecidableEq, Repr

/-- A meaning's computation: it changes the state, or stops. -/
abbrev M := StateT State (Except Stop)

/-- Stops. -/
def stop {α : Type} (e : Stop) : M α := throw e

/-- Parks. -/
def parkM {α : Type} (n : Notice) : M α := throw (.park n)

/-- What a stop leaves of the state before the instruction. -/
def State.stopped (s : State) : Stop → State
  | .park n => s.park n
  | .hold why => s.hold why
  | .walk g acc => s.waitGranule g acc
  | .wait w => s.waitOn w
  | .poison l => (s.touchAll s.cctx s.ccore l).now (.uncorrectableErrorKill s.cur.sid)
  | .seam => (s.seamHash false).waitOn .seam

/-- Is the guard true (R32)? p7 reads 1. -/
def Act.guardOk (a : Act) (grd : BitVec 4) : Bool :=
  let i := (grd.extractLsb' 0 3).toNat
  (if i == 7 then true else a.p.getLsbD i) != grd.getLsbD 3

/-- The outcome of a computation: its state, finished, or what its stop leaves. -/
def runM {α : Type} (s : State) (body : M α) (fin : α → State → State) : Host.Outcome State Fault Refusal :=
  match body.run s with
  | .ok (x, t) => .next (fin x t)
  | .error e => .next (s.stopped e)

/-- The wrapper of every word's meaning: there must be an activation; with a false guard the instruction only takes its
issue cycle (R32); otherwise `k` is the meaning. -/
def guarded (h : Hdr) (s : State) (k : Host.Outcome State Fault Refusal) : Host.Outcome State Fault Refusal :=
  match s.act? with
  | none => .refused .noActivation
  | some a => if a.guardOk h.grd then k else .next (s.retire h)

/-- An instruction that completes and goes on in sequence. -/
def instr (h : Hdr) (s : State) (body : M Unit) : Host.Outcome State Fault Refusal :=
  guarded h s (runM s body fun _ t => t.retire h)

/-- An instruction that chooses where its stream goes on. -/
def control (h : Hdr) (s : State) (body : M Word) : Host.Outcome State Fault Refusal :=
  guarded h s (runM s body fun pc t => t.retireTo h pc)

/-- FLG gathers the raised bits; an enabled one parks after the result (R23). -/
def State.raise (s : State) (ipc : Word) (fl : BitVec 5) : State :=
  let a := s.act
  let t := s.setAct { a with flg := a.flg ||| fl }
  if a.fen &&& fl = 0 then t
  else (t.parkAt ipc { code := 0x0004, info := fl.setWidth 64 }).count s.cctx 0x000B

/-- An instruction that raises floating-point events. -/
def instrFp (h : Hdr) (s : State) (body : M (BitVec 5)) : Host.Outcome State Fault Refusal :=
  guarded h s (runM s body fun fl t => (t.retire h).raise s.pc fl)

/-- Reads a part of the state. -/
def asks {α : Type} (f : State → α) : M α := fun s => .ok (f s, s)

/-- Changes the state. -/
def change (f : State → State) : M Unit := fun s => .ok ((), f s)

/-- Changes the present activation. -/
def changeAct (f : Act → Act) : M Unit := change fun s => s.modAct f

/-- Parks unless a condition holds. -/
def check (ok : Bool) (n : Notice) : M Unit := if ok then pure () else parkM n

/-- The privilege fault of the instructions other than SRD and SWR: INFO all ones (R22). -/
def privFault : Notice := { code := 0x0003, info := BitVec.allOnes 64 }

/-- Parks unless the activation is privileged. -/
def needPriv : M Unit := do check (← asks State.isPriv) privFault

end Sys2Proof.Machine
end

