-- ==== Sys2Proof/Machine/Access.lean ====
section
/-! DEFINITION. Accesses to memory: rights (R193), local space (R136),
workspaces as memory (R15-R17, R158), the cluster cache, the stash and the homes (R264-R267, R296-R300), loads
(R140, R141, R153), stores under check (R138, R139) and the outbound buffer (R175, R176). -/

namespace Sys2Proof.Machine

/-! ## Translation -/

/-- Physical address under a translation. -/
def TlbEntry.phys (e : TlbEntry) (va : Nat) : Nat := e.ppage <<< e.bits + va % 2 ^ e.bits

/-! ## Rights (R191, R193) -/

/-- What an access needs. -/
inductive Need where
  | read | write | both
  deriving DecidableEq, Repr

/-- Entry (c, t) of the rights table as the cores loaded it; the diagonal reads as 0x0F (R191). -/
def Ctx.right (x : Ctx) (c t : BitVec 6) : BitVec 8 :=
  if c = t then 0x0F else x.live[64 * c.toNat + t.toNat]!

/-- Does an entry grant what is needed? -/
def grants (r : BitVec 8) : Need → Bool
  | .read => r.getLsbD 0
  | .write => r.getLsbD 1
  | .both => r.getLsbD 0 && r.getLsbD 1

/-- Does an open window admit an access to an address with a tag? -/
def windowAdmits (x : Ctx) (w : Window) (a : Nat) (t : BitVec 6) (need : Need) : Bool :=
  decide (w.base.toNat ≤ a) && decide (a < w.base.toNat + w.len) &&
  (match need with | .read => true | _ => w.write) &&
  grants (x.right w.ldom t) need && (x.right w.ldom t).getLsbD 2

/-- The check of one byte by the rights table and the windows (R193). -/
def Ctx.allows (x : Ctx) (dom : BitVec 6) (ws : List Window) (a : Nat) (t : BitVec 6) (need : Need) : Bool :=
  grants (x.right dom t) need || ws.any fun w => windowAdmits x w a t need

/-- The open windows that admit a domain: those of the top record of the thimble whose EDOM it is (R201, R204). -/
def Act.openWindows (a : Act) (dom : BitVec 6) : List Window :=
  match a.thimble with
  | [] => []
  | r :: _ => if r.edom = dom then r.w0.toList ++ r.w1.toList else []

/-! ## Workspaces as memory (R15-R17) -/

/-- Byte `i` of a bit vector. -/
def byteOf {n : Nat} (x : BitVec n) (i : Nat) : Byte := x.extractLsb' (8 * i) 8

/-- A bit vector with byte `i` replaced. -/
def setByte {n : Nat} (x : BitVec n) (i : Nat) (b : Byte) : BitVec n :=
  (x &&& ~~~((BitVec.allOnes 8).setWidth n <<< (8 * i))) ||| (b.setWidth n <<< (8 * i))

/-- A byte of the registers or of the activation record, workspace bytes 0 to 3,455 (R15, R17). PC and APC name the next instruction of
their stream; while that stream's own load reads them, it is the next one still, and its address is read (DESIGN CHOICE,
notes/assumptions/81.md). -/
def Act.wsRead (a : Act) (w : Nat) : Byte :=
  if w < 256 then (if w < 8 then 0 else byteOf a.g[w / 8]! (w % 8))
  else if w < 2304 then byteOf (a.v[(w - 256) / 64]!)[(w - 256) % 64 / 4]! (w % 4)
  else if w < 3328 then byteOf (a.d[(w - 2304) / 64]!)[(w - 2304) % 64 / 2]! (w % 2)
  else if w < 3360 then byteOf a.n[(w - 3328) / 2]! (w % 2)
  else if w < 3376 then (if w < 3362 then 0xFF else byteOf a.k[(w - 3360) / 2]! (w % 2))
  else if w = 3376 then a.p ||| 0x80
  else if w < 3392 then 0
  else if w < 3400 then byteOf a.main.pc (w - 3392)
  else if w < 3408 then (if a.strm then byteOf a.acc.pc (w - 3400) else 0)
  else if w = 3408 then a.flg.setWidth 8
  else if w = 3409 then a.fen.setWidth 8
  else if w = 3410 then a.rnd.setWidth 8
  else if w = 3411 then BitVec.ofBool a.ecom ++ BitVec.ofBool a.park ++ BitVec.ofBool a.strm |>.setWidth 8
  else if w < 3416 then byteOf (BitVec.ofNat 32 a.hused) (w - 3412)
  else if w < 3424 then byteOf a.hdr1 (w - 3416)
  else 0

/-- A store to a byte of the registers, but for the dirty bit; g0, k0 and reserved bytes discard it, and p7 stays 1 (R16). It changes
the bytes of a bound register of v28-v31 too, for which R114 says that they keep their value (DESIGN CHOICE,
notes/assumptions/73.md). -/
def Act.wsWriteReg (a : Act) (w : Nat) (b : Byte) : Act :=
  if w < 8 then a
  else if w < 256 then { a with g := a.g.set! (w / 8) (setByte a.g[w / 8]! (w % 8) b) }
  else if w < 2304 then
    let i := (w - 256) / 64
    let j := (w - 256) % 64 / 4
    { a with v := a.v.set! i (a.v[i]!.set! j (setByte (a.v[i]!)[j]! (w % 4) b)) }
  else if w < 3328 then
    let i := (w - 2304) / 64
    let j := (w - 2304) % 64 / 2
    { a with d := a.d.set! i (a.d[i]!.set! j (setByte (a.d[i]!)[j]! (w % 2) b)) }
  else if w < 3360 then
    let i := (w - 3328) / 2
    { a with n := a.n.set! i (setByte a.n[i]! (w % 2) b) }
  else if w < 3362 then a
  else if w < 3376 then
    let i := (w - 3360) / 2
    { a with k := a.k.set! i (setByte a.k[i]! (w % 2) b) }
  else if w = 3376 then { a with p := b &&& 0x7F }
  else a

/-- A store to a byte of the registers, with the dirty bit of its block (R216). -/
def Act.wsWrite (a : Act) (w : Nat) (b : Byte) : Act :=
  let x := a.wsWriteReg w b
  { x with dirtyWs := x.dirtyWs ||| BitVec.twoPow 16 (w / 256) }

/-- A parked stream's PC is rewritten: at RESUME it continues from there, and no longer waits at the instruction it was held at,
but for an END that has issued (R158, R159; DEDUCED, notes/assumptions/80.md). -/
def StreamSt.setPc (x : StreamSt) (pc : Word) : StreamSt :=
  if pc = x.pc then x
  else { x with pc, fetched := none, answer := none, given := none, skip := [], refused := none
                wait := match x.wait with | .ended => .ended | .seam => .seam | _ => .ready }

/-- A store through the WINMAP window: also PC, APC while STRM is 1, FLG, FEN and RND (R158). -/
def Act.winWrite (a : Act) (w : Nat) (b : Byte) : Act :=
  if w < 3392 then a.wsWrite w b
  else
    let a := { a with dirtyWs := a.dirtyWs ||| 0x2000 }
    if w < 3400 then { a with main := a.main.setPc (setByte a.main.pc (w - 3392) b) }
    else if w < 3408 then (if a.strm then { a with acc := a.acc.setPc (setByte a.acc.pc (w - 3400) b) } else a)
    else if w = 3408 then { a with flg := b.setWidth 5 }
    else if w = 3409 then { a with fen := b.setWidth 5 }
    else if w = 3410 then { a with rnd := b.setWidth 2 }
    else a

/-! ## Where an address leads -/

/-- Who makes an access: slot (its own workspace is reachable while `own`), domain, windows, and its WINMAP window. -/
structure Who where
  sid : SlotId
  own : Bool
  dom : BitVec 6
  windows : List Window
  win : Option SlotId
  /-- the translation under which it proceeds after its walk (R312) -/
  given : Option TlbEntry := none
  deriving DecidableEq, Repr

/-- The present instruction. -/
def State.who (s : State) : Who :=
  { sid := s.cur.sid, own := true, dom := s.cur.dom, windows := s.act.openWindows s.cur.dom, win := s.act.win
    given := (s.act.str s.cur.stream).given }

/-- Where a byte lies. -/
inductive Place where
  /-- own workspace: a register or record byte -/
  | reg (w : Nat)
  /-- a byte of the workspace behind the WINMAP window -/
  | win (t : SlotId) (w : Nat)
  | clm (off : Nat)
  | tile (off : Nat)
  | glob (phys : Nat) (e : TlbEntry)
  deriving DecidableEq, Repr

/-- Why a byte cannot be accessed: a cause of R153, or a translation that is missing. -/
inductive Bad where
  | cause (n : Nat)
  | walk (granule : Nat)
  deriving DecidableEq, Repr

/-- Does a stash of the context take the tile-store byte (R266)? -/
def State.stashTakes (s : State) (c cl off : Nat) : Bool :=
  match (s.clAt c cl).stash with
  | some x => decide (x.tile ≤ off) && decide (off < x.tile + x.size)
  | none => false

/-- Where a byte lies and whether the access is admitted (R16, R17, R135, R136, R153, R193). An atomic on the own activation record
fails with a store's cause 7, for R147 lists none (DESIGN CHOICE, notes/assumptions/77.md). -/
def State.place (s : State) (w : Who) (a : Nat) (need : Need) : Except Bad Place :=
  let x := s.ctxAt w.sid.ctx
  if a ≥ 2 ^ 56 then .error (.cause 5)
  else if a ≥ 2 ^ 55 then
    let off := a - 2 ^ 55
    if off < 32768 then
      if off / 4096 = w.sid.slot ∧ w.own then
        let b := off % 4096
        if 3392 ≤ b ∧ b < 3456 ∧ need ≠ .read then .error (.cause 7)
        else if b < 3456 ∨ 4080 ≤ b then .ok (.reg b)
        else .ok (.clm off)
      else .error (.cause 6)
    else if off < 45056 then .error (.cause 6)
    else if off < 131072 then
      if x.allows w.dom w.windows a (s.coreAt w.sid.ctx w.sid.core).tags[off / 4096]! need then .ok (.clm off)
      else .error (.cause 3)
    else if 0x10000000 ≤ off ∧ off < 0x10600000 then
      let t := off - 0x10000000
      let cl := nodeOf w.sid.core
      if s.stashTakes w.sid.ctx cl t then .error (.cause 4)
      else if x.allows w.dom w.windows a (s.clAt w.sid.ctx cl).tags[t / 65536]! need then .ok (.tile t)
      else .error (.cause 3)
    else if 0x20000000 ≤ off ∧ off < 0x20001000 then
      match w.win with
      | some t => .ok (.win t (off - 0x20000000))
      | none => .error (.cause 4)
    else .error (.cause 4)
  else
    match s.xlatOr w.given w.sid.ctx w.sid.core a with
    | none => .error (.walk (a / 65536))
    | some e =>
      if !e.r && need ≠ .write then .error (.cause 1)
      else if !e.w && need ≠ .read then .error (.cause 2)
      else if x.allows w.dom w.windows a e.dom need then .ok (.glob (e.phys a) e)
      else .error (.cause 3)

/-! ## Format windows (R301) -/

/-- A format window in service: FMT, element base, end, scale base. -/
structure FormatWin where
  fmt : Nat
  base : Nat
  fin : Nat
  sbase : Nat
  deriving DecidableEq, Repr

/-- The fields of a window's words. -/
def fwinOf (w : Word × Word × Word × Word) : FormatWin :=
  { fmt := (w.1.extractLsb' 1 3).toNat, base := (w.1.extractLsb' 12 34).toNat * 4096,
    fin := (w.2.1.extractLsb' 12 34).toNat * 4096, sbase := (w.2.2.1.extractLsb' 0 46).toNat }

/-- The window in service that holds a physical address. -/
def Ctx.fwinAt (x : Ctx) (p : Nat) : Option FormatWin :=
  (x.fwin.toList.find? fun w => w.1.getLsbD 0 && decide ((fwinOf w).base ≤ p) && decide (p < (fwinOf w).fin)).map fwinOf

/-- Block size of a window's format (R57, R109); a sparse window has none. -/
def blockBytes (fmt : Nat) : Nat := if fmt < 2 then 64 else if fmt = 2 then 32 else if fmt = 3 then 24 else if fmt = 4 then 16 else 1

/-- Physical address of the scale pair of a block (R301). -/
def FormatWin.scaleAt (w : FormatWin) (p : Nat) : Nat := w.sbase + 2 * ((p - w.base) / blockBytes w.fmt)

/-- Physical addresses of the scale bytes of every block that has a byte in a line (R302). -/
def FormatWin.scaleBytes (w : FormatWin) (line : Nat) : List Nat :=
  if w.fmt = 2 ∨ w.fmt = 3 ∨ w.fmt = 4 then
    let lo := w.scaleAt (128 * line)
    (List.range (w.scaleAt (128 * line + 127) + 2 - lo)).map fun i => lo + i
  else []

/-! ## The homes (R296-R300) -/

/-- The entry of a physical line in a home slice. -/
def State.sliceAt (s : State) (home line : Nat) : Option SliceLine := (s.clHwAt home).slice.find? fun x => x.line == line

/-- Puts a line's entry in front, as the most recently used. -/
def State.setSlice (s : State) (home : Nat) (x : SliceLine) : State :=
  s.modClHw home fun k => { k with slice := x :: k.slice.filter fun y => y.line ≠ x.line }

/-- Writes the dirty sectors of an entry to the memory, under the entry's key (R296, R300). -/
def State.cleanSlice (s : State) (x : SliceLine) : State :=
  { s with sectorKeys := (List.range 8).foldl (fun m i => if x.dirty.getLsbD i then m.put (8 * x.line + i) x.key else m) s.sectorKeys }

/-- Invalidates an entry of a slice, its dirty sectors written back first (R296, R299). -/
def State.dropSlice (s : State) (home : Nat) (x : SliceLine) : State :=
  (x.under.foldl (fun s b => s.writeKey b.1 b.2) (s.cleanSlice x)).modClHw home fun k =>
    { k with slice := k.slice.filter fun y => y.line ≠ x.line }

/-- Ways in service: under DEC-TED all but 7 and 15 (R299). -/
def waysOf (dected : Bool) : List Nat := (List.range 16).filter fun w => !dected || (w != 7 && w != 15)

/-- A way for a new line of a set: the lowest free one, or that of the least recently used line, which goes (R296). -/
def State.takeWay (s : State) (home set : Nat) : Nat × State :=
  let hw := s.clHwAt home
  let l := hw.slice.filter fun y => y.set == set
  match (waysOf hw.dected).find? fun w => !l.any fun y => y.way == w with
  | some w => (w, s)
  | none => match l.getLast? with
    | some y => (y.way, s.dropSlice home y)
    | none => (0, s)

/-- The key of a physical line for an access that brings none: its entry's in the slice, or that of its sector in the memory. -/
def State.physKey (s : State) (c phys : Nat) : BitVec 9 :=
  let x := s.ctxAt c
  match s.sliceAt (homeOf x.svb x.svl phys) (phys / 128) with
  | some y => y.key
  | none => (s.sectorKeys.look (phys / 16)).getD 0

/-- Fills a sector of an entry from the memory. Where the memory holds it under another key, the bytes are free values (R300); a
sector that nothing has written yet is held under none. -/
def State.fillSector (s : State) (key : BitVec 9) (x : SliceLine) (i : Nat) : SliceLine × State :=
  let base := 128 * x.line + 16 * i
  let x1 := { x with valid := x.valid ||| BitVec.twoPow 8 i }
  if ((s.sectorKeys.look (base / 16)).getD key) = key then (x1, s)
  else
    let old := (List.range 16).map fun j => (base + j, s.mem.read (base + j))
    ({ x1 with under := x1.under ++ old }, old.foldl (fun s b => let (v, s) := s.freeByte; s.writeKey b.1 v) s)

/-- An access of a context at the home of a physical address, under a key: a hit; or a miss, which is counted (R229) and fills the
sectors that `want` marks and the line lacks. -/
def State.homeAccess (s : State) (c : Nat) (key : BitVec 9) (phys : Nat) (want : BitVec 8) : State :=
  let x := s.ctxAt c
  let home := homeOf x.svb x.svl phys
  let line := phys / 128
  let fill (y : SliceLine) (s : State) : State :=
    let (y, s) := (List.range 8).foldl (fun (r : SliceLine × State) i =>
      if want.getLsbD i && !r.1.valid.getLsbD i then r.2.fillSector key r.1 i else r) (y, s)
    s.setSlice home y
  match s.sliceAt home line with
  | some y => if y.valid.getLsbD (sectorOf phys) then s.setSlice home y else fill y (s.count c 0x0007)
  | none =>
    let set := localLine x.svb x.svl phys % 2048
    let (way, s) := (s.count c 0x0007).takeWay home set
    fill { line, set, way, key, valid := 0, dirty := 0 } s

/-- The byte that the home serves under a key (R296, R300). -/
def State.homeRead (s : State) (c : Nat) (key : BitVec 9) (phys : Nat) : Byte × State :=
  let s := s.homeAccess c key phys 0xFF
  (s.mem.read phys, s)

/-- Performs the store of a byte at its home, under a key: `whole` marks a store of its whole sector, for which nothing is filled and
which clears the sector's poison (R296, R298, R300). -/
def State.homeWrite (s : State) (c : Nat) (key : BitVec 9) (phys : Nat) (whole : Bool) (b : Byte) : State :=
  let i := sectorOf phys
  let bit := BitVec.twoPow 8 i
  let s := (s.homeAccess c key phys (if whole then 0 else bit)).writeKey phys b
  let home := homeOf (s.ctxAt c).svb (s.ctxAt c).svl phys
  let s := match s.sliceAt home (phys / 128) with
    | some y => s.setSlice home { y with valid := y.valid ||| bit, dirty := y.dirty ||| bit, under := y.under.filter fun u => u.1 / 16 ≠ phys / 16 }
    | none => s
  if whole then { s with poison := s.poison.filter fun q => q ≠ phys / 16 } else s

/-- Does a store of bytes at these addresses write the whole sector of one of them (R296, R298)? -/
def wholeSector (l : List Nat) (p : Nat) : Bool := decide (16 ≤ l.length) && (List.range 16).all fun i => l.contains (p / 16 * 16 + i)

/-- A local store that writes a whole sector clears its poison (R298); by keys. -/
def State.clearPoison (s : State) (keys : List Nat) : State :=
  if s.poison.isEmpty then s
  else { s with poison := s.poison.filter fun q => !wholeSector keys (16 * q) }

/-! ## The cluster cache (R264, R265) -/

/-- A line of a cluster cache. -/
def State.lineAt (s : State) (cl line : Nat) : Option CLine := (s.clHwAt cl).lines.find? fun l => l.line == line

/-- Replaces a line that a cluster cache holds. -/
def State.setLine (s : State) (cl : Nat) (x : CLine) : State :=
  s.modClHw cl fun k => { k with lines := k.lines.map fun l => if l.line == x.line then x else l }

/-- Drops a line from every L1 of a cluster. -/
def State.dropL1 (s : State) (cl line : Nat) : State :=
  (List.range 8).foldl (fun s i => s.modHw (8 * cl + i) fun k => { k with l1 := k.l1.filter fun l => l ≠ line }) s

/-- Carries the poison of a copy's sector to the home (R298). -/
def State.poisonHome (s : State) (q : Nat) (on : Bool) : State :=
  if on && !s.poison.contains q then { s with poison := q :: s.poison } else s

/-- Writes bytes of a line back to its home: those that a mask names, with the poison of their sectors in the copy (R265, R298). -/
def State.bytesHome (s : State) (c line : Nat) (key : BitVec 9) (mask : BitVec 128) (poison : BitVec 8) (data : Nat → Byte) : State :=
  (List.range 8).foldl (fun s q =>
    let m := mask.extractLsb' (16 * q) 16
    if m = 0 then s
    else
      let s := (List.range 16).foldl (fun s i =>
        if m.getLsbD i then s.homeWrite c key (128 * line + 16 * q + i) (m == BitVec.allOnes 16) (data (16 * q + i)) else s) s
      s.poisonHome (8 * line + q) (poison.getLsbD q)) s

/-- Writes the dirty bytes of a cluster's line back to their home (R265). -/
def State.writeBack (s : State) (cl line : Nat) : State :=
  match s.lineAt cl line with
  | none => s
  | some x =>
    if x.dirty = 0 then s
    else (s.bytesHome x.ctx line x.key x.dirty x.poison fun i => (x.data[i]?).getD 0).setLine cl { x with dirty := 0 }

/-- Writes every dirty byte of a cluster cache back. -/
def State.writeBackAll (s : State) (cl : Nat) : State :=
  ((s.clHwAt cl).lines.map (·.line)).foldl (fun s l => s.writeBack cl l) s

/-- Evicts a line: written back, invalidated in every L1, dropped (R264, R265). -/
def State.evict (s : State) (cl line : Nat) : State :=
  ((s.writeBack cl line).modClHw cl fun k => { k with lines := k.lines.filter fun l => l.line ≠ line }).dropL1 cl line

/-- Lines that a cluster cache, an L1, a cluster instruction cache and a level-zero instruction cache hold (R12). -/
def ccLines : Nat := 8192
def l1Lines : Nat := 256
def icLines : Nat := 2048
def l0Lines : Nat := 128

/-- Puts a filled line into a cluster cache, in the place of an older copy of it; a full cache evicts the line that has been in it
longest (DESIGN CHOICE, notes/assumptions/67.md). -/
def State.addLine (s : State) (cl : Nat) (x : CLine) : State :=
  if (s.lineAt cl x.line).isSome then s.setLine cl x
  else
    let s := match (s.clHwAt cl).lines with
      | y :: t => if ccLines ≤ t.length + 1 then s.evict cl y.line else s
      | [] => s
    s.modClHw cl fun k => { k with lines := k.lines ++ [x] }

/-- Reads a line at its home, the sectors in order. -/
def State.readLine (s : State) (c : Nat) (key : BitVec 9) (line : Nat) : List Byte × State :=
  let s := (List.range 8).foldl (fun s q => s.homeAccess c key (128 * line + 16 * q) 0xFF) s
  (s.readKeys (128 * line) 128, s)

/-- Poisoned sectors of a physical line at its home. -/
def State.linePoison (s : State) (line : Nat) : BitVec 8 :=
  if s.poison.isEmpty then 0
  else (List.range 8).foldl (fun m q => if s.poison.contains (8 * line + q) then m ||| BitVec.twoPow 8 q else m) 0

/-- Notes a line in a core's L1, as its most recently used; a miss is counted (R229). The least recently used line goes where it is
full (DESIGN CHOICE, notes/assumptions/67.md). -/
def State.l1Touch (s : State) (c core line : Nat) : State :=
  if (s.hwAt core).l1.contains line then s.modHw core fun k => { k with l1 := line :: k.l1.filter fun l => l ≠ line }
  else (s.count c 0x0006).modHw core fun k => { k with l1 := (line :: k.l1).take l1Lines }

/-! ## The instruction caches (R7, R36, R150) -/

/-- A line of an instruction cache, and the cache with it in front. -/
def icTouch (l : List ILine) (line : Nat) : Option ILine := l.find? fun x => x.line == line

/-- Puts a line in front of an instruction cache of n lines. -/
def icPut (n : Nat) (x : ILine) (l : List ILine) : List ILine := (x :: l.filter fun y => y.line ≠ x.line).take n

/-- The bytes of a code line as a core fetches them: from its level-zero cache, its cluster's instruction cache or the home; what is
missing in the first two is filled (R36; replacement: DESIGN CHOICE, notes/assumptions/67.md). -/
def State.codeLine (s : State) (c core : Nat) (key : BitVec 9) (line : Nat) : List Byte × State :=
  let cl := nodeOf core
  let level0 (x : ILine) (s : State) : List Byte × State := (x.data, s.modHw core fun k => { k with icache := icPut l0Lines x k.icache })
  match icTouch (s.hwAt core).icache line with
  | some x => level0 x s
  | none =>
    let (x, s) : ILine × State := match icTouch (s.clHwAt cl).icache line with
      | some x => (x, s)
      | none => let (bs, s) := s.readLine c key line; ({ line, data := bs }, s)
    level0 x (s.modClHw cl fun k => { k with icache := icPut icLines x k.icache })

/-- Drops lines from the level-zero instruction cache of a core and the instruction cache of its cluster (R150). -/
def State.dropCode (s : State) (core : Nat) (gone : Nat → Bool) : State :=
  (s.modHw core fun k => { k with icache := k.icache.filter fun x => !gone x.line }).modClHw (nodeOf core) fun k =>
    { k with icache := k.icache.filter fun x => !gone x.line }

/-! ## The stash (R266, R267) -/

/-- The stash of a cluster that serves a global address. -/
def State.stashOf (s : State) (c cl va : Nat) : Option Stash :=
  match (s.clAt c cl).stash with
  | some x => if x.base ≤ va ∧ va < x.base + x.size then some x else none
  | none => none

/-- Changes the lines of a cluster's stash. -/
def State.modStash (s : State) (c cl : Nat) (f : StashLine → StashLine) : State :=
  s.modCl c cl fun k => { k with stash := k.stash.map fun y => { y with lines := y.lines.map f } }

/-- Reads a byte from the stash. -/
def State.stashRead (s : State) (c cl : Nat) (x : Stash) (va : Nat) : Byte := s.mem.read (tileKey c cl (x.tile + (va - x.base)))

/-- Is a byte of the stash poisoned? -/
def State.stashBad (s : State) (c cl : Nat) (x : Stash) (va : Nat) : Bool := s.poison.contains (tileKey c cl (x.tile + (va - x.base)) / 16)

/-- Writes a byte into the stash. -/
def State.stashWrite (s : State) (c cl : Nat) (x : Stash) (va : Nat) (whole : Bool) (b : Byte) : State :=
  let o := va - x.base
  let s := s.writeTile c cl (x.tile + o) b
  let s := if whole then { s with poison := s.poison.filter fun q => q ≠ tileKey c cl (x.tile + o) / 16 } else s
  s.modStash c cl fun l => if l.wl == o / 128 then { l with dirty := l.dirty ||| BitVec.twoPow 128 (o % 128) } else l

/-- Writes the dirty bytes of lines of a stash back; they stay in it, and so do the stash bits (R265, R266). -/
def State.stashClean (s : State) (c cl : Nat) (which : Nat → Bool) : State :=
  match (s.clAt c cl).stash with
  | none => s
  | some x =>
    let s := x.lines.foldl (fun s l =>
      if l.dirty = 0 || !which l.line then s
      else
        let at_ := tileKey c cl (x.tile + 128 * l.wl)
        let bad := (List.range 8).foldl (fun (m : BitVec 8) q => if s.poison.contains (at_ / 16 + q) then m ||| BitVec.twoPow 8 q else m) 0
        s.bytesHome c l.line l.key l.dirty bad fun i => s.mem.read (at_ + i)) s
    s.modStash c cl fun l => if which l.line then { l with dirty := 0 } else l

/-- Writes every dirty byte of a stash back and clears its stash bits (R266). -/
def State.stashFlush (s : State) (c cl : Nat) : State :=
  match (s.clAt c cl).stash with
  | none => s
  | some x =>
    let s := x.lines.foldl (fun s l =>
      s.modClHw (homeOf (s.ctxAt c).svb (s.ctxAt c).svl (128 * l.line)) fun k =>
        { k with stashBits := k.stashBits.filter fun b => b.1 ≠ l.line }) (s.stashClean c cl fun _ => true)
    s.modCl c cl fun k => { k with stash := k.stash.map fun y => { y with lines := [] } }

/-- The cluster whose stash is the point of order of a line, with the window address that holds it (R267). -/
def State.stashHolder (s : State) (c line : Nat) : Option (Nat × Stash × Nat) :=
  let home := homeOf (s.ctxAt c).svb (s.ctxAt c).svl (128 * line)
  match (s.clHwAt home).stashBits.find? fun b => b.1 == line with
  | none => none
  | some (_, cl) =>
    match (s.clAt c cl).stash with
    | none => none
    | some x => (x.lines.find? fun l => l.line == line).map fun l => (cl, x, x.base + 128 * l.wl)

/-- Does a pending-read range of a tile command of a cluster that a test admits hold a write to its tile store (R254)? -/
def State.rangeWith (s : State) (c cl : Nat) (ok : TileCmd → Bool) (lo hi : Nat) : Bool :=
  (List.range 8).any fun i => (s.coreAt c (8 * cl + i)).tile.any fun t =>
    ok t && t.ranges.any fun r => decide (r.1 ≤ hi) && decide (lo ≤ r.2)

/-- Does a range of a tile command that entered its queue before the writer issued hold a write to the tile store (R254)? -/
def State.rangeHolds (s : State) (c cl before lo hi : Nat) : Bool := s.rangeWith c cl (fun t => decide (t.seq < before)) lo hi

/-- Does such a range hold a store to a global address, whose byte lies in the stash (R254, R266)? -/
def State.stashHeld (s : State) (c cl before va : Nat) : Bool :=
  match s.stashOf c cl va with
  | some x => s.rangeHolds c cl before (x.tile + (va - x.base)) (x.tile + (va - x.base))
  | none => false

/-- Does a range hold a strong write that the home forwards to the stash of another cluster (R254, R267)? A command that entered its
queue in the cycle in which the writer issued is not before it (DESIGN CHOICE, notes/assumptions/81.md). -/
def State.awayHeld (s : State) (c cl since va phys : Nat) : Bool :=
  (s.stashOf c cl va).isNone && match s.stashHolder c (phys / 128) with
    | some (k, x, w) =>
      let o := x.tile + (w + phys % 128 - x.base)
      s.rangeWith c k (fun t => decide (t.enter < since)) o o
    | none => false

/-! ## Scale pairs that a VSTF writes (R109, R302) -/

/-- Virtual address that stands for a byte reached by its physical address alone. -/
def noVa (p : Nat) : Nat := 2 ^ 60 + p

/-- Tile offset of a byte that the stash of a cluster holds, by its physical address. -/
def State.pairTile (s : State) (c cl phys : Nat) : Option Nat :=
  (s.clAt c cl).stash.bind fun x => (x.lines.find? fun l => l.line == phys / 128).map fun l => x.tile + 128 * l.wl + phys % 128

/-- Is a byte of a scale pair held, by a range over the stash that holds a copy of it (R254)? -/
def State.pairHeld (s : State) (c cl before phys : Nat) : Bool :=
  match s.pairTile c cl phys with
  | some o => s.rangeHolds c cl before o o
  | none => false

/-- A byte of a scale pair goes into the copy that the stash of the cluster holds as well, which then is as its home (R266, R303). -/
def State.pairStash (s : State) (c cl phys : Nat) (b : Byte) : State :=
  match s.pairTile c cl phys with
  | some o => (s.writeTile c cl o b).modStash c cl fun l =>
      if l.line == phys / 128 then { l with dirty := l.dirty &&& ~~~BitVec.twoPow 128 (phys % 128) } else l
  | none => s

/-! ## One global byte -/

/-- A strong read, with a mark where the byte is poisoned: at the home, or in the stash that holds the line (R140, R267, R298). -/
def State.strongRead (s : State) (c : Nat) (key : BitVec 9) (phys : Nat) : Byte × Bool × State :=
  match s.stashHolder c (phys / 128) with
  | some (cl, x, va) => (s.stashRead c cl x (va + phys % 128), s.stashBad c cl x (va + phys % 128), s)
  | none => let (b, s) := s.homeRead c key phys; (b, s.poison.contains (phys / 16), s)

/-- The scale pairs that the fill of a line carries, read at their homes after the filling cluster has written its own stores to them
back (R302, R303). -/
def State.readScales (s : State) (c cl line : Nat) : Option Scales × State :=
  match (s.ctxAt c).fwinAt (128 * line) with
  | none => (none, s)
  | some w =>
    let (l, s) := (w.scaleBytes line).foldl (fun (r : List (Nat × Byte × Bool) × State) p =>
      let s := (r.2.writeBack cl (p / 128)).stashClean c cl fun l => l == p / 128
      let (b, s) := s.homeRead c (s.physKey c p) p
      (r.1 ++ [(p, b, s.poison.contains (p / 16))], s)) ([], s)
    (some { fmt := w.fmt, bytes := l }, s)

/-- Fills a line from its home into the cluster cache, with its scale pairs (R140, R302); the L1s lose their older copies. -/
def State.fillLine (s : State) (c cl : Nat) (key : BitVec 9) (line : Nat) : State :=
  let (bs, s) := (s.writeBack cl line).readLine c key line
  let (sc, s) := s.readScales c cl line
  (s.addLine cl { ctx := c, line, data := Vector.ofFn fun i => bs.getD i.val 0, dirty := 0, fill := s.cycle, key
                  poison := s.linePoison line, scales := sc }).dropL1 cl line

/-- Fills the stash line of an address on its first access, with its scale pairs and its poison; the home sets the stash bit. -/
def State.stashFill (s : State) (c cl : Nat) (key : BitVec 9) (va phys : Nat) : State :=
  match s.stashOf c cl va with
  | none => s
  | some x =>
    let wl := (va - x.base) / 128
    if x.lines.any fun l => l.wl == wl then s
    else
      let line := phys / 128
      let (bs, s) := s.readLine c key line
      let (sc, s) := s.readScales c cl line
      let at_ := tileKey c cl (x.tile + 128 * wl)
      let bad := s.linePoison line
      let s := (bs.zipIdx).foldl (fun s b => s.writeTile c cl (x.tile + 128 * wl + b.2) b.1) s
      let s := { s with poison := (s.poison.filter fun q => q / 8 ≠ at_ / 128) ++
        ((List.range 8).filter fun q => bad.getLsbD q).map fun q => at_ / 16 + q }
      let s := s.modCl c cl fun k => { k with stash := k.stash.map fun y =>
        { y with lines := y.lines ++ [{ wl, line, dirty := 0, key, scales := sc }] } }
      let home := homeOf (s.ctxAt c).svb (s.ctxAt c).svl phys
      s.modClHw home fun k => { k with stashBits := (line, cl) :: k.stashBits.filter fun b => b.1 ≠ line }

/-- Is a cluster's copy of a line one that a weak load with a staleness point may take (R140)? -/
def State.freshAt (s : State) (cl line stale : Nat) : Bool :=
  match s.lineAt cl line with
  | some x => decide (stale < x.fill)
  | none => false

/-- A global read by a core or an engine of a cluster, with a mark where the byte is poisoned: from the stash, strong at the home, or
weak from the cluster's copy where it was filled after the staleness point, and from the home otherwise (R140, R264, R298; DESIGN
CHOICE, notes/assumptions/3.md). -/
def State.globalRead (s : State) (c core : Nat) (key : BitVec 9) (va phys : Nat) (strong : Bool) (stale : Nat) :
    Byte × Bool × State :=
  let cl := nodeOf core
  match s.stashOf c cl va with
  | some x => let s := s.stashFill c cl key va phys; (s.stashRead c cl x va, s.stashBad c cl x va, s)
  | none =>
    if strong then (s.writeBack cl (phys / 128)).strongRead c key phys
    else
      let line := phys / 128
      let s := (if s.freshAt cl line stale then s else s.fillLine c cl key line).l1Touch c core line
      match s.lineAt cl line with
      | some x => ((x.data[phys % 128]?).getD 0, x.poison.getLsbD (sectorOf phys), s)
      | none => (0, false, s)

/-- A store of a cluster updates the scale pairs that the cluster's lines carry; one that writes a whole sector clears the poison of
each of that sector's bytes that they hold (R264, R298, R302). -/
def State.storeScales (s : State) (c cl phys : Nat) (whole : Bool) (b : Byte) : State :=
  let upd (x : Scales) : Scales := { x with bytes := x.bytes.map fun y =>
    (y.1, if y.1 = phys then b else y.2.1, y.2.2 && !(whole && y.1 / 16 == phys / 16)) }
  if (s.ctxAt c).fwin.toList.all fun w => !w.1.getLsbD 0 then s
  else
    (s.modClHw cl fun k => { k with lines := k.lines.map fun l => { l with scales := l.scales.map upd } }).modStash c cl
      fun l => { l with scales := l.scales.map upd }

/-- Performs one byte of a store by its physical address: weak in the cluster's copy, or at the home with that copy updated, or in
the stash that holds the line (R140, R264, R265, R267). -/
def State.physStore (s : State) (c core : Nat) (key : BitVec 9) (phys : Nat) (strong whole : Bool) (b : Byte) : State :=
  let cl := nodeOf core
  let line := phys / 128
  let s := s.storeScales c cl phys whole b
  let copy := s.lineAt cl line
  let s := match copy with
    | none => s
    | some x =>
      let bit := BitVec.twoPow 128 (phys % 128)
      let x := { x with data := x.data.set! (phys % 128) b, dirty := if strong then x.dirty &&& ~~~bit else x.dirty ||| bit
                        poison := if whole then x.poison &&& ~~~BitVec.twoPow 8 (sectorOf phys) else x.poison }
      let mine := (s.hwAt core).l1
      ((s.setLine cl x).dropL1 cl line).modHw core fun k => { k with l1 := mine }
  if copy.isSome && !strong then s
  else
    match s.stashHolder c line with
    | some (cl', x, w) => if strong then s.stashWrite c cl' x (w + phys % 128) whole b else s.homeWrite c key phys whole b
    | none => s.homeWrite c key phys whole b

/-- Performs one byte of a global store: in the stash of its cluster, or by its physical address (R140, R265, R267); a byte of a scale
pair has no other address. -/
def State.globalWrite (s : State) (c core : Nat) (key : BitVec 9) (va phys : Nat) (strong whole : Bool) (b : Byte) : State :=
  let cl := nodeOf core
  match s.stashOf c cl va with
  | some x => ((s.stashFill c cl key va phys).stashWrite c cl x va whole b).storeScales c cl phys whole b
  | none => (if 2 ^ 60 ≤ va then s.pairStash c cl phys b else s).physStore c core key phys strong whole b

/-! ## Loads -/

/-- The byte of the activation's youngest store to an address that is not performed yet, if it has one (R141):
`held` where the byte is not known or waits for a pending-read range (R254). -/
inductive Pending where
  | none | held | byte (b : Byte)
  deriving DecidableEq, Repr

/-- The last byte stored at an address by a list of bytes. -/
def lastByte (l : List (Nat × Byte)) (a : Nat) : Option Byte := (l.reverse.find? fun x => x.1 == a).map (·.2)

/-- Youngest local store under check. -/
def pendingLocal (a : Act) (va : Nat) : Pending :=
  match a.checks.reverse.find? fun p => (lastByte p.bytes va).isSome with
  | none => .none
  | some p => if p.held then .held else match lastByte p.bytes va with | some b => .byte b | none => .none

/-- Youngest byte at a physical address of a store under check, whose bytes have virtual addresses only: one at another virtual
address counts by its translation, and is not known while it has none. -/
def State.pendingAlias (s : State) (c core va phys : Nat) (l : List (Nat × Byte)) : Option Pending :=
  l.reverse.findSome? fun x =>
    if x.1 = va then some (.byte x.2)
    else if x.1 % 65536 ≠ va % 65536 then none
    else match s.xlat c core x.1 with
    | some e => if e.phys x.1 = phys then some (.byte x.2) else none
    | none => some .held

/-- Youngest global store of the present activation to a byte, in its outbound buffer. -/
def State.pendingGlobal (s : State) (va phys : Nat) : Pending :=
  let hit (e : OutEntry) : Option Pending :=
    match e with
    | .store _ l ph _ _ _ =>
      (match ph with
        | some q => (lastByte q phys).map .byte
        | none => s.pendingAlias s.cctx s.ccore va phys l)
    | _ => none
  if s.act.checks.any (fun p => match p.kind with | .block .. => true | _ => false) then .held
  else (s.act.outb.reverse.findSome? hit).getD .none

/-- The register that the GSUB or CBWAIT of the other stream than x, issued before, has still to write (R42): a general one, or a queue
register. -/
def Act.owed (a : Act) (x : Stream) : Option GQ :=
  match (a.str (match x with | .main => .access | .access => .main)).wait with
  | .gsub y | .cbwait y _ _ => if y = .g 0 then none else some y
  | _ => none

/-- Is a byte of the own workspace one of a register that the other stream has still to write (R16, R42)? -/
def State.owes (s : State) (w : Nat) : Bool :=
  match s.act.owed s.cur.stream with
  | some (.g i) => w / 8 == i.toNat
  | _ => false

/-- Value of a byte at its place, for the present activation. -/
def loadPlace (a : Nat) (strong : Bool) : Place → M Byte
  | .reg w => fun s => if s.owes w then .error (.hold 14) else .ok (if 4080 ≤ w then 0 else s.act.wsRead w, s)
  | .win t w => fun s =>
    match s.actAt t with
    | none => .error (.park { code := 0x0008, reason := 4, info := BitVec.ofNat 64 a })
    | some x => .ok (if w < 3456 then x.wsRead w else s.mem.read (clmKey t.ctx t.core (4096 * t.slot + w)), s)
  | .clm off => fun s =>
    match pendingLocal s.act a with
    | .byte b => .ok (b, s)
    | .held => .error (.hold 14)
    | .none =>
      if s.poison.contains (clmKey s.cctx s.ccore off / 16) then .error (.poison [])
      else .ok (s.mem.read (clmKey s.cctx s.ccore off), s)
  | .tile off => fun s =>
    match pendingLocal s.act a with
    | .byte b => .ok (b, s)
    | .held => .error (.hold 14)
    | .none =>
      if s.poison.contains (tileKey s.cctx s.ccl off / 16) then .error (.poison [])
      else .ok (s.mem.read (tileKey s.cctx s.ccl off), s)
  | .glob phys e => fun s =>
    match s.pendingGlobal a phys with
    | .byte b => .ok (b, s.touchTlb s.cctx s.ccore a)
    | .held => .error (.hold 14)
    | .none =>
      let (b, bad, t) := (s.touchTlb s.cctx s.ccore a).globalRead s.cctx s.ccore e.key a phys strong s.act.stale
      if bad then .error (.poison [a]) else .ok (b, t)

/-- The pages of addresses have been translated before what follows, also where that faults (R241). -/
def pagesOn {α : Type} (l : List Nat) (body : M α) : M α := fun s =>
  match body s with
  | .error (.park n) => .error (.park { n with pages := l ++ n.pages })
  | .error (.poison q) => .error (.poison (l ++ q))
  | r => r

/-- The place of one byte; a failure stops the instruction (R153). -/
def placeM (a : Nat) (need : Need) (acc : AccKind) : M Place := fun s =>
  match s.place s.who a need with
  | .ok p => .ok (p, s)
  | .error (.cause q) => .error (.park { code := 0x0008, reason := q, info := BitVec.ofNat 64 a, pages := [a] })
  | .error (.walk g) =>
    if (s.act.str s.cur.stream).refused = some g then .error (.park { code := 0x0008, reason := 8, info := BitVec.ofNat 64 a })
    else .error (.walk g acc)

/-- The places of the bytes of an access in increasing order; the first failure stops it (R137, R153). -/
def placesM (addr : Word) (n : Nat) (need : Need) (acc : AccKind := .load) : M (List (Nat × Place)) :=
  (List.range n).mapM fun i => do
    let a := (addr + BitVec.ofNat 64 i).toNat
    pure (a, ← pagesOn [addr.toNat] (placeM a need acc))

/-- Bytes at checked places, one after another. -/
def loadEach (strong : Bool) : List (Nat × Place) → M (List Byte)
  | [] => pure []
  | (a, p) :: t => do
    let b ← loadPlace a strong p
    let bs ← loadEach strong t
    pure (b :: bs)

/-- Bytes at checked places, all of which have been translated. -/
def loadPlaces (strong : Bool) (l : List (Nat × Place)) : M (List Byte) := pagesOn (l.map (·.1)) (loadEach strong l)

/-- Does an access touch global memory? -/
def anyGlobal (l : List (Nat × Place)) : Bool := l.any fun x => match x.2 with | .glob .. => true | _ => false

/-- Under lockstitch the primary alone finds a value and passes it on; its secondary takes it, in the issue order of the same stream
(R350). No bytes stand for a park of the primary. -/
def seamPass (body : M (List Byte)) : M (List Byte) := do
  match ← asks State.seam? with
  | none => body
  | some (i, false) =>
    let bs ← body
    change fun s => { s with seams := s.seams.modify i fun x => { x with values := x.values ++ [(s.cur.stream, bs)] } }
    pure bs
  | some (i, true) =>
    match ← asks fun s => (s.seams[i]?).bind fun x => x.values.find? fun v => v.1 == s.cur.stream with
    | none => stop (.hold 14)
    | some (_, []) => parkM { code := 0x0008 }
    | some (st, bs) =>
      change fun s => { s with seams := s.seams.modify i fun x => { x with values := x.values.eraseP fun v => v.1 == st } }
      pure bs

/-- A global load under lockstitch (R350). -/
def seamLoad (l : List (Nat × Place)) (body : M (List Byte)) : M (List Byte) := if anyGlobal l then seamPass body else body

/-- Loads `n` bytes (R140, R141, R153). -/
def loadM (addr : Word) (n : Nat) (strong : Bool) : M (List Byte) := do
  let l ← placesM addr n .read
  seamLoad l (loadPlaces strong l)

/-! ## Stores enter checking (R138) -/

/-- Bytes an entry takes in the outbound buffer (R175). -/
def OutEntry.size : OutEntry → Nat
  | .store _ _ _ _ _ n => n
  | .fence .. | .flush .. => 16
  | .msg m _ => 64 * msgFlits m

/-- Bytes used in an outbound buffer. -/
def Act.outUsed (a : Act) : Nat := (a.outb.map OutEntry.size).sum

/-- Size of a store's entry: 32 bytes for one of up to 8 bytes by a scalar store, otherwise 16 and the data rounded up
to 16 (R175). -/
def storeSize (scalar : Bool) (n : Nat) : Nat := if scalar then 32 else 16 + (n + 15) / 16 * 16

/-- Cycles of a store's check: 12 with its page in the core TLB or local, 40 with its page in the cluster TLB (R139); of a store that
touches several pages, that of its first byte counts (DESIGN CHOICE, notes/assumptions/77.md). -/
def State.checkDelay (s : State) (a : Nat) : Nat :=
  if a ≥ 2 ^ 55 then 12
  else if (lookTlb (s.hwAt s.ccore).tlb s.cctx a).isSome then 12 else 40

/-- Puts an entry at the end of the present activation's outbound buffer. -/
def State.pushOut (s : State) (e : OutEntry) : State := s.modAct fun a => { a with outb := a.outb ++ [e], placed := a.placed + 1 }

/-! ## Performing released entries -/

/-- Performs the bytes of a store: virtual and physical address of each; `all` are the physical addresses of the whole store. -/
def State.performStore (s : State) (c core : Nat) (strong : Bool) (all : List Nat) : List (Nat × Byte) → List (Nat × Byte) → State
  | (va, b) :: l, (ph, _) :: q =>
    let key := match s.xlat c core va with | some e => e.key | none => s.physKey c ph
    State.performStore (s.globalWrite c core key va ph strong (wholeSector all ph) b) c core strong all l q
  | _, _ => s

/-- Is a scope .die or wider? -/
def scopeWide : Scope → Bool
  | .die | .pkg | .fab => true
  | _ => false

/-- Scope of a message sent with .rel: the scope that contains its destination (R178). -/
def relScope (core : Nat) (dst : BitVec 32) : Scope :=
  let d := aadCore dst
  if d = core then .core
  else if nodeOf d = nodeOf core then .clu
  else if nodeOf d < 512 ∧ nodeOf core < 512 ∧ nodeOf d / 256 = nodeOf core / 256 then .die
  else .pkg

/-- Queues a message at the NI: behind a delayed message to the same destination it waits (R173, R180). -/
def State.sendOut (s : State) (c core : Nat) (m : Msg) (delay : Nat) : State :=
  if delay = 0 then s.inject c core m else s.holdBack c core m (s.cycle + delay)

/-- The earlier weak stores of a release at .die or wider reach their homes: the dirty bytes of the cluster cache and of the stash
are written back (R265, R266). -/
def State.releaseWide (s : State) (c core : Nat) (sc : Scope) : State :=
  if scopeWide sc then (s.writeBackAll (nodeOf core)).stashClean c (nodeOf core) fun _ => true else s

/-- Performs one released entry (R138, R143, R148, R149, R178). -/
def State.performEntry (s : State) (c core : Nat) : OutEntry → State
  | .store _ va ph strong rel _ =>
    let s := match rel with | some sc => s.releaseWide c core sc | none => s
    match ph with
    | none => s
    | some q => s.performStore c core strong (q.map (·.1)) va q
  | .fence _ sc => s.releaseWide c core sc
  | .flush _ sc lines =>
    if !scopeWide sc then s
    else match lines with
    | none => s
    | some .every => s.releaseWide c core sc
    | some (.lines l) => (l.foldl (fun s x => s.writeBack (nodeOf core) x) s).stashClean c (nodeOf core) fun x => l.contains x
  | .msg m d => (if m.rel then s.releaseWide c core (relScope core m.dst) else s).sendOut c core m d

/-- Has an entry passed its check? -/
def OutEntry.checked : OutEntry → Bool
  | .store _ _ ph _ _ _ => ph.isSome
  | .flush _ _ l => l.isSome
  | _ => true

/-- Releases entries: they leave in buffer order, and a non-empty release takes the next number on tlc3 (R175, R278). -/
def State.release (s : State) (c core : Nat) (es : List OutEntry) : State :=
  if es.isEmpty then s
  else
    let msgs := es.filterMap fun e => match e with | .msg m _ => some m | _ => none
    let n := ((s.coreAt c core).tlc[3]).assigned + 1
    let number (k : CoreCtx) : CoreCtx := { k with tlc := k.tlc.set 3 { k.tlc[3] with assigned := n } }
    let s := s.modCore c core number
    let s := match s.mate c core with | some k => s.modCore c k number | none => s
    let seq0 (i : Nat) (m : Msg) : BitVec 32 × BitVec 16 :=
      (m.dst, ((s.coreAt c core).seqs.look m.dst).getD 0 +
        BitVec.ofNat 16 (((s.coreAt c core).inject.filter fun x => x.1.dst == m.dst).length +
          ((msgs.take i).filter fun x => x.dst == m.dst).length))
    let open_ : OpenRelease := { n, msgs := msgs.zipIdx.map fun x => seq0 x.2 x.1 }
    let s := s.modCore c core fun k => { k with releases := k.releases ++ [open_] }
    let s := es.foldl (fun s e => s.performEntry c core e) s
    if msgs.isEmpty then s.now (.releaseDone c core) else s

/-- Does an entry order the stores before it: a STREL, a FENCE, a message sent with .rel (R143, R148, R178)? -/
def OutEntry.orders : OutEntry → Bool
  | .store _ _ _ _ rel _ => rel.isSome
  | .fence .. => true
  | .flush .. => false
  | .msg m _ => m.rel

/-- Has a store bytes in local memory? -/
def PStore.hasLocal (p : PStore) : Bool := p.bytes.any fun b => decide (2 ^ 55 ≤ b.1)

/-- Has the activation no local store that is not performed yet? -/
def Act.localDone (a : Act) : Bool := a.checks.all fun p => !p.hasLocal

/-- Has a stream no local store that is not performed yet? -/
def Act.localDoneOf (a : Act) (t : Stream) : Bool := a.checks.all fun p => p.stream != t || !p.hasLocal

/-- Is an entry of an activation's buffer held: a byte of it lies in a stash, its own cluster's or, of a strong store, another one's, in
a range of a tile command that was issued before it (R254, R266, R267)? -/
def State.entryHeld (s : State) (t : SlotId) (a : Act) : OutEntry → Bool
  | .store id va phys strong .. =>
    let cl := nodeOf t.core
    let (before, since) := match a.stamps.find? fun x => x.1 == id with | some x => x.2 | none => (0, 0)
    (va.any fun b => s.stashHeld t.ctx cl before b.1) || (va.zip (phys.getD [])).any fun y =>
      if 2 ^ 60 ≤ y.1.1 then s.pairHeld t.ctx cl before y.2.1 else strong && s.awayHeld t.ctx cl since y.1.1 y.2.1
  | _ => false

/-- What a release leaves of an activation beside its first n entries: its tack log goes, and ECOM is set (R176). -/
def Act.commitFirst (a : Act) (n : Nat) : Act :=
  let rest := a.outb.drop n
  { a with outb := rest, tack := [], ecom := true
           stamps := a.stamps.filter fun x => rest.any fun e => match e with | .store id .. => id == x.1 | _ => false }

/-- Early commit of the present activation (R176): releases the entries, discards the tack log, sets ECOM. The entries
still under check stay (DEDUCED, notes/assumptions/10.md), and an entry that orders earlier stores stays while a local one of these
is under check (R143). The secondary of a pair drops its entries (R351). -/
def State.earlyCommit (s : State) : State :=
  let a := s.act
  let wait := !a.localDone
  let out := a.outb.takeWhile fun e => e.checked && !(wait && e.orders) && !s.entryHeld s.cur.sid a e
  let s := s.setAct (a.commitFirst out.length)
  if s.isCopy then s else (s.release s.cctx s.ccore out).count s.cctx 0x0005

/-- Does a release of the present activation's whole buffer have to wait: for a check (DEDUCED, notes/assumptions/10.md), or for a
pending-read range (R254)? -/
def State.commitWaits (s : State) : Bool := !s.act.checks.isEmpty || s.act.outb.any fun e => s.entryHeld s.cur.sid s.act e

/-- R147, GSUB and GSIG: commits early unless the buffer is empty. -/
def commitM : M Unit := do
  let a ← asks State.act
  if a.outb.isEmpty then pure ()
  else if ← asks State.commitWaits then stop (.hold 14)
  else if (← asks State.seam?).isSome then stop .seam
  else change State.earlyCommit

/-- Puts an entry into the outbound buffer, committing early when it does not fit (R176). -/
def pushOutM (e : OutEntry) : M Unit := do
  let a ← asks State.act
  if a.outUsed + e.size > 4096 then
    if ← asks State.commitWaits then stop (.hold 14)
    else if (← asks State.seam?).isSome then stop .seam
    else change State.earlyCommit
  change fun s => s.pushOut e

/-- Notes when a global store issues: behind which tile commands of the cluster, and in which cycle (R254, R266, R267). -/
def State.stamp (s : State) (id : Nat) : State :=
  s.modAct fun a => { a with stamps := a.stamps ++ [(id, (s.clAt s.cctx s.ccl).issued, s.cycle)] }

/-- A store of the present instruction enters checking; its global bytes take an entry in the outbound buffer (R138), that of a
VSTF with the bytes of its block (R175). -/
def enterStore (kind : StoreKind) (addr : Word) (bytes : List (Nat × Byte)) (scalar : Bool) (block : Nat := 64)
    (found : Option Checked := none) : M Unit := do
  let id ← asks fun s => s.act.nextStore
  let global := bytes.filter fun x => decide (x.1 < 2 ^ 55)
  match kind with
  | .plain strong rel =>
    if !global.isEmpty then pushOutM (.store id global none strong rel (storeSize scalar global.length))
  | .block .. => if addr.toNat < 2 ^ 55 then pushOutM (.store id [] none false none (storeSize false block))
  | .flush sc _ => if addr.toNat < 2 ^ 55 then pushOutM (.flush id sc none)
  change fun s =>
    let p : PStore := { id, stream := s.cur.stream, pc := s.pc, dom := s.cur.dom, word := s.cur.word,
                        windows := s.act.openWindows s.cur.dom, kind, addr, bytes, found,
                        issued := (s.clAt s.cctx s.ccl).issued, mark := s.act.placed }
    let first := match bytes with | [] => addr.toNat | b :: _ => b.1
    let s := if global.isEmpty && !(match kind with | .block .. => true | _ => false) then s else s.stamp id
    (s.modAct fun a => { a with checks := a.checks ++ [p], nextStore := a.nextStore + 1 }).after
      (s.checkDelay first) (.storeCheck s.cur.sid id)

/-- Checks bytes in order (R138): page permissions, the rights table, R136. -/
def State.checkBytes (s : State) (w : Who) (refused : Option Nat) : List (Nat × Byte) → Checked
  | [] => .pass []
  | (a, b) :: t =>
    match s.place w a .write with
    | .error (.cause q) => .fail a 0 q
    | .error (.walk g) => if refused = some g then .fail a 0 8 else .walk g
    | .ok p =>
      match State.checkBytes s w refused t with
      | .pass l => .pass (match p with | .glob ph _ => (ph, b) :: l | _ => l)
      | r => r

/-- Stores through the WINMAP window are performed at once, in the target's CLM (R158). -/
def State.winStore (s : State) (t : SlotId) (w : Nat) (b : Byte) : State :=
  let s := s.dirtyClm t.ctx t.core (4096 * t.slot + w)
  if w < 3456 then s.modActAt t fun a => a.winWrite w b
  else if w < 4080 then s.writeKey (clmKey t.ctx t.core (4096 * t.slot + w)) b
  else s

/-- The address and value of every byte of a store. -/
def storeBytes (addr : Word) (bs : List Byte) : List (Nat × Byte) :=
  bs.zipIdx.map fun x => ((addr + BitVec.ofNat 64 x.2).toNat, x.1)

/-- The place of a stored byte in the own registers or behind the WINMAP window, where stores bypass checking (R16,
R158). -/
def State.directPlace (s : State) (a : Nat) : Option Place :=
  match s.place s.who a .write with
  | .ok (.reg w) => some (.reg w)
  | .ok (.win t w) => some (.win t w)
  | _ => none

/-- Performs the bytes of a store that bypass checking. -/
def State.storeDirect (s : State) : List (Nat × Byte) → State
  | [] => s
  | (a, b) :: t =>
    State.storeDirect (match s.directPlace a with
      | some (.reg w) => s.modAct fun x => x.wsWrite w b
      | some (.win p w) => s.winStore p w b
      | _ => s) t

/-- Is a store a STREL? -/
def StoreKind.releases : StoreKind → Bool
  | .plain _ rel => rel.isSome
  | _ => false

/-- A store of bytes (R16, R138, R158): through checking, but for register and window bytes, which are performed at once, in program
order. So that a store with such bytes performs all of its bytes or none (R108, R132, R137), the others are looked at first: it is held
at issue while one of them lacks its translation, and one that fails lets it enter checking whole, with what was found (DEDUCED,
notes/assumptions/80.md). A STREL of such bytes, which are local, first waits for the activation's earlier local stores (R143). -/
def storeM (kind : StoreKind) (addr : Word) (l : List (Nat × Byte)) (scalar : Bool) : M Unit := do
  if l.isEmpty then pure ()
  else if (← asks fun s => l.all fun x => (s.directPlace x.1).isNone) then enterStore kind addr l scalar
  else if (← asks fun s => l.any fun x => match s.directPlace x.1 with | some (.reg w) => s.owes w | _ => false) then stop (.hold 14)
  else if kind.releases && !(← asks fun s => s.act.localDone) then stop (.hold 14)
  else match ← asks fun s => s.checkBytes s.who (s.act.str s.cur.stream).refused l with
    | .walk g => stop (.walk g .storeCheck)
    | .fail a k q => enterStore kind addr l scalar (found := some (.fail a k q))
    | .pass phys =>
      let rest ← asks fun s => l.filter fun x => (s.directPlace x.1).isNone
      change fun s => s.storeDirect l
      if rest.isEmpty then pure () else enterStore kind addr rest scalar (found := some (.pass phys))

/-- Parks on a misaligned access (R137): notice 0x0007. -/
def alignM (addr : Word) (n : Nat) : M Unit := check (addr.toNat % n == 0) { code := 0x0007, openInfo := true }

end Sys2Proof.Machine
end

