-- ==== Sys2Proof/Machine/Flags.lean ====
section
/-! DEFINITION. Number formats, rounding and flags (R47-R55, R64, R65): exact values, one rounding at the end, and the
flags that come from comparing the two. -/

namespace Sys2Proof.Machine

/-! ## Flags (R23, R52) -/

/-- NV, DZ, OF, UF and NX, at the bits of FLG. -/
def flNV : BitVec 5 := 1
def flDZ : BitVec 5 := 2
def flOF : BitVec 5 := 4
def flUF : BitVec 5 := 8
def flNX : BitVec 5 := 16

/-- A flag if a condition holds. -/
def flagIf (c : Bool) (f : BitVec 5) : BitVec 5 := if c then f else 0

/-- The four rounding modes (R51). -/
inductive Mode where
  | rne | rtz | rup | rdn
  deriving DecidableEq, Repr

/-- The mode of an RND value (R24). -/
def modeOf (rnd : BitVec 2) : Mode :=
  if rnd = 0 then .rne else if rnd = 1 then .rtz else if rnd = 2 then .rup else .rdn

/-- The mode of an instruction's rounding field (R31, R51). -/
def rmMode (rm : Rm) (rnd : BitVec 2) : Mode :=
  match rm with
  | .dyn => modeOf rnd
  | .rne => .rne
  | .rtz => .rtz
  | .rup => .rup
  | .rdn => .rdn

/-! ## Formats (R47, R48) -/

/-- Exponent bits, fraction bits and bias of a binary format. -/
structure BinFmt where
  ebits : Nat
  fbits : Nat
  bias : Nat
  deriving DecidableEq, Repr

def fmtF32 : BinFmt := { ebits := 8, fbits := 23, bias := 127 }
def fmtF16 : BinFmt := { ebits := 5, fbits := 10, bias := 15 }
def fmtBF16 : BinFmt := { ebits := 8, fbits := 7, bias := 127 }

/-- The binary format of a floating-point modifier. -/
def binFmt : FFmt → BinFmt
  | .bf16 => fmtBF16
  | .f16 => fmtF16
  | .f32 => fmtF32

/-- Width of a format. -/
def BinFmt.width (f : BinFmt) : Nat := 1 + f.ebits + f.fbits

/-- Bits of +∞. -/
def BinFmt.infBits (f : BinFmt) : Nat := (2 ^ f.ebits - 1) * 2 ^ f.fbits

/-- Bits of the canonical NaN (R49). -/
def BinFmt.nanBits (f : BinFmt) : Nat := f.infBits + 2 ^ (f.fbits - 1)

/-- Bit of the sign. -/
def BinFmt.signBit (f : BinFmt) : Nat := 2 ^ (f.ebits + f.fbits)

/-- Exponent of the last place of a subnormal. -/
def BinFmt.qmin (f : BinFmt) : Int := 1 - (f.bias : Int) - f.fbits

/-- An exact value: a NaN with its signalling mark, an infinity, or (-1)^neg × m × 2^e. -/
inductive FVal where
  | nan (sig : Bool)
  | inf (neg : Bool)
  | fin (neg : Bool) (m : Nat) (e : Int)
  deriving DecidableEq, Repr

/-- The value of a bit pattern (R47-R49). -/
def BinFmt.decode (f : BinFmt) (bits : Nat) : FVal :=
  let neg := bits.testBit (f.ebits + f.fbits)
  let ex := bits / 2 ^ f.fbits % 2 ^ f.ebits
  let fr := bits % 2 ^ f.fbits
  if ex = 2 ^ f.ebits - 1 then (if fr = 0 then .inf neg else .nan (!fr.testBit (f.fbits - 1)))
  else if ex = 0 then .fin neg fr f.qmin
  else .fin neg (2 ^ f.fbits + fr) (f.qmin + (ex - 1 : Nat))

def FVal.isNan : FVal → Bool | .nan _ => true | _ => false
def FVal.isSig : FVal → Bool | .nan s => s | _ => false
def FVal.isInf : FVal → Bool | .inf _ => true | _ => false
def FVal.isZero : FVal → Bool | .fin _ m _ => m == 0 | _ => false
def FVal.neg : FVal → Bool | .inf n => n | .fin n _ _ => n | .nan _ => false

/-- The value with the other sign; a NaN as it is. -/
def FVal.negate : FVal → FVal
  | .nan s => .nan s
  | .inf n => .inf (!n)
  | .fin n m e => .fin (!n) m e

/-! ## Rounding (R51, R52) -/

/-- Number of significant bits. -/
def bitLen (m : Nat) : Nat := if m = 0 then 0 else Nat.log2 m + 1

/-- m × 2^e, and a bit more when `sticky`, as a multiple of 2^q: the rounded multiple, and whether it is inexact. -/
def roundTo (mode : Mode) (neg : Bool) (m : Nat) (e q : Int) (sticky : Bool) : Nat × Bool :=
  if q ≤ e then (m <<< (e - q).toNat, sticky)
  else
    let d := (q - e).toNat
    let n := m >>> d
    let r := m - n <<< d
    let half := 1 <<< (d - 1)
    let inexact := r != 0 || sticky
    let up : Bool := match mode with
      | .rne => decide (half < r) || (r == half && (sticky || n % 2 == 1))
      | .rtz => false
      | .rup => !neg && inexact
      | .rdn => neg && inexact
    (if up then n + 1 else n, inexact)

/-- Does a finite overflow give infinity under a mode (R51)? -/
def overflowsToInf (mode : Mode) (neg : Bool) : Bool :=
  match mode with
  | .rne => true
  | .rtz => false
  | .rup => !neg
  | .rdn => neg

/-- Rounds (-1)^neg × (m × 2^e, and a bit more when `sticky`) to a format: bits and flags. `sticky` is for an `m` of at
least two bits more than the format holds. -/
def BinFmt.round (f : BinFmt) (mode : Mode) (neg : Bool) (m : Nat) (e : Int) (sticky : Bool := false) : Nat × BitVec 5 :=
  let sgn := if neg then f.signBit else 0
  if m = 0 then (sgn, 0)
  else
    let unb := e + bitLen m - (f.fbits + 1)
    let q := max unb f.qmin
    let (n, inexact) := roundTo mode neg m e q sticky
    let bits := ((q - f.qmin).toNat <<< f.fbits) + n
    if f.infBits ≤ bits then
      (sgn + (if overflowsToInf mode neg then f.infBits else f.infBits - 1), flOF ||| flNX)
    else
      let tiny := decide (unb < f.qmin) &&
        decide (bitLen (roundTo mode neg m e unb sticky).1 + unb ≤ (f.fbits + f.qmin : Int))
      (sgn + bits, flagIf inexact flNX ||| flagIf (tiny && inexact) flUF)

/-- Rounds an exact value; a NaN becomes the canonical NaN (R49). -/
def BinFmt.encode (f : BinFmt) (mode : Mode) : FVal → Nat × BitVec 5
  | .nan _ => (f.nanBits, 0)
  | .inf neg => ((if neg then f.signBit else 0) + f.infBits, 0)
  | .fin neg m e => f.round mode neg m e

/-! ## Exact arithmetic -/

/-- Signed integer of a finite value at exponent `e`, which is at most its own. -/
def FVal.atExp (e : Int) : FVal → Int
  | .fin neg m x => let k : Int := m <<< (x - e).toNat; if neg then -k else k
  | _ => 0

/-- Least exponent of the finite non-zero values. -/
def minExp (l : List FVal) : Int :=
  (l.filterMap fun v => match v with | .fin _ m e => if m = 0 then none else some e | _ => none).foldl min 100000

/-- The exact sum of several values, with its flags: NV for ∞ − ∞ and for a signalling NaN; the sign of a zero sum is that
of R51. -/
def sumV (mode : Mode) (l : List FVal) : FVal × BitVec 5 :=
  if l.any FVal.isNan then (.nan false, flagIf (l.any FVal.isSig) flNV)
  else
    let infs := l.filter FVal.isInf
    if infs.any FVal.neg && infs.any (fun v => !v.neg) then (.nan false, flNV)
    else if !infs.isEmpty then (.inf (infs.any FVal.neg), 0)
    else
      let e := minExp l
      let s : Int := (l.map fun v => if v.isZero then 0 else v.atExp e).sum
      if s ≠ 0 then (.fin (decide (s < 0)) s.natAbs e, 0)
      else if l.all (fun v => v.isZero && v.neg) then (.fin true 0 0, 0)
      else if l.all (fun v => v.isZero && !v.neg) then (.fin false 0 0, 0)
      else (.fin (mode == .rdn) 0 0, 0)

/-- The exact product, with its flags. -/
def mulV : FVal → FVal → FVal × BitVec 5
  | .nan a, .nan b => (.nan false, flagIf (a || b) flNV)
  | .nan a, _ => (.nan false, flagIf a flNV)
  | _, .nan b => (.nan false, flagIf b flNV)
  | .inf a, .inf b => (.inf (a != b), 0)
  | .inf a, .fin b m _ => if m = 0 then (.nan false, flNV) else (.inf (a != b), 0)
  | .fin a m _, .inf b => if m = 0 then (.nan false, flNV) else (.inf (a != b), 0)
  | .fin a m e, .fin b n x => (.fin (a != b) (m * n) (e + x), 0)

/-- Rounds the exact result of an operation and joins the flags. -/
def finish (f : BinFmt) (mode : Mode) (r : FVal × BitVec 5) : Nat × BitVec 5 :=
  let (bits, fl) := f.encode mode r.1
  (bits, r.2 ||| fl)

/-- The two-operand and fused operations of R92 and R96. -/
inductive FOp where
  | add | sub | mul | fma | fms | fnma | min | max
  deriving DecidableEq, Repr

/-- Order of two numbers with −0 below +0 (R93): is a below b? -/
def below (a b : FVal) : Bool :=
  match a, b with
  | .inf na, .inf nb => na && !nb
  | .inf na, _ => na
  | _, .inf nb => !nb
  | a, b =>
    let e := minExp [a, b]
    let x := if a.isZero then 0 else a.atExp e
    let y := if b.isZero then 0 else b.atExp e
    if x = 0 ∧ y = 0 then a.neg && !b.neg else decide (x < y)

/-- Minimum or maximum (R93): the chosen operand's bits. -/
def minmax (f : BinFmt) (wantMax : Bool) (a b : Nat) : Nat × BitVec 5 :=
  let x := f.decode a
  let y := f.decode b
  let fl := flagIf (x.isSig || y.isSig) flNV
  if x.isNan && y.isNan then (f.nanBits, fl)
  else if x.isNan then (b, fl)
  else if y.isNan then (a, fl)
  else if (if wantMax then below x y else below y x) then (b, fl) else (a, fl)

/-- One element of an arithmetic instruction: b op c, with a the old destination (R92, R96). -/
def fop (f : BinFmt) (mode : Mode) (op : FOp) (a b c : Nat) : Nat × BitVec 5 :=
  let x := f.decode b
  let y := f.decode c
  let z := f.decode a
  match op with
  | .add => finish f mode (sumV mode [x, y])
  | .sub => finish f mode (sumV mode [x, y.negate])
  | .mul => finish f mode (mulV x y)
  | .fma => let (p, fl) := mulV x y; let (s, g) := sumV mode [p, z]; finish f mode (s, fl ||| g)
  | .fms => let (p, fl) := mulV x y; let (s, g) := sumV mode [p, z.negate]; finish f mode (s, fl ||| g)
  | .fnma => let (p, fl) := mulV x y; let (s, g) := sumV mode [p.negate, z]; finish f mode (s, fl ||| g)
  | .min => minmax f false b c
  | .max => minmax f true b c

/-- Sign operations (R94): magnitude of b, sign bit computed from those of b and c. -/
def fsgnBits (f : BinFmt) (b : Nat) (neg : Bool) : Nat × BitVec 5 :=
  let x := f.decode b
  if x.isNan then (f.nanBits, flagIf x.isSig flNV)
  else (b % f.signBit + (if neg then f.signBit else 0), 0)

/-- Sign bit of a bit pattern. -/
def BinFmt.signOf (f : BinFmt) (b : Nat) : Bool := b.testBit (f.ebits + f.fbits)

/-- Sign that an operation of R94 gives, from the sign of gb and that of gc. -/
def sgnNeg (b c : Bool) {α : Type} : Sgn α → Bool
  | .cpy _ => c
  | .ncp _ => !c
  | .xor _ => b != c
  | .abs => false

/-- Numeric equality; −0 equals +0. -/
def sameV (a b : FVal) : Bool := !below a b && !below b a || (a.isZero && b.isZero)

/-- Comparison of two bit patterns (R79): truth, and NV. -/
def fcmp (f : BinFmt) (cond : FCond) (a b : Nat) : Bool × BitVec 5 :=
  let x := f.decode a
  let y := f.decode b
  let sig := x.isSig || y.isSig
  let lt := below x y && !(x.isZero && y.isZero)
  let gt := below y x && !(x.isZero && y.isZero)
  if x.isNan || y.isNan then
    match cond with
    | .eq => (false, flagIf sig flNV)
    | .ne => (true, flagIf sig flNV)
    | .un => (true, flagIf sig flNV)
    | .lt | .le | .gt | .ge => (false, flNV)
  else
    match cond with
    | .eq => (!lt && !gt, 0)
    | .ne => (lt || gt, 0)
    | .lt => (lt, 0)
    | .le => (!gt, 0)
    | .gt => (gt, 0)
    | .ge => (!lt, 0)
    | .un => (false, 0)

/-! ## Division and square root (R118) -/

/-- Integer square root by bits, from bit k − 1 down. -/
def isqrtBits : Nat → Nat → Nat → Nat
  | 0, _, r => r
  | k + 1, n, r =>
    let t := r + 1 <<< k
    isqrtBits k n (if t * t ≤ n then t else r)

/-- Integer square root. -/
def isqrt (n : Nat) : Nat := isqrtBits (bitLen n / 2 + 1) n 0

/-- Quotient m / n with `k` extra bits: floor(m × 2^k / n), and whether a remainder is left. -/
def divBits (m n k : Nat) : Nat × Bool := ((m <<< k) / n, (m <<< k) % n != 0)

/-- DIVF (R118). -/
def divF (mode : Mode) (a b : Nat) : Nat × BitVec 5 :=
  match fmtF32.decode a, fmtF32.decode b with
  | .nan s, y => (fmtF32.nanBits, flagIf (s || y.isSig) flNV)
  | _, .nan s => (fmtF32.nanBits, flagIf s flNV)
  | .inf _, .inf _ => (fmtF32.nanBits, flNV)
  | .inf n, .fin p _ _ => fmtF32.encode mode (.inf (n != p))
  | .fin n _ _, .inf p => fmtF32.encode mode (.fin (n != p) 0 0)
  | .fin n m e, .fin p k x =>
    if k = 0 then
      if m = 0 then (fmtF32.nanBits, flNV)
      else let (bits, _) := fmtF32.encode mode (.inf (n != p)); (bits, flDZ)
    else if m = 0 then fmtF32.encode mode (.fin (n != p) 0 0)
    else
      let (q, st) := divBits m k 60
      fmtF32.round mode (n != p) q (e - x - 60) st

/-- Square root of m × 2^e with 40 bits and more: floor, its exponent, and whether it is inexact. -/
def sqrtBits (m : Nat) (e : Int) : Nat × Int × Bool :=
  let odd := (e % 2 != 0 : Bool)
  let m := if odd then m * 2 else m
  let e := if odd then e - 1 else e
  let n := m <<< 80
  let r := isqrt n
  (r, e / 2 - 40, r * r != n)

/-- SQRTF (R118). -/
def sqrtF (mode : Mode) (a : Nat) : Nat × BitVec 5 :=
  match fmtF32.decode a with
  | .nan s => (fmtF32.nanBits, flagIf s flNV)
  | .inf true => (fmtF32.nanBits, flNV)
  | .inf false => (fmtF32.infBits, 0)
  | .fin neg m e =>
    if m = 0 then (a, 0)
    else if neg then (fmtF32.nanBits, flNV)
    else let (r, x, st) := sqrtBits m e; fmtF32.round mode false r x st

/-! ## Conversions (R54, R55, R95) -/

/-- The binary format of a numeric type. -/
def ntypeFmt : NType → BinFmt
  | .bf16 => fmtBF16
  | .f16 => fmtF16
  | _ => fmtF32

/-- Smallest and largest value of an integer type. -/
def intLo (t : NType) : Int := if t.isSigned then -(2 ^ (t.bits - 1) : Nat) else 0
def intHi (t : NType) : Int := if t.isSigned then (2 ^ (t.bits - 1) : Nat) - 1 else (2 ^ t.bits : Nat) - 1

/-- Bits of an integer in a type. -/
def intBits (t : NType) (x : Int) : Nat := (x % (2 ^ t.bits : Nat)).toNat

/-- The integer that a type's bits stand for. -/
def intOf (t : NType) (b : Nat) : Int :=
  if t.isSigned && b.testBit (t.bits - 1) then (b : Int) - (2 ^ t.bits : Nat) else b

/-- Floating point to integer (R55). -/
def toInt (t : NType) (mode : Mode) : FVal → Nat × BitVec 5
  | .nan _ => (0, flNV)
  | .inf neg => (intBits t (if neg then intLo t else intHi t), flNV)
  | .fin neg m e =>
    let (n, inexact) := roundTo mode neg m e 0 false
    let x : Int := if neg then -n else n
    if x < intLo t then (intBits t (intLo t), flNV)
    else if intHi t < x then (intBits t (intHi t), flNV)
    else (intBits t x, flagIf inexact flNX)

/-- Converts the bits of one value from a type to another (R54, R55, R95). -/
def convert (mode : Mode) (dt st : NType) (b : Nat) : Nat × BitVec 5 :=
  if st.isFloat then
    let v := (ntypeFmt st).decode b
    if dt.isFloat then
      let (bits, fl) := (ntypeFmt dt).encode mode v
      (bits, fl ||| flagIf v.isSig flNV)
    else toInt dt mode v
  else
    let x := intOf st b
    (ntypeFmt dt).encode mode (.fin (decide (x < 0)) x.natAbs 0)

/-! ## Sums of vectors (R64, R65) -/

/-- Combines neighbours in a list pairwise, lower index on the left. -/
def pairUp {α : Type} (g : α → α → α) : List α → List α
  | a :: b :: t => g a b :: pairUp g t
  | l => l

/-- The tree of R64 over 16 lanes. -/
def tree16 {α : Type} (g : α → α → α) (l : List α) : List α := pairUp g (pairUp g (pairUp g (pairUp g l)))

/-- One lane of VDOT2 (R106): exact sum, one rounding to FP32. -/
def dot2 (f : BinFmt) (mode : Mode) (a b0 c0 b1 c1 : Nat) : Nat × BitVec 5 :=
  let (p, f0) := mulV (f.decode b0) (f.decode c0)
  let (q, f1) := mulV (f.decode b1) (f.decode c1)
  let (s, f2) := sumV mode [p, q, fmtF32.decode a]
  finish fmtF32 mode (s, f0 ||| f1 ||| f2)

end Sys2Proof.Machine
end

