-- ==== Sys2Proof/Machine/Operands.lean ====
section
/-! DEFINITION. Operands: g operands and queue registers (R18, R19, R43, R67), v operands, masks and stream generators
(R88-R91, R112-R115), sizes (R68), immediates (R30), and the addresses of memory instructions (R135). -/

namespace Sys2Proof.Machine

/-! ## Scalar registers -/

/-- A general register; g0 reads 0 (R18). -/
def Act.getG (a : Act) (i : BitVec 5) : Word := if i = 0 then 0 else a.g[i.toNat]

/-- Writes a general register; a write to g0 is discarded (R19). -/
def Act.setG (a : Act) (i : BitVec 5) (x : Word) : Act := if i = 0 then a else { a with g := a.g.set i.toNat x, dirtyWs := a.dirtyWs ||| 1 }

/-- A predicate; p7 reads 1 (R18). -/
def Act.getP (a : Act) (i : BitVec 3) : Bool := if i = 7 then true else a.p.getLsbD i.toNat

/-- Writes a predicate; a write to p7 is discarded (R19). -/
def Act.setP (a : Act) (i : BitVec 3) (b : Bool) : Act :=
  if i = 7 then a
  else { a with p := if b then a.p ||| BitVec.twoPow 8 i.toNat else a.p &&& ~~~BitVec.twoPow 8 i.toNat
                dirtyWs := a.dirtyWs ||| 0x2000 }

/-- A mask; k0 reads all ones (R18). -/
def Act.getK (a : Act) (i : BitVec 3) : BitVec 16 := if i = 0 then 0xFFFF else a.k[i.toNat]

/-- Writes a mask; a write to k0 is discarded (R19). -/
def Act.setK (a : Act) (i : BitVec 3) (x : BitVec 16) : Act := 
  if i = 0 then a else { a with k := a.k.set i.toNat x, dirtyWs := a.dirtyWs ||| 0x2000 }

/-- Writes a vector register; vi lies at workspace bytes 256 + 64 × i (R15). -/
def Act.setV (a : Act) (i : BitVec 5) (x : VReg) : Act :=
  { a with v := a.v.set i.toNat x, dirtyWs := a.dirtyWs ||| BitVec.twoPow 16 (1 + i.toNat / 4) }

/-- Can the present stream pop an entry: its own at once, one of the other stream from the second cycle after its push (R43)? -/
def QEntry.ready {α : Type} (e : QEntry α) (s : State) : Bool := e.by_ == s.cur.stream || decide (e.at_ + 2 ≤ s.cycle)

/-- The entry that the present stream pushes. -/
def State.entry {α : Type} (s : State) (x : α) : QEntry α := { val := x, at_ := s.cycle, by_ := s.cur.stream }

/-- Reads a g operand; a queue register pops its oldest entry, or holds the stream while there is none to pop (R43). -/
def readG (x : GQ) : M Word := fun s =>
  match x with
  | .g i => .ok (s.act.getG i, s)
  | .q i =>
    match s.act.qg[i.toNat] with
    | [] => .error (.hold 8)
    | w :: t => if w.ready s then .ok (w.val, s.modAct fun a => { a with qg := a.qg.set i.toNat t }) else .error (.hold 8)

/-- Has the other stream's GSUB or CBWAIT, issued before, still to push into a queue register (R42)? -/
def State.owesQ (s : State) (i : BitVec 2) : Bool := s.act.owed s.cur.stream == some (.q i)

/-- Why a queue register takes no push of the present stream now: an earlier push is still to come (R42), or it is full (R43). -/
def State.noPush (s : State) (i : BitVec 2) : Option (BitVec 6) :=
  if s.owesQ i then some 14 else if 8 ≤ (s.act.qg[i.toNat]).length then some 8 else none

/-- Writes a g operand; a queue register takes a new entry, or holds the stream while it is full or another push is to come before
(R42, R43). An instruction that names one
queue register as a source and as FA has popped before it pushes, so that its own pop makes room (DESIGN CHOICE,
notes/assumptions/73.md). -/
def writeG (x : GQ) (v : Word) : M Unit := fun s =>
  match x with
  | .g i => .ok ((), s.modAct fun a => a.setG i v)
  | .q i =>
    match s.noPush i with
    | some why => .error (.hold why)
    | none => .ok ((), s.modAct fun a => { a with qg := a.qg.set i.toNat (a.qg[i.toNat] ++ [s.entry v]) })

/-- A queue register that takes no push holds the stream before its access to memory (R42, R43). -/
def roomG (x : GQ) : M Unit := fun s =>
  match x with
  | .g _ => .ok ((), s)
  | .q i =>
    match s.noPush i with
    | some why => .error (.hold why)
    | none => .ok ((), s)

/-- A push that is made later than the instruction issues waits at issue for an earlier one of the other stream (R42). -/
def firstPush (x : GQ) : M Unit := fun s =>
  match x with
  | .g _ => .ok ((), s)
  | .q i => if s.owesQ i then .error (.hold 14) else .ok ((), s)

/-- Reads a general register. -/
def readReg (i : BitVec 5) : M Word := asks fun s => s.act.getG i

/-- Writes a general register. -/
def writeReg (i : BitVec 5) (v : Word) : M Unit := changeAct fun a => a.setG i v

/-- An optional g operand. -/
def readG? : Option GQ → M (Option Word)
  | none => pure none
  | some x => do pure (some (← readG x))

/-- A second source under reading I (R29, R30). -/
def readSrc2 : Src2 → M Word
  | .reg x => readG x
  | .imm x => pure (x.signExtend 64)

/-- A second source under reading U. -/
def readSrc2U : Src2 → M Word
  | .reg x => readG x
  | .imm x => pure (x.setWidth 64)

/-! ## Sizes (R68) -/

/-- The low n bits of a word. -/
def lowBits (n : Nat) (x : Word) : BitVec n := x.setWidth n

/-- An n-bit result extended to a register. -/
def extend {n : Nat} (u : Bool) (x : BitVec n) : Word := if u then x.setWidth 64 else x.signExtend 64

/-! ## Vector registers (R89) -/

/-- The zero vector register. -/
def vzero : VReg := Vector.replicate 16 0

/-- Sixteen lanes from a function. -/
def vmk (f : Nat → BitVec 32) : VReg := Vector.ofFn fun i : Fin 16 => f i.val

/-- A lane. -/
def lane (v : VReg) (j : Nat) : BitVec 32 := v[j]?.getD 0

/-- Element i of n bits (R89): lanes hold 32 / n elements, the lowest at the lowest bits. -/
def elem (n : Nat) (v : VReg) (i : Nat) : Nat := (lane v (i * n / 32)).toNat >>> (i * n % 32) % 2 ^ n

/-- Elements of n bits of a lane, gathered into the lane. -/
def joinLane (n : Nat) (l : List Nat) : BitVec 32 :=
  BitVec.ofNat 32 (l.foldr (fun x acc => acc <<< n + x % 2 ^ n) 0)

/-! ## Stream generators (R112-R115) -/

/-- Number of the generator that a v register is bound to; only v28-v31 can be. -/
def Act.boundTo (a : Act) (i : BitVec 5) : Option (BitVec 2) :=
  if 28 ≤ i.toNat then a.bind[i.toNat - 28]?.getD none else none

/-- Address of element i of a generator (R112). -/
def StreamGen.addr (x : StreamGen) (i : Nat) : Word :=
  x.base + BitVec.ofInt 64 (4 * (i : Int) * x.stride.toInt)

/-- Loads the elements of a generator from index i, n of them, each a weak word load (R115). -/
def loadElems (x : StreamGen) : Nat → Nat → M (List (BitVec 32))
  | _, 0 => pure []
  | i, n + 1 => do
    let bs ← loadM (x.addr i) 4 false
    let t ← pagesOn [(x.addr i).toNat] (loadElems x (i + 1) n)
    pure (BitVec.ofNat 32 (ofBytesLE bs) :: t)

/-- Sets a generator. -/
def Act.setGen (a : Act) (i : BitVec 2) (x : StreamGen) : Act := { a with gens := a.gens.set i.toNat x }

/-- Pops the next 16 elements of a read stream; a write stream reads as zeros (R114). Elements fetched ahead are checked
again for the popping instruction (DESIGN CHOICE, notes/assumptions/13.md); a fault of one parks the instruction also where its
destination is a full queue register, since sources are read first (DESIGN CHOICE, notes/assumptions/73.md). -/
def popGen (i : BitVec 2) : M VReg := do
  let x ← asks fun s => s.act.gens[i.toNat]
  if x.wr then pure vzero
  else
    let want := min 16 (x.len - x.pos)
    let have_ := x.ahead.take want
    (List.range have_.length).forM fun i => do let _ ← placesM (x.addr (x.pos + i)) 4 .read
    let rest ← loadElems x (x.pos + have_.length) (want - have_.length)
    change fun s => (s.modAct fun a => a.setGen i { x with pos := x.pos + want, ahead := x.ahead.drop want }).after 1
      (.streamFetch s.cur.sid i)
    let l := have_ ++ rest
    pure (vmk fun j => l.getD j 0)

/-- Appends lanes to a write stream as one vector store; lanes beyond its length are discarded, and a write to a read
stream is discarded (R114, R115). -/
def appendGen (i : BitVec 2) (v : VReg) : M Unit := do
  let x ← asks fun s => s.act.gens[i.toNat]
  if x.wr then
    let n := min 16 (x.len - x.pos)
    let l := (List.range n).flatMap fun j => storeBytes (x.addr (x.pos + j)) (bytesLE 4 (lane v j).toNat)
    changeAct fun a => a.setGen i { x with pos := x.pos + n }
    storeM (.plain false none) (x.addr x.pos) l false

/-! ## v operands -/

/-- Reads a v operand as a source (R43, R88, R114). -/
def readV (x : VQ) : M VReg :=
  match x with
  | .v i => do
    match ← asks fun s => s.act.boundTo i with
    | some g => popGen g
    | none => asks fun s => s.act.v[i.toNat]
  | .q i => fun s =>
    match s.act.qv[i.toNat] with
    | [] => .error (.hold 8)
    | w :: t => if w.ready s then .ok (w.val, s.modAct fun a => { a with qv := a.qv.set i.toNat t }) else .error (.hold 8)

/-- A full queue register holds the stream before its access to memory (R43). -/
def roomV (x : VQ) : M Unit := fun s =>
  match x with
  | .v _ => .ok ((), s)
  | .q i => if 4 ≤ (s.act.qv[i.toNat]).length then .error (.hold 8) else .ok ((), s)

/-- Writes a whole v operand (R43, R88, R114). -/
def writeV (x : VQ) (v : VReg) : M Unit :=
  match x with
  | .v i => do
    match ← asks fun s => s.act.boundTo i with
    | some g => appendGen g v
    | none => changeAct fun a => a.setV i v
  | .q i => fun s =>
    if 4 ≤ (s.act.qv[i.toNat]).length then .error (.hold 8)
    else .ok ((), s.modAct fun a => { a with qv := a.qv.set i.toNat (a.qv[i.toNat] ++ [s.entry v]) })

/-- The old value of a destination; a bound one reads all-zero lanes, and a queue register has none (R114). -/
def oldV (x : VQ) : M VReg := asks fun s =>
  match x with
  | .v i => if (s.act.boundTo i).isSome then vzero else s.act.v[i.toNat]
  | .q _ => vzero

/-- Is lane j active under a mask (R90)? -/
def active (k : BitVec 16) (j : Nat) : Bool := k.getLsbD j

/-- Writes the active lanes; an inactive lane becomes 0 under `.z` and keeps its old value otherwise (R90). -/
def writeMasked (x : VQ) (k : BitVec 16) (z : Bool) (v : VReg) : M Unit := do
  let old ← oldV x
  writeV x (vmk fun j => if active k j then lane v j else if z then 0 else lane old j)

/-- A mask register as a source. -/
def readMask (i : BitVec 3) : M (BitVec 16) := asks fun s => s.act.getK i

/-- A vector second source of elements of n bits; a g operand is broadcast (R91). -/
def readVSrc (n : Nat) : VSrc → M VReg
  | .vec x => readV x
  | .bc x => do
    let w ← readG x
    let l := joinLane n (List.replicate (32 / n) (w.toNat % 2 ^ n))
    pure (vmk fun _ => l)

/-! ## Rounding -/

/-- The rounding mode of an instruction (R51). -/
def modeM (rm : Rm) : M Mode := asks fun s => rmMode rm s.act.rnd

/-! ## Addresses (R135) -/

/-- Sets bit 55 of an address when L is 1. -/
def withLocal (loc : Bool) (a : Word) : Word := if loc then a ||| BitVec.twoPow 64 55 else a

/-- The address of a scalar memory operand; FB is read before FC. -/
def memAddr (m : MemOp) : M Word := do
  let b ← readG m.base
  let i ← readG? m.index
  pure (withLocal m.loc (b + i.getD 0 + m.disp.signExtend 64))

end Sys2Proof.Machine
end

