-- ==== Sys2Proof/Machine/Walk.lean ====
section
/-! DEFINITION. The entries of page tables (R307), a walk through them and its outcomes (R309), the probes of CFLUSH, CINV, PREF
and DOMQ, pending-read ranges (R254), and stores that are performed in local memory, with the tack log (R163, R176). -/

namespace Sys2Proof.Machine

/-! ## The entries of page tables -/

/-- Where a walk ends: a translation, or kind, level and physical address of the entry that ends it (R309, R310). -/
inductive WalkResult where
  | leaf (e : TlbEntry)
  | bad (kind level entry : Nat)
  deriving DecidableEq, Repr

/-- Reads one table entry as a strong load. -/
def State.tableWord (s : State) (c p : Nat) : Word × State :=
  let (bs, s) := (List.range 8).foldl (fun (acc : List Byte × State) i =>
    let (b, _, s) := acc.2.strongRead c (acc.2.physKey c p) (p + i); (acc.1 ++ [b], s)) ([], s)
  (BitVec.ofNat 64 (ofBytesLE bs), s)

/-- Is a valid entry of a level malformed (R307, R309)? `size` is that of its page, or of the table it points to. -/
def pteMalformed (lv size : Nat) (w : Word) : Bool :=
  w.extractLsb' 5 3 != 0 || w.extractLsb' 46 2 != 0 || w.msb || pteAddr w % size != 0 ||
  (if w.getLsbD 1 then lv == 3 else lv == 0 || w.extractLsb' 2 3 != 0 || w.extractLsb' 48 15 != 0)

/-- The translation that a leaf gives. -/
def leafEntry (c va sh : Nat) (w : Word) : TlbEntry :=
  { ctx := c, bits := sh, vpage := va >>> sh, ppage := pteAddr w >>> sh, r := w.getLsbD 2, w := w.getLsbD 3, x := w.getLsbD 4,
    dom := w.extractLsb' 48 6, key := w.extractLsb' 54 9 }

/-- Walks from a table on. -/
def State.walkFrom (c va : Nat) : State → Nat → List (Nat × Nat × Nat) → WalkResult × State
  | s, tbl, [] => (.bad 1 0 tbl, s)
  | s, tbl, (lv, sh, n) :: t =>
    let entry := tbl + 8 * (va >>> sh % n)
    let (w, s) := s.tableWord c entry
    let x := s.ctxAt c
    let size := if w.getLsbD 1 then 2 ^ sh else 8 * (match t with | [] => 1 | (_, _, m) :: _ => m)
    if !w.getLsbD 0 then (.bad 0 lv entry, s)
    else if pteMalformed lv size w then (.bad 1 lv entry, s)
    else if !x.inPart (pteAddr w) size then (.bad 2 lv entry, s)
    else if w.getLsbD 1 then
      (if x.keys.contains (w.extractLsb' 54 9).toNat then .leaf (leafEntry c va sh w) else .bad 3 lv entry, s)
    else State.walkFrom c va s (pteAddr w) t

/-- Walks the tables of a context for a global address. -/
def State.walkTable (s : State) (c va : Nat) : WalkResult × State :=
  let x := s.ctxAt c
  if x.inPart x.root 65536 then State.walkFrom c va s x.root walkLevels
  else (.bad 2 3 (x.root + 8 * (va >>> 42 % 8192)), s)

/-! ## Probes (R149-R151, R206) -/

/-- Granules whose walk a probe does not wait for: one that it has waited for in vain, and one that waits on the fault queue, which a
probe never enters (R309). -/
def State.probed (s : State) (c core : Nat) (skip : List Nat) (g : Nat) : Bool :=
  skip.contains g || (s.walkSeq c (nodeOf core) g).isSome

/-- The first granule of the addresses of a probe whose walk it has to wait for (R308). -/
def State.probeGap (s : State) (c core : Nat) (given : Option TlbEntry) (skip l : List Nat) : Option Nat :=
  (l.find? fun a => decide (a < 2 ^ 55) && (s.xlatOr given c core a).isNone && !s.probed c core skip (a / 65536)).map (· / 65536)

/-- A probe of the present instruction: it waits for the walks of what has no translation, and then goes on with what has one. -/
def probeM (l : List Nat) : M Unit := do
  let x ← asks fun s => s.act.str s.cur.stream
  match ← asks fun s => s.probeGap s.cctx s.ccore x.given x.skip l with
  | some g => stop (.walk g .probe)
  | none => change fun s => s.touchAll s.cctx s.ccore l

/-- Most lines for which the range of CFLUSH or CINV is probed; beyond, it covers every line of the cluster cache, as R265
permits (DESIGN CHOICE, notes/assumptions/9.md). -/
def probeMax : Nat := 1024

/-- An address in each line of the range of CFLUSH or CINV at A, of len bytes (R149); nothing for a range of too many lines. -/
def rangeAddrs (a len : Nat) : Option (List Nat) :=
  if len = 0 ∨ 2 ^ 55 ≤ a then some []
  else
    let n := (a + len - 1) / 128 - a / 128
    if n < probeMax then some (a :: (List.range n).map fun i => (a / 128 + i + 1) * 128) else none

/-- The lines of a range whose pages translate and grant an access to a domain (R149, R150). -/
def State.rangeLines (s : State) (c core : Nat) (given : Option TlbEntry) (dom : BitVec 6) (ws : List Window) (need : Need) :
    Option (List Nat) → FlushSet
  | none => .every
  | some l => .lines (l.filterMap fun a =>
      if 2 ^ 55 ≤ a then none
      else (s.xlatOr given c core a).bind fun e =>
        if (if need = .write then e.w else e.r) && (s.ctxAt c).allows dom ws a e.dom need then some (e.phys a / 128) else none)

/-- Does a set of lines hold a line? -/
def FlushSet.has (x : FlushSet) (line : Nat) : Bool := match x with | .lines l => l.contains line | .every => true

/-- The lines of a set, where `all` are those that are cached. -/
def FlushSet.of (x : FlushSet) (all : List Nat) : List Nat := match x with | .lines l => l | .every => all

/-! ## Local memory -/

/-- CLM words that a store of the present activation at these offsets adds to its tack log (R163). -/
def Act.newWords (a : Act) (slot : Nat) (offs : List Nat) : Nat :=
  (((offs.filter fun o => o / 4096 ≠ slot).map (· / 8)).eraseDups.filter fun i => !a.tack.any fun e => e.1 == i).length

/-- Does a store of the present activation at CLM offsets need a 513th entry of its tack log (R176)? -/
def State.tackFull (s : State) (offs : List Nat) : Bool :=
  !s.act.ecom && decide (512 < s.act.tack.length + s.act.newWords s.cur.sid.slot offs)

/-- CLM offsets of local bytes. -/
def clmOffsets (l : List (Nat × Byte)) : List Nat :=
  l.filterMap fun x => if 2 ^ 55 ≤ x.1 ∧ x.1 < 2 ^ 55 + 131072 then some (x.1 - 2 ^ 55) else none

/-- Enters the word of a CLM byte in the tack log of the present activation; the 513th entry commits early (R163, R176). -/
def State.logClm (s : State) (off : Nat) : State :=
  let a := s.act
  let i := off / 8
  if a.ecom || off / 4096 = s.cur.sid.slot || a.tack.any (fun e => e.1 == i) then s
  else if 512 ≤ a.tack.length then s.earlyCommit
  else s.setAct { a with tack := (i, BitVec.ofNat 64 (ofBytesLE (s.readKeys (clmKey s.cctx s.ccore (8 * i)) 8))) :: a.tack }

/-- Performs the local bytes of a store of the present activation (R138). -/
def State.performLocal (s : State) : List (Nat × Byte) → State
  | [] => s
  | (a, b) :: t =>
    let off := a - 2 ^ 55
    State.performLocal
      (if a < 2 ^ 55 then s
       else if off < 131072 then (s.logClm off).writeClm s.cctx s.ccore off b
       else s.writeTile s.cctx s.ccl (off - 0x10000000) b) t

end Sys2Proof.Machine
end

