-- ==== Sys2Proof/Machine/Ni.lean ====
section
/-! DEFINITION. The network interface of a core (R168-R178): mailboxes, refusals, bobbins, combining folds, the choice and
start of activations, the release at END, kills and dead letters, arrival digests and record and replay (R365-R367). -/

namespace Sys2Proof.Machine

/-! ## Digests (R365) -/

/-- A digest fed with a header and a payload (R365). -/
def feedDigest (d : BitVec 64) (hdr payload : List Byte) : BitVec 64 :=
  crc64 d (hdr ++ bytesLE 4 (crc32c payload).toNat)

/-! ## Supervisor and Pelson -/

/-- A notice that does not come from a parked activation: to SUPV; where there is none, to Pelson, which terminates the
context (R40, R343). -/
def State.sysNotice (s : State) (c core : Nat) (src : BitVec 32) (payload : List Byte) : State :=
  if (s.ctxAt c).supv = 0 then s.tellPelson c core (noticeMsg 0 src payload) .terminate
  else s.inject c core (noticeMsg (s.ctxAt c).supv src payload)

/-- A class 14 notice dropped for want of a handler goes to Pelson, which records it (R169, R343). -/
def State.droppedNotice (s : State) (c core : Nat) (m : Msg) : State := s.tellPelson c core m .record

/-! ## Refusals (R171) -/

/-- The refusal of a message by a mailbox (R171); SRC is that mailbox's AAD (DESIGN CHOICE, notes/assumptions/77.md). -/
def refusalMsg (m : Msg) (reason : Nat) (aad : BitVec 32) : Msg :=
  { dst := m.src, cls := 15, col := 1, src := aad, tag := m.tag,
    payload := (msgBytes m ++ List.replicate 64 0).take 64 ++ bytesLE 2 reason ++ bytesLE 2 0 ++ bytesLE 4 aad.toNat ++
      List.replicate 40 0 }

/-- The NI of a core refuses a message. A dispatch goes back to the graph unit alone (R320); a class 15 message is never
refused, and is dropped without a count (R169, R171; DESIGN CHOICE, notes/assumptions/77.md). -/
def State.refuse (s : State) (c core : Nat) (m : Msg) (reason : Nat) : State :=
  match m.node with
  | some id => s.now (.dispatchRefused c id)
  | none => if m.cls = 15 ∨ !m.src.msb then s else s.inject c core (refusalMsg m reason m.dst)

/-- A message is no longer under way, so that the release it left with may be done (R278). -/
def State.msgTaken (s : State) (c : Nat) (m : Msg) : State :=
  let k := aadCore m.src
  let key := (m.dst, m.seq)
  if m.node.isNone && m.src != Config.loaderAad && (s.coreAt c k).releases.any fun o => o.msgs.contains key then
    (s.modCore c k fun x => { x with releases := x.releases.map fun o => { o with msgs := o.msgs.filter fun y => y != key } }).now
      (.releaseDone c k)
  else s

/-! ## Mailboxes (R168) -/

/-- Ring entries in use. -/
def Mailbox.used (b : Mailbox) : Nat := (b.ring.map fun q => msgFlits q.m).sum

/-- Entries of the notice reserve in use on a core (R168). -/
def State.reserveUsed (s : State) (c core : Nat) : Nat :=
  ((s.mbxs.filter fun x => x.1.1 == c && x.1.2.1 == core).map fun x => (x.2.reserve.map fun q => msgFlits q.m).sum).sum

/-- Messages waiting for activation. -/
def Mailbox.waiting (b : Mailbox) : List Queued := b.put ++ b.ring ++ b.reserve

/-- Is a class masked? Only classes 0-13 can be. -/
def Mailbox.masked (b : Mailbox) (cls : BitVec 4) : Bool := b.mask.getLsbD cls.toNat

/-- Handler and mark of (mailbox, class) of an actor; address 0 is no handler. -/
def Actor.handler (a : Actor) (m : BitVec 2) (cls : BitVec 4) : Option (Word × Bool) :=
  match a.handlers.look (m, cls) with
  | some (pc, i) => if pc = 0 then none else some (pc, i)
  | none => none

/-- Activations of an actor now running. -/
def State.runningOf (s : State) (c core actor : Nat) : Nat :=
  (s.acts.filter fun x => x.1.ctx == c && x.1.core == core && x.2.actor == actor).length

/-- Does an actor admit an activation (R164)? -/
def State.admits (s : State) (c core actor : Nat) : Bool :=
  match s.actorAt c core actor with
  | none => false
  | some a => !a.dying && (if a.parallel then decide (s.runningOf c core actor < 8) else decide (s.runningOf c core actor = 0))

/-- Lowest-numbered free slot of a core. -/
def State.freeSlot (s : State) (c core : Nat) : Option Nat :=
  (List.range 8).find? fun i => (s.acts.look { ctx := c, core, slot := i }).isNone

/-- Is the context stopped for the NI of a core (R213)? -/
def State.stoppedAt (s : State) (c core : Nat) : Bool :=
  !(s.ctxAt c).running || (s.coreAt c core).stopped || (s.coreAt c core).stop.isSome

/-! ## Record and digest (R365-R367) -/

/-- The entry of an arrival in a record (R367). -/
def recordEntry (m : Msg) : Word := BitVec.ofNat 64 (m.src.toNat + m.seq.toNat <<< 32 + m.cls.toNat <<< 48)

/-- An arrival that the mailbox takes feeds its digest; in replay, the next entry is past; a refusal does neither (R366, R369). -/
def Mailbox.feed (b : Mailbox) (m : Msg) : Mailbox :=
  if m.cls = 15 then b
  else { b with digest := feedDigest b.digest ((msgBytes m).take 16) m.payload
                replay := b.replay.map fun r => (r.1 + 1, r.2.tail) }

/-- Writes bytes at physical addresses as strong accesses of a core's NI (R140). -/
def State.physWrite (s : State) (c core p : Nat) (bs : List Byte) : State :=
  let all := (List.range bs.length).map fun i => p + i
  bs.zipIdx.foldl (fun s b => s.physStore c core (s.physKey c (p + b.2)) (p + b.2) true (wholeSector all (p + b.2)) b.1) s

/-- The entry of an arrival goes to the ring that Pelson supplies, while it records the mailbox (R367; the ring's layout: DESIGN
CHOICE, notes/assumptions/74.md). -/
def State.recordArrival (s : State) (c core : Nat) (mb : BitVec 6) (m : Msg) : State :=
  let b := s.mbxAt c core mb
  match b.ring_ with
  | none => s
  | some (base, size) =>
    if m.cls = 15 ∨ size < 8 then s
    else (s.physWrite c core (base + 8 * (b.recorded % (size / 8))) (bytesLE 8 (recordEntry m).toNat)).modMbx c core mb fun x =>
      { x with recorded := x.recorded + 1 }

/-- A mailbox takes an arrival, where `on`; a message that leaves a bobbin has been fed before (R366). -/
def State.feed (s : State) (c core : Nat) (mb : BitVec 6) (on : Bool) (m : Msg) : State :=
  if on then (s.modMbx c core mb fun x => x.feed m).recordArrival c core mb m else s

/-- A delivery into the receive area of a core sets the dirty bits of its blocks: the manual gives the area no layout, so that every
one of them counts (R216; DESIGN CHOICE, notes/assumptions/36.md). -/
def State.dirtyReceive (s : State) (c core : Nat) : State :=
  s.modCore c core fun k => { k with dirty := k.dirty ||| ((BitVec.allOnes 32).setWidth 512 <<< 128) }

/-! ## The start of an activation (R172, R20) -/

/-- Does the activation of a message acquire at .die or wider: the scope of its release (R178), .pkg for a dispatch (R320) and
for a notice sent as a release (R220) and for what a port delivers, whose SRC is the AAD of a transmit queue (R360)? -/
def acquiresWide (m : Msg) : Bool :=
  m.rel && (m.node.isSome || m.cls == 14 || (decide (512 ≤ nodeOf (aadCore m.src) ∧ nodeOf (aadCore m.src) < 528) && aadMbx m.src == 63) || scopeWide (relScope (aadCore m.src) m.dst))

/-- The record of a new activation: the entry state of R20. Only the completion of a fold counts as started by a combining mailbox (R181,
cause 5), and not a message of class 14 or 15 that was queued there (DESIGN CHOICE, notes/assumptions/81.md). -/
def startAct (s : State) (c slot : Nat) (mb : BitVec 6) (a : Actor) (q : Queued) (pc : Word) (idem : Bool) : Act :=
  let m := q.m
  let pay := m.payload
  let word (i : Nat) : Word := BitVec.ofNat 64 (fieldLE pay (8 * i) 8)
  let wsp : Word := BitVec.ofNat 64 (2 ^ 55 + 4096 * slot)
  let g : Vector Word 32 := Vector.ofFn fun i : Fin 32 =>
    if i.val = 1 then msgWord0 m
    else if 2 ≤ i.val ∧ i.val ≤ 9 then word (i.val - 2)
    else if i.val = 10 then (if msgFlits m = 1 then 0 else wsp + 3840)
    else if i.val = 11 then m.src.setWidth 64
    else if i.val = 12 then a.stateBase
    else if i.val = 13 then (if a.parallel then a.stk - BitVec.ofNat 64 (slot * a.stksz) else a.stk)
    else 0
  let t := max s.cycle q.at_ + 6 + (msgFlits m - 1)
  { Act.blank with
    actor := mb.toNat / 4, mbx := mb, g
    main := { pc, fromDom := a.hdom, arrival := .handler, notBefore := t }
    flg := q.flags, hdr1 := msgWord1 m, msg := q, budget := (s.ctxAt c).hbud.toNat
    stale := if acquiresWide m then s.cycle else 0
    idem, byComb := q.comb, node := m.node, startAt := t }

/-- Writes the scratch and the long-payload area of a workspace (R20). -/
def State.fillWorkspace (s : State) (c core slot : Nat) (m : Msg) : State :=
  let pay := if msgFlits m = 1 then [] else m.payload
  s.writeClmBytes c core (4096 * slot + 3456) (List.replicate 384 0 ++ (pay ++ List.replicate 240 0).take 240)

/-- Starts the activation of a message of a mailbox in a slot of its core; under lockstitch also on the secondary (R350). One whose
handler entry has been set to 0 while it was queued starts at PC 0 (R172, R183; DESIGN CHOICE, notes/assumptions/77.md). -/
def State.startIn (s : State) (c core slot : Nat) (mb : BitVec 6) (q : Queued) : State :=
  let no := mb.toNat / 4
  match s.actorAt c core no with
  | none => s
  | some a =>
    let (pc, idem) := (a.handler (mb.extractLsb' 0 2) q.m.cls).getD (0, false)
    let place (s : State) (k : Nat) : State :=
      let a' := (s.actorAt c k no).getD a
      let x := startAct s c slot mb a' q pc idem
      ({ s with acts := s.acts.put { ctx := c, core := k, slot } x }).fillWorkspace c k slot q.m
    let s := (place s core).count c 0x0003
    match s.mate c core with
    | none => s
    | some k =>
      let s := place s k
      let t1 : SlotId := { ctx := c, core, slot }
      let t2 : SlotId := { ctx := c, core := k, slot }
      { s with seams := { primary := t1, secondary := t2 } :: s.seams.filter fun x => x.primary ≠ t1 }

/-! ## Bobbins (R170) -/

/-- A message from the 256 bytes of a bobbin entry. -/
def msgOfBytes (bs : List Byte) : Msg :=
  let w0 : Word := BitVec.ofNat 64 (fieldLE bs 0 8)
  let w1 : Word := BitVec.ofNat 64 (fieldLE bs 8 8)
  let len := (w0.extractLsb' 36 2).toNat + 1
  { dst := w0.extractLsb' 0 32, cls := w0.extractLsb' 32 4, col := w0.extractLsb' 38 2, seq := w0.extractLsb' 40 16,
    rel := w0.getLsbD 56, src := w1.extractLsb' 0 32, tag := w1.extractLsb' 32 32,
    payload := (bs.drop 16).take (64 * len - 16) }

/-- Writes bytes as strong accesses of the NI. -/
def State.niWrite (s : State) (c core : Nat) (a : Nat) (bs : List Byte) : State :=
  let all := (List.range bs.length).map fun i => a + i
  bs.zipIdx.foldl (fun s b =>
    let v := a + b.2
    match s.xlat c core v with
    | some e => s.globalWrite c core e.key v (e.phys v) true (wholeSector all v) b.1
    | none => s) (s.touchAll c core all)

/-- Reads bytes as strong accesses of the NI. -/
def State.niRead (s : State) (c core : Nat) : Nat → Nat → List Byte × State
  | _, 0 => ([], s)
  | a, n + 1 =>
    let (b, s) := match s.xlat c core a with
      | some e => let (b, _, s) := s.globalRead c core e.key a (e.phys a) true 0; (b, s)
      | none => (0, s)
    let (t, s) := State.niRead s c core (a + 1) n
    (b :: t, s)

/-- Payload of notice 0x000E and its like: CODE, REASON, the actor's AID, PC and INFO. -/
def niNotice (code reason : Nat) (aid : BitVec 48) (info : Word) : List Byte := noticeBytes code reason 0 0 aid 0 0 info

/-- Messages in a bobbin. -/
def Bobbin.count (b : Bobbin) : Nat := b.msgs.length

/-- The bytes of an entry (R170). -/
def entryOf (m : Msg) : List Byte := (msgBytes m ++ List.replicate 256 0).take 256

/-- A mailbox's bobbin is looked at in the next cycle. -/
def State.drainSoon (s : State) (c core : Nat) (mb : BitVec 6) : State :=
  let e := Instr.bobbinDrain c (aadOf core mb)
  if s.agenda.any fun x => x.2 == e then s else s.after 1 e

/-- A mailbox's bobbin is looked at in this cycle, unless it will be in the next one: one message leaves it in a cycle (R174). -/
def State.drainNow (s : State) (c core : Nat) (mb : BitVec 6) : State :=
  let e := Instr.bobbinDrain c (aadOf core mb)
  if s.agenda.any fun x => x.2 == e then s else s.now e

/-- A page of a bobbin does not translate: a walk is asked for, and the bobbin is looked at again in the next cycle (R170). -/
def State.bobbinWait (s : State) (c core : Nat) (mb : BitVec 6) (granule : Nat) : State :=
  (s.startWalk c (nodeOf core) granule .engine).drainSoon c core mb

/-- An arrival waits for a page of the bobbin of its mailbox, behind those that wait already. -/
def State.toLimbo (s : State) (c core : Nat) (mb : BitVec 6) (q : Queued) (how : Option (Bool × Bool)) : State :=
  s.modMbx c core mb fun x => { x with limbo := x.limbo ++ [(q, how)] }

/-- Arrivals on their way into a bobbin. -/
def Mailbox.onWay (b : Mailbox) : Nat := (b.limbo.filter fun e => e.2.isSome).length

/-- Does a bobbin hold messages that the NI has taken, or are some on their way into it? -/
def Mailbox.spilled (b : Mailbox) : Bool :=
  (match b.bobbin with | some x => x.msgs.any fun e => !e.held | none => false) ||
  b.limbo.any fun e => match e.2 with | some (_, held) => !held | none => false

/-- Appends a message to the bobbin of its mailbox (R170), as one that waits for its replay entry where `held`; with no bobbin it is
refused with `none_`, and a full one refuses it with 0x04. Where its page does not translate, it waits for a walk, and later ones wait
behind it (DESIGN CHOICE, notes/assumptions/56.md). A combining mailbox's bobbin drains by itself (R174). -/
def State.toBobbin (s : State) (c core : Nat) (mb : BitVec 6) (q : Queued) (none_ : Nat) (feed held : Bool) : State :=
  let x := s.mbxAt c core mb
  match x.bobbin with
  | none => s.refuse c core q.m none_
  | some b =>
    let a := b.entryAt (b.head + b.count)
    let missing := (s.xlat c core a).isNone
    if b.entries ≤ b.count + x.onWay then
      let aid := match s.actorAt c core (mb.toNat / 4) with | some a => a.aid | none => 0
      (s.refuse c core q.m 4).sysNotice c core (sysAad core) (niNotice 0x000E 0 aid ((aadOf core mb).setWidth 64))
    else if missing || !x.limbo.isEmpty then
      let s := s.toLimbo c core mb q (some (feed, held))
      if missing then s.bobbinWait c core mb (a / 65536) else s.drainSoon c core mb
    else
      let s := (((s.niWrite c core a (entryOf q.m)).modMbx c core mb fun x => { x with
        bobbin := some { b with msgs := b.msgs ++
          [{ order := q.order, at_ := q.at_, held, len := q.m.payload.length, node := q.m.node }] } }).feed c core mb feed q.m)
      if x.kind = .combining then s.drainSoon c core mb else s

/-- The first granule of the first n entries of a bobbin that does not translate (R170). -/
def State.bobbinGap (s : State) (c core : Nat) (b : Bobbin) (n : Nat) : Option Nat :=
  (((List.range n).map fun i => b.entryAt (b.head + i)).find? fun a => (s.xlat c core a).isNone).map (· / 65536)

/-- The message at a position of a bobbin, from its head; its page translates. The NI keeps the length of its payload and the graph node
of a dispatch beside it (R320, R365). -/
def State.bobbinMsg (s : State) (c core : Nat) (b : Bobbin) (i : Nat) : Queued × State :=
  let a := b.entryAt (b.head + i)
  let (bs, s) := (s.touchTlb c core a).niRead c core a 256
  let m := msgOfBytes bs
  let x := (b.msgs[i]?).getD { order := 0, at_ := 0, held := false }
  ({ m := { m with node := x.node, payload := m.payload.take x.len }, order := x.order, at_ := x.at_ }, s)

/-- The messages of a bobbin, in order. -/
def State.bobbinMsgs (s : State) (c core : Nat) (b : Bobbin) : List Queued × State :=
  (List.range b.count).foldl (fun (acc : List Queued × State) i =>
    let (q, s) := acc.2.bobbinMsg c core b i
    (acc.1 ++ [q], s)) ([], s)

/-- Takes the message at a position out of a bobbin: the head moves on, or the later ones move up. -/
def State.bobbinRemove (s : State) (c core : Nat) (mb : BitVec 6) (b : Bobbin) (i : Nat) : State :=
  let s := if i = 0 then s else
    let (l, s) := s.bobbinMsgs c core b
    (l.zipIdx.drop (i + 1)).foldl (fun s (m : Queued × Nat) => s.niWrite c core (b.entryAt (b.head + m.2 - 1)) (entryOf m.1.m)) s
  s.modMbx c core mb fun x => { x with
    bobbin := some { b with head := if i = 0 then (b.head + 1) % b.entries else b.head, msgs := b.msgs.eraseIdx i } }

/-- Looks at the bobbins of a core again. -/
def State.drainCore (s : State) (c core : Nat) : State :=
  s.mbxs.foldl (fun s (x : (Nat × Nat × BitVec 6) × Mailbox) =>
    if x.1.1 = c ∧ x.1.2.1 = core ∧ x.2.spilled then s.drainNow c core x.1.2.2 else s) s

/-! ## Combining (R174, R185) -/

/-- Has the notice reserve room for a message? -/
def State.reserveRoom (s : State) (c core : Nat) (m : Msg) : Bool := decide (s.reserveUsed c core + msgFlits m ≤ 32)

/-- Puts a message into the notice reserve, under rule 6 of R169; without room it goes to the bobbin, and with no bobbin it
is dropped. -/
def State.toReserve (s : State) (c core : Nat) (mb : BitVec 6) (q : Queued) (feed : Bool) : State :=
  let x := s.mbxAt c core mb
  if s.reserveRoom c core q.m then
    (((s.modMbx c core mb fun x => { x with reserve := x.reserve ++ [q] }).feed c core mb feed q.m).dirtyReceive c core).now
      (.activationStart c core)
  else if x.bobbin.isSome then s.toBobbin c core mb q 1 feed false
  else s.modMbx c core mb fun x => { x with drop := min 3 (x.drop + 1) }

/-- A pair (m, s) of R120 as a 64-bit word, folded under RNE; `f` is PMERGE's pair operation. -/
def foldWord (pm : Word → Word → Word × BitVec 5) (op : ArmOp) (acc x : Word) : Word × BitVec 5 :=
  match op with
  | .add => (acc + x, 0)
  | .max u => (if (if u then acc.ult x else acc.slt x) then x else acc, 0)
  | .min u => (if (if u then x.ult acc else x.slt acc) then x else acc, 0)
  | .pmerge => pm acc x

/-- Folds a message into an armed combining mailbox; at the count, it queues the completion (R174). -/
def State.foldIn (s : State) (pm : Word → Word → Word × BitVec 5) (c core : Nat) (mb : BitVec 6) (q : Queued) : State :=
  let b := (s.mbxAt c core mb).comb
  let (acc, fl) := foldWord pm b.op b.acc (BitVec.ofNat 64 (fieldLE q.m.payload 0 8))
  let fl := b.flags ||| fl
  if b.left ≤ 1 then
    let s := s.modMbx c core mb fun x => { x with comb := { b with armed := false, acc, left := 0, flags := 0 } }
    s.toReserve c core mb { q with
      m := { q.m with payload := bytesLE 8 acc.toNat ++ bytesLE 8 b.count }
      flags := fl, comb := true } false
  else s.modMbx c core mb fun x => { x with comb := { b with acc, left := b.left - 1, flags := fl } }

/-! ## Kills (R177) -/

/-- Undoes a tack log, youngest entry first. -/
def State.undoTack (s : State) (c core : Nat) : List (Nat × Word) → State
  | [] => s
  | (i, w) :: t => State.undoTack (s.writeClmBytes c core (8 * i) (bytesLE 8 w.toNat)) c core t

/-- Is an event one of the activation in a slot? Such events go with it, since the slot's next activation starts anew. -/
def ofSlot (t : SlotId) : Instr → Bool
  | .outboundRelease u | .storeCheck u _ | .budgetKill u | .uncorrectableErrorKill u | .waitcComplete u _ | .cbwaitComplete u _
  | .streamFetch u _ | .seamCheck u _ _ => u == t
  | _ => false

/-- The queues of a core that hold commands of an issuer which is gone are looked at again: the stores that they waited for are gone
with it (R248, R250, R268). -/
def State.kickQueues (s : State) (t : SlotId) (k : CoreCtx) : State :=
  let own (e : EngCmd) : Bool := e.owner == some t
  let s := if k.tile.any fun e => e.owner == some t then s.now (.matrixStep t.ctx (nodeOf t.core)) else s
  let s := if k.copyQ.any own then s.now (.engineCommandComplete t.ctx t.core false) else s
  if k.gatherQ.any own then s.now (.engineCommandComplete t.ctx t.core true) else s

/-- Frees a slot: its activation goes and leaves its workspace in CLM (R15), with the block of its record written (R216), windows onto
it close, its engine commands lose their issuer, its arrivals at barriers are withdrawn, and the NI looks for the next message (R157,
R172, R271, R281). -/
def State.freeAct (s : State) (t : SlotId) : State :=
  match s.acts.look t with
  | none => s
  | some a =>
    let shut (x : Act) : Act := if x.win = some t then { x with win := none } else x
    let s := { s with acts := (s.acts.del t).map fun (x : SlotId × Act) => (x.1, shut x.2)
                      agenda := s.agenda.filter fun e => !ofSlot t e.2 }
    let orphan (e : EngCmd) : EngCmd := if e.owner = some t then { e with owner := none } else e
    let s := s.kickQueues t (s.coreAt t.ctx t.core)
    let s := s.modCore t.ctx t.core fun k =>
      { k with dirty := k.dirty ||| ((a.dirtyWs ||| 0x2000).setWidth 512 <<< (16 * t.slot))
               left := k.left.put t.slot a
               copyQ := k.copyQ.map orphan
               tile := k.tile.map fun e => if e.owner = some t then { e with owner := none } else e
               gatherQ := k.gatherQ.map orphan }
    let withdraw (b : Barrier) : Barrier := { b with holders := b.holders.filter (fun h => h.1 ≠ t), opening := b.opening.filter fun h => h.2.1 ≠ t }
    let s := s.modCl t.ctx (nodeOf t.core) fun k => { k with barriers := k.barriers.map withdraw }
    let s := { s with seams := s.seams.filter fun x => x.primary ≠ t ∧ x.secondary ≠ t }
    let s := s.now (.activationStart t.ctx t.core)
    if (s.coreAt t.ctx t.core).stop.isSome then s.now (.stopComplete t.ctx t.core) else s

/-! ## Mailboxes that go (R183, R231) -/

/-- Refuses the messages of a bobbin that is closing with reason 0x03, in its order, up to one whose page does not translate; by fuel. -/
def closeFuel : Nat → State → Nat → Nat → Bobbin → Bobbin × State
  | 0, s, _, _, b => (b, s)
  | n + 1, s, c, core, b =>
    match b.msgs with
    | [] => (b, s)
    | x :: t =>
      if (s.xlat c core (b.entryAt b.head)).isNone then (b, s)
      else
        let (q, s) := s.bobbinMsg c core b 0
        let s := s.refuse c core q.m 3
        closeFuel n (if x.held then s.msgTaken c q.m else s) c core { b with head := (b.head + 1) % b.entries, msgs := t }

/-- A stream that MBCFG.off holds goes on once no message of its mailbox is left to be refused (R183). -/
def State.wakeClosing (s : State) (c core : Nat) : State :=
  s.acts.foldl (fun s (x : SlotId × Act) =>
    if x.1.ctx = c ∧ x.1.core = core then
      [Stream.main, .access].foldl (fun s t => match (x.2.str t).wait with
        | .closing mb => if (s.coreAt c core).closing.any fun y => y.mbx == mb then s else { s.goOn x.1 t with cur := s.cur }
        | _ => s) s
    else s) s

/-- Goes on with one bobbin that is closing: what is left of it waits for a walk of its first page, and is looked at again in the next
cycle; behind its messages, those that were on their way into it are refused. -/
def State.closeOne (s : State) (c core : Nat) (x : Closing) : State :=
  let (b, s) := closeFuel x.bob.count s c core x.bob
  if b.msgs.isEmpty then x.late.foldl (fun s m => (s.refuse c core m 3).msgTaken c m) s
  else (s.modCore c core fun k => { k with closing := k.closing ++ [{ x with bob := b }] }).bobbinWait c core x.mbx (b.entryAt b.head / 65536)

/-- Goes on with the bobbins of a core that are closing, while its context runs there (R183, R231). -/
def State.closeBobbins (s : State) (c core : Nat) : State :=
  let l := (s.coreAt c core).closing
  if l.isEmpty || !(s.ctxAt c).running || (s.coreAt c core).stopped then s
  else (l.foldl (fun s x => s.closeOne c core x) (s.modCore c core fun k => { k with closing := [] })).wakeClosing c core

/-- Pelson will not map a page of bobbins that are closing: their messages in it are lost (DESIGN CHOICE,
notes/assumptions/56.md). -/
def State.loseClosing (s : State) (c cl g : Nat) : State :=
  (List.range 8).foldl (fun s i =>
    if (s.coreAt c (8 * cl + i)).closing.isEmpty then s
    else
      let lose (x : Closing) : Closing :=
        let n := ((List.range x.bob.count).takeWhile fun j => x.bob.entryAt (x.bob.head + j) / 65536 == g).length
        { x with bob := { x.bob with head := (x.bob.head + n) % x.bob.entries, msgs := x.bob.msgs.drop n } }
      (s.modCore c (8 * cl + i) fun k => { k with closing := k.closing.map lose }).closeBobbins c (8 * cl + i)) s

/-- A mailbox refuses what it holds with reason 0x03 (R183, R231): messages put back by a kill, before the others and whatever their class
(R177; DESIGN CHOICE, notes/assumptions/81.md), the ring, the notice reserve, of which the messages of classes 14 and 15 are dropped, then
the bobbin and the arrivals that wait for a page of it, each message once its page translates. What it frees of the reserve may let other
bobbins drain. -/
def State.refuseAll (s : State) (c core : Nat) (mb : BitVec 6) : State :=
  let x := s.mbxAt c core mb
  let s := s.modMbx c core mb fun x => { x with ring := [], put := [], reserve := [], limbo := [], bobbin := none }
  let s := (x.put ++ x.ring).foldl (fun s q => s.refuse c core q.m 3) s
  let s := x.reserve.foldl (fun s q =>
    if q.m.cls = 14 then s.droppedNotice c core q.m else if q.m.cls = 15 then s else s.refuse c core q.m 3) s
  let late := x.limbo.map (·.1.m)
  let s := match x.bobbin with
    | none => late.foldl (fun s m => (s.refuse c core m 3).msgTaken c m) s
    | some bob => (s.modCore c core fun k => { k with closing := k.closing ++ [{ mbx := mb, bob, late }] }).closeBobbins c core
  if x.reserve.isEmpty then s else s.drainCore c core

/-- Ends an actor: its mailboxes refuse what they hold, and it is gone (R231). -/
def State.endActor (s : State) (c core no : Nat) : State :=
  let s := (List.range 4).foldl (fun s i =>
    let mb := BitVec.ofNat 6 (4 * no + i)
    { s.refuseAll c core mb with mbxs := (s.refuseAll c core mb).mbxs.del (c, core, mb) }) s
  { s with actors := s.actors.del (c, core, no) }

/-- Frees a slot, and ends its actor when KILL has marked it and this was its last activation. -/
def State.leaveSlot (s : State) (t : SlotId) : State :=
  match s.acts.look t with
  | none => s
  | some a =>
    let s := s.freeAct t
    match s.actorAt t.ctx t.core a.actor with
    | some x =>
      if x.dying ∧ s.runningOf t.ctx t.core a.actor = 0 then
        let s := s.endActor t.ctx t.core a.actor
        match s.mate t.ctx t.core with
        | some k => { s with actors := s.actors.del (t.ctx, k, a.actor) }
        | none => s
      else s
    | none => s

/-- Kills an activation (R177): nothing is released, the tack log is undone, the slot is freed. -/
def State.killOne (s : State) (t : SlotId) : State :=
  match s.acts.look t with
  | none => s
  | some a => ((s.undoTack t.ctx t.core a.tack).count t.ctx 0x0004).leaveSlot t

/-- The other copy of an activation in lockstitch. -/
def State.copyOf (s : State) (t : SlotId) : Option SlotId :=
  s.seams.findSome? fun x => if x.primary = t then some x.secondary else if x.secondary = t then some x.primary else none

/-- Kills an activation, and its copy under lockstitch (R212, R231). -/
def State.killBoth (s : State) (t : SlotId) : State :=
  match s.copyOf t with
  | none => s.killOne t
  | some u => (s.killOne t).killOne u

/-- Is the activation retryable (R177)? -/
def Act.retryable (a : Act) : Bool := !a.ecom && (!a.issued || a.idem)

/-- The dead letter of an activation (R177). -/
def deadLetter (a : Act) (aid : BitVec 48) (slot : Nat) (dom : BitVec 6) (cause : Nat) : List Byte :=
  noticeBytes 0x000F cause (slotByte slot .main) dom aid a.main.pc 0 0 ++ (msgBytes a.msg.m ++ List.replicate 64 0).take 64

end Sys2Proof.Machine
end

