-- ==== Sys2Proof/Machine/Control.lean ====
section
/-! DEFINITION. Branches, calls and loops (R82, R83), END (R84), and the access stream (R85-R87). -/

namespace Sys2Proof.Machine

/-- BR (R82). -/
def execBr (h : Hdr) (off : BitVec 32) (s : State) : Host.Outcome State Fault Refusal :=
  control h s (asks fun s => relPc s.pc off)

/-- BRX (R82). -/
def execBrx (h : Hdr) (b : GQ) (s : State) : Host.Outcome State Fault Refusal := control h s (readG b)

/-- CALL (R82): the link goes to g15. -/
def execCall (h : Hdr) (off : BitVec 32) (s : State) : Host.Outcome State Fault Refusal :=
  control h s do
    let pc ← asks State.pc
    writeReg 15 (nextPc pc)
    pure (relPc pc off)

/-- CALLX (R82): gb is read before g15 is written. -/
def execCallx (h : Hdr) (b : GQ) (s : State) : Host.Outcome State Fault Refusal :=
  control h s do
    let t ← readG b
    let pc ← asks State.pc
    writeReg 15 (nextPc pc)
    pure t

/-- RET (R82). -/
def execRet (h : Hdr) (b : GQ) (s : State) : Host.Outcome State Fault Refusal := control h s (readG b)

/-- LOOP (R82). -/
def execLoop (h : Hdr) (a : BitVec 5) (off : BitVec 32) (s : State) : Host.Outcome State Fault Refusal :=
  control h s do
    let x ← readReg a
    let pc ← asks State.pc
    let y := if x = 0 then 0 else x - 1
    if x ≠ 0 then writeReg a y
    pure (if y ≠ 0 then relPc pc off else nextPc pc)

/-- Stream fault with a cause (R87). -/
def streamFault (cause : Nat) : Notice := { code := 0x0005, info := BitVec.ofNat 64 cause }

/-- Domain fault with a cause (R208). -/
def domainFault (cause : Nat) (info : Word := 0) : Notice := { code := 0x0012, reason := cause, info }

/-- Are all queue registers of an activation empty? -/
def Act.queuesEmpty (a : Act) : Bool := a.qg.toList.all List.isEmpty && a.qv.toList.all List.isEmpty

/-- An END that waits for its conditions may issue again. -/
def State.wakeEnding (s : State) (t : SlotId) : State :=
  s.modActAt t fun a => if a.main.wait = .ending then { a with main := { a.main with wait := .ready } } else a

/-- END (R84): by the access stream, with a record in the thimble, or with entries that nothing can pop, it faults; it waits
for the access stream and for the checks, and also for a checked local store of an access stream that has ended while a pending-read
range still holds it (R254; DESIGN CHOICE, notes/assumptions/81.md); then the buffer is released and the slot becomes free, in one
step. -/
def execEndAct (h : Hdr) (s : State) : Host.Outcome State Fault Refusal :=
  guarded h s <|
    let a := s.act
    if s.cur.stream = .access then .next (s.park (streamFault 1))
    else if !a.thimble.isEmpty then .next (s.park (domainFault 5))
    else if a.strm then .next (s.waitOn .ending)
    else if !a.queuesEmpty then .next (s.park (streamFault 4))
    else if !a.checks.isEmpty || a.storeFault then .next (s.waitOn .ending)
    else .next ((((s.waitOn .ended).issueCycle h.yld).count s.cctx 0x0002).now (.outboundRelease s.cur.sid))

/-- ASFORK (R85). -/
def execAsfork (h : Hdr) (off : BitVec 32) (s : State) : Host.Outcome State Fault Refusal :=
  instr h s do
    check (!(← asks fun s => s.act.strm)) (streamFault 2)
    change fun s => s.modAct fun a =>
      { a with strm := true
               acc := { pc := relPc s.pc off, fromDom := s.cur.dom, arrival := .transfer, lastPc := s.pc,
                        notBefore := s.cycle + 3, issuedAt := some s.cycle, fresh := true } }

/-- AEND (R86). -/
def execAend (h : Hdr) (s : State) : Host.Outcome State Fault Refusal :=
  guarded h s <|
    if s.cur.stream = .main then .next (s.park (streamFault 3))
    else .next (((s.retireTo h 0).modAct fun a => { a with strm := false }).wakeEnding s.cur.sid)

end Sys2Proof.Machine
end

