-- ==== Sys2Proof/Machine/Fetch.lean ====
section
/-! DEFINITION. Fetching an instruction: code lines (R35), the entry rule (R195, R196), breakpoints (R226), and the
choice of the candidate that issues (R44, R33). -/

namespace Sys2Proof.Machine

/-- What a fetch gives. -/
inductive Fetched where
  | word (dom : BitVec 6) (w : IWord)
  | fault (n : Notice)
  | walk (granule : Nat)
  deriving DecidableEq, Repr

/-- Notice of an illegal fetch (R35, R41). -/
def illegalFetch (pc : Word) : Fetched := .fault { code := 0x0002, info := pc, pc := some pc, word := some 0 }

/-- Notice of an entry fault (R196). Of a page that Pelson refuses to map no word can be read, and WORD is zero for cause 6 as well
(DESIGN CHOICE, notes/assumptions/81.md). -/
def entryFault (cause : Nat) (dom : BitVec 6) (pc : Word) (w : IWord) (src : Word) : Fetched :=
  .fault { code := 0x0010, reason := cause, info := src, pc := some pc, word := some w, dom := some dom }

/-- Does the entry rule apply to a fetch (R195)? -/
def entryApplies (src tgt : BitVec 6) : Arrival → Bool
  | .retd => false
  | .calld => true
  | _ => src != tgt

/-- Does an ENTRY admit the arrival: any by CALLD, J for a transfer, H for a handler start (R194)? -/
def entryAdmits (w : IWord) : Arrival → Bool
  | .handler => w.getLsbD 1
  | .transfer => w.getLsbD 0
  | _ => true

/-- The first cause of R196 for a fetched word, if there is one. -/
def Ctx.entryCause (x : Ctx) (src tgt : BitVec 6) (arr : Arrival) (w : IWord) : Option Nat :=
  if !entryApplies src tgt arr then none
  else if w.extractLsb' 88 8 ≠ 0xC0 then some 1
  else if !entryAdmits w arr then some 2
  else if !(x.right src tgt).getLsbD 3 then some 3
  else none

/-- Fetches the word at `pc` for an arrival from a domain; `last` is the transferring or preceding instruction. The line comes from
the instruction caches (R36). An address above the global space counts as local (DEDUCED, notes/assumptions/12.md). `no` is a granule
that Pelson has refused to map for the stream (R311), `given` the translation that its walk has found (R312). -/
def State.fetch (s : State) (c core : Nat) (src : BitVec 6) (arr : Arrival) (last pc : Word) (no : Option Nat)
    (given : Option TlbEntry) : Fetched × State :=
  let a := pc.toNat
  let info : Word := match arr with | .handler => 0 | _ => last
  if 120 ≤ a % 128 ∨ a % 128 % 12 ≠ 0 then (illegalFetch pc, s)
  else if 2 ^ 55 ≤ a then (entryFault 5 src pc 0 info, s)
  else
    match s.xlatOr given c core a with
    | none => (if no = some (a / 65536) then entryFault 6 src pc 0 info else .walk (a / 65536), s)
    | some e =>
      let p := e.phys a
      let (bs, t) := (s.touchTlb c core a).codeLine c core e.key (p / 128)
      let w := BitVec.ofNat 96 (fieldLE bs (p % 128) 12)
      let found : Fetched :=
        match (s.ctxAt c).entryCause src e.dom arr w with
        | some n => if e.x && fieldLE bs 120 8 != 0 then illegalFetch pc else entryFault n src pc w info
        | none =>
          if !e.x then entryFault 4 src pc 0 info
          else if fieldLE bs 120 8 ≠ 0 then illegalFetch pc
          else .word e.dom w
      (found, t)

/-- The lowest breakpoint that matches an instruction (R226). -/
def State.breakpointAt (s : State) (c : Nat) (aid : BitVec 48) (t : Stream) (pc : Word) : Option Nat :=
  (List.range 8).find? fun i =>
    let b := ((s.ctxAt c).bps[i]?).getD {}
    b.flags.getLsbD 0 && (b.flags.getLsbD 1 || b.aid == aid) &&
    b.flags.getLsbD (match t with | .main => 2 | .access => 3) &&
    decide (b.index.toNat = (indexOf pc).toNat)

/-! ## Which candidate issues (R44) -/

/-- Does a store of an activation wait on the fault queue in its check? -/
def State.storeWaits (s : State) (t : SlotId) (a : Act) : Bool :=
  a.checks.any fun p => match p.waits with
    | some g => (s.walkSeq t.ctx (nodeOf t.core) g).isSome
    | none => false

/-- Does an activation count as waiting on the fault queue at a stop (R214; DEDUCED, notes/assumptions/39.md)? -/
def State.faultWaiting (s : State) (t : SlotId) (a : Act) : Bool :=
  let on (x : StreamSt) : Bool := match x.wait with
    | .fault .. => true
    | .ending | .draining _ => s.storeWaits t a
    | .closing mb => (s.coreAt t.ctx t.core).closing.any fun x =>
        x.mbx == mb && (s.walkSeq t.ctx (nodeOf t.core) (x.bob.entryAt x.bob.head / 65536)).isSome
    | _ => false
  on a.main || (a.strm && on a.acc)

/-- Has a stream a store that is held by a pending-read range, which holds the stream (R254)? -/
def Act.holdsStore (a : Act) (x : Stream) : Bool := a.checks.any fun p => p.held && p.stream == x

/-- Is a stream of a slot a candidate that may request issue in this cycle? -/
def State.eligible (s : State) (t : SlotId) (x : Stream) : Bool :=
  match s.acts.look t with
  | none => false
  | some a =>
    !a.park && (x == .main || a.strm) && ((a.str x).wait == .ready || (a.str x).answer.isSome) && !a.holdsStore x && decide ((a.str x).notBefore ≤ s.cycle) &&
    (s.ctxAt t.ctx).running && !(s.coreAt t.ctx t.core).stopped && (s.blocked.look (t, x)).isNone &&
    !((s.coreAt t.ctx t.core).stop.isSome && s.faultWaiting t a)

/-- The first candidate of a core's rotation that may request issue. -/
def State.firstOf (s : State) (c core : Nat) : Option (SlotId × Stream) :=
  (s.hwAt core).rot.findSome? fun r =>
    let t : SlotId := { ctx := c, core, slot := r.1.toNat }
    if s.eligible t r.2 then some (t, r.2) else none

/-- Is the word that a candidate has fetched a KILL? It issues behind the other cores' instructions of its cycle, so that an END of
that cycle completes first (R234). -/
def State.late (s : State) (r : SlotId × Stream) : Bool :=
  match s.acts.look r.1 with
  | some a => (match (a.str r.2).fetched with | some (_, w) => w.extractLsb' 88 8 == 0xFA | none => false)
  | none => false

/-- The first candidate that a test admits, on a core that has not issued in this cycle. -/
def State.candidateWith (s : State) (ok : SlotId × Stream → Bool) : Option (SlotId × Stream) :=
  s.acts.findSome? fun x => if s.issued.contains x.1.core then none else (s.firstOf x.1.ctx x.1.core).filter ok

/-- The next candidate, on a core that has not issued in this cycle. -/
def State.nextCandidate (s : State) : Option (SlotId × Stream) :=
  (s.candidateWith fun r => !s.late r).or (s.candidateWith fun _ => true)

/-- What the issue logic finds for a candidate. -/
inductive Found where
  /-- the instruction to execute, with the state in which it is executed -/
  | run (i : Instr) (s : State)
  /-- nothing is executed: the activation has parked, or the stream is held or waits -/
  | state (s : State)
  deriving DecidableEq, Repr

/-- Does RDY still hold the instruction back (R33)? -/
def State.early (s : State) (i : Instr) : Bool :=
  match i.hdr?, (s.act.str s.cur.stream).issuedAt with
  | some h, some t => decide (s.cycle < t + h.rdy.toNat)
  | _, _ => false

/-- General registers that an instruction reads or writes beside those of its operand fields: the link of a call (R82), and the
registers of a payload (R180). -/
def moreRegs : Instr → List (BitVec 5)
  | .call .. | .callx .. => [15]
  | .send _ _ _ (.regs (.g b) n) _ _ | .reply _ _ (.regs (.g b) n) _ _ => (List.range n.toNat).map fun i => b + BitVec.ofNat 5 i
  | _ => []

/-- Does an instruction name a general register that the other stream's GSUB or CBWAIT, issued before it, has still to write (R42)? An
instruction whose guard is false does not wait. (A push to a queue register waits where it is made.) -/
def Act.awaits (a : Act) (x : Stream) (w : IWord) (i : Instr) : Bool :=
  match a.owed x with
  | some (.g r) => a.guardOk (w.extractLsb' 84 4) && (moreRegs i ++ [(unpack w).fa, (unpack w).fb, (unpack w).fc].filterMap fun f =>
      if scls f = 0 then some ((sidx f).setWidth 5) else none).contains r
  | _ => false

/-- Fetches and decodes the next instruction of a candidate (R35, R39, R195, R226). An instruction that has been fetched and is held
keeps its DOM (R192). The DOM of notice 0x0002, of which no instruction is fetched, is the from-domain (DESIGN CHOICE,
notes/assumptions/73.md). -/
def State.findInstr (s : State) (t : SlotId) (x : Stream) : Found :=
  match s.acts.look t with
  | none => .state s
  | some a =>
    let y := a.str x
    let s1 := { s with cur := { sid := t, stream := x, dom := y.fromDom, word := 0 } }
    let (got, s1) : Fetched × State := match y.fetched with
      | some (dom, w) => (.word dom w, s1)
      | none => s1.fetch t.ctx t.core y.fromDom y.arrival y.lastPc y.pc y.refused y.given
    match got with
    | .walk g => .state (s1.waitGranule g .fetch)
    | .fault n => .state (s1.park n)
    | .word dom w =>
      let s2 := ({ s1 with cur := { s1.cur with dom, word := w } } : State).modAct fun a =>
        a.setStr x { a.str x with fetched := some (dom, w) }
      match decodeWord w with
      | .error r => .state (s2.park { code := 0x0001, reason := r.code.toNat })
      | .ok i =>
        match (if y.skipBp || y.answer.isSome then none else s2.breakpointAt t.ctx (match s2.cactor? with | some k => k.aid | none => 0) x y.pc) with
        | some n => .state (s2.park { code := 0x0011, info := BitVec.ofNat 64 n, toDebug := true })
        | none =>
          if y.answer.isNone && (s2.early i || s2.act.awaits x w i) then .state (s2.hold 14)
          else if s2.late (t, x) && (s2.candidateWith fun r => r.1.core != t.core && !s2.late r).isSome then .state s2
          else .run i s2

/-! ## Events -/

/-- Does an event come behind the instructions of its cycle: a submission that reaches the graph unit, behind a GSIG of the same cycle
(R316, R331)? -/
def behindIssue : Instr → Bool
  | .nodeAccept .. => true
  | _ => false

/-- The first event of an agenda that is due and that a test admits, with the agenda that no longer holds it. -/
def takeDue (now : Nat) (ok : Instr → Bool) : List (Nat × Instr) → Option (Instr × List (Nat × Instr))
  | [] => none
  | (d, i) :: t =>
    if now < d then none
    else if ok i then some (i, t)
    else (takeDue now ok t).map fun r => (r.1, (d, i) :: r.2)

/-- The earliest event that is due before the instructions of the cycle, with the state that no longer holds it. -/
def State.dueEvent (s : State) : Option (Instr × State) :=
  (takeDue s.cycle (fun i => !behindIssue i) s.agenda).map fun r => (r.1, { s with agenda := r.2 })

/-- The earliest event that is due behind them. -/
def State.lastEvent (s : State) : Option (Instr × State) :=
  (takeDue s.cycle behindIssue s.agenda).map fun r => (r.1, { s with agenda := r.2 })

/-! ## A word placed as the next instruction (DESIGN CHOICE, notes/assumptions/6.md) -/

/-- Page of the placed word. -/
def placedPage : Nat := 0x200000

/-- Slot of the placed activation. -/
def placedSlot : SlotId := { ctx := 1, core := 0, slot := 0 }

/-- Its actor. -/
def placedActor : Actor where
  aid := 1
  group := 1
  parallel := false
  priv := true
  stateBase := 0
  stk := 0
  stksz := 0
  ret := 0
  hdom := 0
  owner := 0
  handlers := []

/-- A running context 1 on the whole package with one privileged activation, in slot 0 of core 0, whose next instruction
is a word of `nbits` bits; nothing else falls due before it, and no cache holds older code. -/
def State.placeWord (s : State) (_nbits w : Nat) : State :=
  let start : StreamSt := { pc := BitVec.ofNat 64 (placedPage * 65536), fromDom := 0, arrival := .handler }
  let a : Act := { Act.blank with main := start, budget := 32768 }
  let e : TlbEntry :=
    { ctx := 1, bits := 16, vpage := placedPage, ppage := 0, r := true, w := false, x := true, dom := 0, key := 0 }
  let s := { s with
    power := .booted, agenda := [], blocked := [], issued := []
    mem := (bytesLE 12 w).zipIdx.foldl (fun (m : Memory) (b : Byte × Nat) => m.write b.2 b.1)
      ((List.range 8).foldl (fun (m : Memory) (k : Nat) => m.write (120 + k) 0) s.mem)
    acts := (placedSlot, a) :: s.acts.filter fun x => x.1 ≠ placedSlot
    actors := s.actors.put (1, 0, 0) placedActor
    ctxs := s.ctxs.put 1 { running := true }
    coreCtx := s.coreCtx.put (1, 0) {} }
  (s.modHw 0 fun k => { k with rot := rotReset, tlb := e :: k.tlb, icache := [] }).modClHw 0 fun k => { k with icache := [], slice := [] }

end Sys2Proof.Machine
end

