-- ==== Sys2Proof/Machine/Domains.lean ====
section
/-! DEFINITION. Domain instructions: ENTRY, CALLD, RETD, LEND, UNLEND, DOMQ (R194-R208), and the thimble (R198). -/

namespace Sys2Proof.Machine

/-- ENTRY reached in sequence (R194): the entry rule has been checked by its fetch. -/
def execEntry (h : Hdr) (_j _hs : Bool) (s : State) : Host.Outcome State Fault Refusal := instr h s (pure ())

/-! ## The thimble in CLM (R198) -/

/-- Base and flag bytes of a window. -/
def winBytes : Option Window → List Byte
  | none => List.replicate 8 0
  | some w => bytesLE 7 w.base.toNat ++ [BitVec.ofBool w.write ++ 1#1 ++ w.ldom]

/-- Length of a window in 40 bits: 2^40 is held as 0. -/
def winLen : Option Window → List Byte
  | none => List.replicate 5 0
  | some w => bytesLE 5 w.len

/-- The 48 bytes of a record. -/
def ThimbleRec.bytes (r : ThimbleRec) : List Byte :=
  bytesLE 8 r.rpc.toNat ++ bytesLE 8 r.sp.toNat ++ winBytes r.w0 ++ winBytes r.w1 ++ winLen r.w0 ++ winLen r.w1 ++
  bytesLE 1 r.cdom.toNat ++ bytesLE 1 r.edom.toNat ++ List.replicate 4 0

/-- The blocks of the descriptor area, which holds depths and pending windows, become dirty (R198, R216). -/
def State.dirtyDesc (s : State) : State :=
  (List.range 4).foldl (fun s i => s.dirtyClm s.cctx s.ccore (44032 + 256 * i)) s

/-- Writes the top record of the present activation to its place in CLM. -/
def State.writeTop (s : State) : State :=
  match s.act.thimble with
  | [] => s
  | r :: t => s.writeClmBytes s.cctx s.ccore (40960 + 384 * s.cur.sid.slot + 48 * t.length) r.bytes

/-! ## CALLD and RETD -/

/-- The target's first instruction issues `n` cycles after this one at the earliest (R207). -/
def State.delayNext (s : State) (t : Stream) (at_ n : Nat) : State :=
  s.modAct fun a => a.setStr t { a.str t with notBefore := at_ + n }

/-- Checks that CALLD and RETD share (R199, R200). -/
def callChecks : M Unit := do
  check (← asks fun s => s.cur.stream == .main) (streamFault 5)
  check (← asks fun s => !s.act.strm) (domainFault 4)

/-- The domain and the word of a CALLD's target, when its fetch passes (R195, R199, R83). -/
def calldFetch (t : Word) : M (BitVec 6 × IWord) := fun s =>
  let x := s.act.str s.cur.stream
  match s.fetch s.cctx s.ccore s.cur.dom .calld s.pc t x.refused x.given with
  | (.word dom w, s) => .ok ((dom, w), s)
  | (.fault n, _) => .error (.park { n with pages := if codeAligned t then [t.toNat] else [] })
  | (.walk g, _) => .error (.walk g .fetch)

/-- Pushes a record with the pending windows. -/
def State.pushThimble (s : State) (r : ThimbleRec) : State :=
  (s.modAct fun a => { a with thimble := r :: a.thimble, pend0 := none, pend1 := none }).writeTop.dirtyDesc

/-- The instruction at which a stream goes on has been fetched already, and keeps its DOM (R192). -/
def State.keepFetched (s : State) (t : Stream) (f : BitVec 6 × IWord) : State :=
  s.modAct fun a => a.setStr t { a.str t with fetched := some f }

/-- CALLD (R199): the target's fetch is its first instruction's. -/
def execCalld (h : Hdr) (t : CalldTgt) (s : State) : Host.Outcome State Fault Refusal :=
  guarded h s <| runM s
    (do
      callChecks
      let a ← asks State.act
      check (decide (a.thimble.length < 8)) (domainFault 1)
      let pc ← asks State.pc
      let x ← match t with
        | .off imm => pure (relPc pc imm)
        | .reg b => readG b
      let f ← calldFetch x
      let cdom ← asks fun s => s.cur.dom
      change fun s => s.pushThimble { rpc := nextPc pc, sp := a.getG 13, w0 := a.pend0, w1 := a.pend1, cdom, edom := f.1 }
      pure (x, f))
    fun r t => ((t.retireTo h r.1 .calld).delayNext s.cur.stream s.cycle 4).keepFetched s.cur.stream r.2

/-- Is an engine or tile command of the present activation that recorded a window still to complete (R205)? Windows of different
LENDs are different ones. The source of a put, which a port reads later (R359), is not waited for: it has no number on a counter of R205
(DESIGN CHOICE, notes/assumptions/81.md). -/
def State.windowBusy (s : State) (w : Window) : Bool :=
  let k := s.coreAt s.cctx s.ccore
  (k.copyQ ++ k.gatherQ).any (fun e => e.owner == some s.cur.sid && e.windows.contains w) ||
  k.tile.any fun c => c.owner == some s.cur.sid && c.windows.contains w

/-- Closing an open window waits for the commands that recorded it (R205). -/
def closeM (w : Option Window) : M Unit := do
  match w with
  | none => pure ()
  | some x => if ← asks fun s => s.windowBusy x then stop (.hold 10)

/-- RETD (R200). -/
def execRetd (h : Hdr) (s : State) : Host.Outcome State Fault Refusal :=
  guarded h s <| runM s
    (do
      callChecks
      match ← asks fun s => s.act.thimble with
      | [] => parkM (domainFault 2)
      | r :: t =>
        check (← asks fun s => s.cur.dom == r.edom) (domainFault 3)
        closeM r.w0
        closeM r.w1
        writeReg 13 r.sp
        change fun s => (s.modAct fun a => { a with thimble := t, pend0 := none, pend1 := none }).dirtyDesc
        pure r.rpc)
    fun x t => (t.retireTo h x .retd).delayNext s.cur.stream s.cycle 4

/-! ## Windows -/

/-- May a range be lent (R202)? An empty one neither wraps nor crosses bit 55. -/
def lendable (base len : Word) : Bool :=
  decide (len.toNat ≤ 2 ^ 40) && decide (base.toNat < 2 ^ 56) &&
    (len == 0 || decide ((base.toNat + len.toNat - 1) / 2 ^ 55 = base.toNat / 2 ^ 55))

/-- Sets pending window n of the present activation. -/
def setPending (n : Bool) (w : Option Window) : M Unit :=
  change fun s => (s.modAct fun a => if n then { a with pend1 := w } else { a with pend0 := w }).dirtyDesc

/-- LEND (R202): a length of 0 cancels the pending window. -/
def execLend (h : Hdr) (w n : Bool) (b c : GQ) (s : State) : Host.Outcome State Fault Refusal :=
  instr h s do
    let base ← readG b
    let len ← readG c
    check (lendable base len) (domainFault 6 base)
    if len = 0 then setPending n none
    else
      let dom ← asks fun s => s.cur.dom
      let no ← asks fun s => s.act.lends
      setPending n (some { base := base.setWidth 56, len := len.toNat, ldom := dom, write := w, no })
      changeAct fun a => { a with lends := no + 1 }

/-- UNLEND (R203). -/
def execUnlend (h : Hdr) (p n : Bool) (s : State) : Host.Outcome State Fault Refusal :=
  instr h s do
    if p then setPending n none
    else
      match ← asks fun s => s.act.thimble with
      | [] => pure ()
      | r :: t =>
        let w := if n then r.w1 else r.w0
        closeM w
        if w.isSome then
          change fun s => (s.modAct fun a =>
            { a with thimble := (if n then { r with w1 := none } else { r with w0 := none }) :: t }).writeTop

/-! ## DOMQ (R206) -/

/-- The probe word. -/
def probeWord (tag : BitVec 6) (rd wr win lnd cl x loc : Bool) : Word :=
  (BitVec.ofBool true ++ BitVec.ofBool loc ++ BitVec.ofBool x ++ BitVec.ofBool cl ++ BitVec.ofBool lnd ++ BitVec.ofBool win ++
    BitVec.ofBool wr ++ BitVec.ofBool rd ++ 0#2 ++ tag).setWidth 64

/-- The probe word of a byte with a tag, under the page permissions of reading, writing and executing. -/
def State.probeAt (s : State) (a : Nat) (tag : BitVec 6) (r w x loc : Bool) : Word :=
  let k := s.ctxAt s.cctx
  let dom := s.cur.dom
  let ws := s.act.openWindows dom
  let rd := r && k.allows dom ws a tag .read
  let wr := w && k.allows dom ws a tag .write
  let win := (rd && !grants (k.right dom tag) .read) || (wr && !grants (k.right dom tag) .write)
  probeWord tag rd wr win ((k.right dom tag).getLsbD 2) ((k.right dom tag).getLsbD 3) x loc

/-- The probe word of a local offset; a byte of the tile store that the stash takes (R266) counts as none: V = 0 (DESIGN CHOICE,
notes/assumptions/81.md). -/
def State.probeLocal (s : State) (a off : Nat) : Word :=
  let k := s.ctxAt s.cctx
  if off < 45056 then
    let tag := (s.coreAt s.cctx s.ccore).tags[off / 4096]?.getD 0
    let own := decide (off / 4096 = s.cur.sid.slot)
    let wr := own && !(decide (3392 ≤ off % 4096) && decide (off % 4096 < 3456))
    probeWord tag own wr false ((k.right s.cur.dom tag).getLsbD 2) ((k.right s.cur.dom tag).getLsbD 3) false true
  else if off < 131072 then s.probeAt a ((s.coreAt s.cctx s.ccore).tags[off / 4096]?.getD 0) true true false true
  else if 0x10000000 ≤ off ∧ off < 0x10600000 then
    if s.stashTakes s.cctx s.ccl (off - 0x10000000) then 0
    else s.probeAt a ((s.clAt s.cctx s.ccl).tags[(off - 0x10000000) / 65536]?.getD 0) true true false true
  else if 0x20000000 ≤ off ∧ off < 0x20001000 then
    if s.act.win.isSome then probeWord 0 true true false false false false true else 0
  else 0

/-- The probe of a byte: 0 where it has no translation, never a fault. -/
def State.domProbe (s : State) (a : Nat) : Word :=
  if 2 ^ 56 ≤ a then 0
  else if 2 ^ 55 ≤ a then s.probeLocal a (a - 2 ^ 55)
  else
    match s.xlatOr (s.act.str s.cur.stream).given s.cctx s.ccore a with
    | none => 0
    | some e => s.probeAt a e.dom e.r e.w e.x false

/-- DOMQ (R206). -/
def execDomq (h : Hdr) (f : DomqForm) (s : State) : Host.Outcome State Fault Refusal :=
  instr h s do
    match f with
    | .probe a b disp loc =>
      let x ← readG b
      let y := (withLocal loc (x + disp.signExtend 64)).toNat
      probeM [y]
      writeG a (← asks fun s => s.domProbe y)
    | .depth a => writeG a (← asks fun s => BitVec.ofNat 64 s.act.thimble.length)
    | .caller a =>
      writeG a (← asks fun s => match s.act.thimble with | [] => BitVec.allOnes 64 | r :: _ => r.cdom.setWidth 64)

end Sys2Proof.Machine
end

