-- ==== Sys2Proof/Machine/Block.lean ====
section
/-! DEFINITION. Twin-exponent blocks (R56, R57, R59), sparse TB8 lines (R60), and the packed layout of a block in a v
register (R110). -/

namespace Sys2Proof.Machine

/-- Width of the magnitude of a twin-exponent format (R56). -/
def tbW : TBFmt → Nat
  | .tb8 => 6
  | .tb6 => 4
  | .tb4 => 2

/-- Width of an element. -/
def tbBits (f : TBFmt) : Nat := tbW f + 2

/-- Bytes of the elements of a block (R57). -/
def tbBytes (f : TBFmt) : Nat := 4 * tbBits f

/-- Exponent of the last place of an element under a block exponent: E − 127 − f, f = w − 1 (R56, R59). -/
def tbExp (f : TBFmt) (e : Nat) : Int := (e : Int) - 126 - tbW f

/-- Value of an element under the exponents of a valid block (R56). -/
def tbElem (f : TBFmt) (e0 e1 x : Nat) : FVal :=
  let w := tbW f
  let e := if x.testBit (w + 1) then e1 else e0
  let m := x % 2 ^ w
  if e = 0 ∨ m = 0 then .fin (x.testBit w) 0 0 else .fin (x.testBit w) m (tbExp f e)

/-- Is a block invalid (R56)? -/
def tbInvalid (e0 e1 : Nat) : Bool := e0 == 255 || e1 == 255

/-- Elements of a block from the number of its bytes (R57). -/
def tbSplit (f : TBFmt) (bytes : Nat) : List Nat :=
  (List.range 32).map fun i => bytes >>> (tbBits f * i) % 2 ^ tbBits f

/-- The 32 values of a block (R56). -/
def tbDecode (f : TBFmt) (e0 e1 bytes : Nat) : List FVal :=
  if tbInvalid e0 e1 then List.replicate 32 (.nan false) else (tbSplit f bytes).map (tbElem f e0 e1)

/-- Magnitude of a value under a block exponent, rounded to the nearest, and whether that is inexact (R59). -/
def tbQ (f : TBFmt) (e : Nat) : FVal → Nat × Bool
  | .fin _ m x => roundTo .rne false m x (tbExp f e) false
  | .inf _ => (2 ^ tbW f, true)
  | .nan _ => (0, false)

/-- Is the magnitude of a the larger one? ±∞ counts as above any finite value. -/
def magBelow (a b : FVal) : Bool :=
  match a, b with
  | .fin _ m x, .fin _ n y => below (.fin false m x) (.fin false n y)
  | .inf _, _ => false
  | _, .inf _ => true
  | _, _ => false

/-- Requantises 32 values (R59): E0, E1, the number of the element bytes, and flags. -/
def requantise (f : TBFmt) (l : List FVal) : Nat × Nat × Nat × BitVec 5 :=
  if l.any FVal.isNan then (255, 255, 0, flNV)
  else
    let w := tbW f
    let big := 2 ^ w - 1
    let a := l.foldl (fun a x => if magBelow a x then x else a) (.fin false 0 0)
    let found := if a.isInf then none else ((List.range 254).map (· + 1)).find? fun e => decide ((tbQ f e a).1 ≤ big)
    let e1 := found.getD 254
    let e0 := max 1 (e1 - w)
    let enc (x : FVal) : Nat × BitVec 5 :=
      let s := if x.neg then 2 ^ w else 0
      let (m0, i0) := tbQ f e0 x
      let (code, m, inexact) :=
        if m0 ≤ big then (s + m0, m0, i0)
        else
          let (m1, i1) := tbQ f e1 x
          (2 ^ (w + 1) + s + min big m1, min big m1, i1 || decide (big < m1))
      (code, flagIf inexact flNX ||| flagIf (!x.isZero && m == 0) flUF)
    let r := l.map enc
    (e0, e1, r.foldr (fun c n => n <<< tbBits f + c.1) 0,
      r.foldl (fun g c => g ||| c.2) (flagIf found.isNone (flOF ||| flNX)))

/-- Exact value as FP32 bits; every element value is exact there (R56). -/
def toF32 (v : FVal) : Nat := (fmtF32.encode .rne v).1

/-- Exact value as BF16 bits. -/
def toBF16 (v : FVal) : Nat := (fmtBF16.encode .rne v).1

/-! ## Sparse TB8 lines (R60) -/

/-- The set positions of a mask of 4 bits. -/
def maskSet (m : Nat) : List Nat := [0, 1, 2, 3].filter fun i => m.testBit i

/-- Is a sparse line, given as the number of its 128 bytes, invalid? -/
def sparseInvalid (line : Nat) : Bool :=
  (List.range 48).any (fun j => (maskSet (line >>> (4 * j) % 16)).length != 2) ||
  line >>> 240 % 65536 != 0x1000 ||
  (List.range 6).any fun i => line >>> (8 * (24 + i)) % 256 == 255

/-- The 192 dense elements of a sparse line (R60). -/
def sparseDecode (line : Nat) : List FVal :=
  if sparseInvalid line then List.replicate 192 (.nan false)
  else
    (List.range 48).flatMap fun j =>
      let t := j / 16
      let e0 := line >>> (8 * (24 + 2 * t)) % 256
      let e1 := line >>> (8 * (25 + 2 * t)) % 256
      let v (k : Nat) : FVal := tbElem .tb8 e0 e1 (line >>> (8 * (32 + k)) % 256)
      let set := maskSet (line >>> (4 * j) % 16)
      [0, 1, 2, 3].map fun i =>
        if set[0]? = some i then v (2 * j) else if set[1]? = some i then v (2 * j + 1) else .fin false 0 0

/-! ## Packed layout (R110) -/

/-- The number of the 64 bytes of a v register. -/
def vregNat (v : VReg) : Nat := v.toList.foldr (fun (x : BitVec 32) n => n <<< 32 + x.toNat) 0

/-- A v register from the number of its 64 bytes. -/
def natVreg (n : Nat) : VReg := Vector.ofFn fun i : Fin 16 => BitVec.ofNat 32 (n >>> (32 * i.val))

/-- A packed block: element bytes, then E0 and E1 at bytes 60 and 61. -/
def tbPack (e0 e1 bytes : Nat) : VReg := natVreg (bytes + (e0 <<< 480) + (e1 <<< 488))

/-- Element bytes and exponents of a packed block. -/
def tbUnpack (f : TBFmt) (v : VReg) : Nat × Nat × Nat :=
  let n := vregNat v
  (n % 2 ^ (8 * tbBytes f), n >>> 480 % 256, n >>> 488 % 256)

/-- BADDQ (R111): exact sums of two decoded blocks, requantised once. -/
def addBlocks (f : TBFmt) (b c : VReg) : VReg × BitVec 5 :=
  let (x, e0, e1) := tbUnpack f b
  let (y, g0, g1) := tbUnpack f c
  let l := ((tbDecode f e0 e1 x).zip (tbDecode f g0 g1 y)).map fun p => (sumV .rne [p.1, p.2]).1
  let (r0, r1, bytes, fl) := requantise f l
  (tbPack r0 r1 bytes, fl)

end Sys2Proof.Machine
end

