-- ==== Sys2Proof/Machine/Vector.lean ====
section
/-! DEFINITION. Vector floating point, compares and selection, vector integers, conversion and movement, reductions and dot
products (R96-R106), and BADDQ (R111). -/

namespace Sys2Proof.Machine

/-! ## Lane by lane -/

/-- Elements of n bits of the active lanes from a function of the element's index, with the union of its flags (R53, R90). -/
def elemsF (n : Nat) (k : BitVec 16) (g : Nat → Nat × BitVec 5) : VReg × BitVec 5 :=
  let e := 32 / n
  let r := (List.range 16).map fun j => if active k j then (List.range e).map fun i => g (e * j + i) else []
  (vmk fun j => joinLane n ((r.getD j []).map (·.1)), r.flatten.foldl (fun fl x => fl ||| x.2) 0)

/-- Elements without flags. -/
def elems (n : Nat) (k : BitVec 16) (g : Nat → Nat) : VReg := (elemsF n k fun i => (g i, 0)).1

/-- The family of R96. -/
def vfp (h : Hdr) (fmt : FFmt) (rm : Rm) (op : FOp) (z : Bool) (mk : BitVec 3) (a b : VQ) (c : VSrc) (s : State) :
    Host.Outcome State Fault Refusal :=
  instrFp h s do
    let mode ← modeM rm
    let k ← readMask mk
    let x ← readV b
    let y ← readVSrc fmt.bits c
    let old ← oldV a
    let n := fmt.bits
    let (v, fl) := elemsF n k fun i => fop (binFmt fmt) mode op (elem n old i) (elem n x i) (elem n y i)
    writeMasked a k z v
    pure fl

/-- VADD (R96). -/
def execVadd (h : Hdr) (fmt : FFmt) (rm : Rm) (z : Bool) (mk : BitVec 3) (a b : VQ) (c : VSrc) (s : State) :
    Host.Outcome State Fault Refusal := vfp h fmt rm .add z mk a b c s

/-- VSUB (R96). -/
def execVsub (h : Hdr) (fmt : FFmt) (rm : Rm) (z : Bool) (mk : BitVec 3) (a b : VQ) (c : VSrc) (s : State) :
    Host.Outcome State Fault Refusal := vfp h fmt rm .sub z mk a b c s

/-- VMUL (R96). -/
def execVmul (h : Hdr) (fmt : FFmt) (rm : Rm) (z : Bool) (mk : BitVec 3) (a b : VQ) (c : VSrc) (s : State) :
    Host.Outcome State Fault Refusal := vfp h fmt rm .mul z mk a b c s

/-- VFMA (R96). -/
def execVfma (h : Hdr) (fmt : FFmt) (rm : Rm) (z : Bool) (mk : BitVec 3) (a : BitVec 5) (b : VQ) (c : VSrc) (s : State) :
    Host.Outcome State Fault Refusal := vfp h fmt rm .fma z mk (.v a) b c s

/-- VFMS (R96). -/
def execVfms (h : Hdr) (fmt : FFmt) (rm : Rm) (z : Bool) (mk : BitVec 3) (a : BitVec 5) (b : VQ) (c : VSrc) (s : State) :
    Host.Outcome State Fault Refusal := vfp h fmt rm .fms z mk (.v a) b c s

/-- VFNMA (R96). -/
def execVfnma (h : Hdr) (fmt : FFmt) (rm : Rm) (z : Bool) (mk : BitVec 3) (a : BitVec 5) (b : VQ) (c : VSrc) (s : State) :
    Host.Outcome State Fault Refusal := vfp h fmt rm .fnma z mk (.v a) b c s

/-- VMIN (R93, R96). -/
def execVmin (h : Hdr) (fmt : FFmt) (z : Bool) (mk : BitVec 3) (a b : VQ) (c : VSrc) (s : State) :
    Host.Outcome State Fault Refusal := vfp h fmt .rne .min z mk a b c s

/-- VMAX (R93, R96). -/
def execVmax (h : Hdr) (fmt : FFmt) (z : Bool) (mk : BitVec 3) (a b : VQ) (c : VSrc) (s : State) :
    Host.Outcome State Fault Refusal := vfp h fmt .rne .max z mk a b c s

/-- VSGN (R94, R96). -/
def execVsgn (h : Hdr) (fmt : FFmt) (z : Bool) (mk : BitVec 3) (a b : VQ) (op : Sgn VSrc) (s : State) :
    Host.Outcome State Fault Refusal :=
  instrFp h s do
    let k ← readMask mk
    let x ← readV b
    let n := fmt.bits
    let y ← match op with
      | .cpy c => readVSrc n c
      | .ncp c => readVSrc n c
      | .xor c => readVSrc n c
      | .abs => pure vzero
    let f := binFmt fmt
    let (v, fl) := elemsF n k fun i =>
      fsgnBits f (elem n x i) (sgnNeg (f.signOf (elem n x i)) (f.signOf (elem n y i)) op)
    writeMasked a k z v
    pure fl

/-! ## Compares and selection (R97, R98) -/

/-- A mask from a function of the lane; inactive lanes give 0. -/
def maskOf (k : BitVec 16) (g : Nat → Bool) : BitVec 16 :=
  BitVec.ofNat 16 (((List.range 16).map fun j => if active k j && g j then 2 ^ j else 0).sum)

/-- Integer comparison of 32 bits (R78, R97). -/
def icmp32 (cond : ICond) (u : Bool) (a b : BitVec 32) : Bool :=
  let lt := if u then a.ult b else a.slt b
  match cond with
  | .eq => a == b
  | .ne => a != b
  | .lt => lt
  | .le => lt || a == b
  | .gt => !(lt || a == b)
  | .ge => !lt
  | .tst => a &&& b != 0

/-- VCMP (R97). -/
def execVcmp (h : Hdr) (op : VCmpOp) (mk p : BitVec 3) (b : VQ) (c : VSrc) (s : State) : Host.Outcome State Fault Refusal :=
  instrFp h s do
    let k ← readMask mk
    let x ← readV b
    let y ← readVSrc 32 c
    match op with
    | .int cond u => do
      changeAct fun a => a.setK p (maskOf k fun j => icmp32 cond u (lane x j) (lane y j))
      pure 0
    | .flt cond => do
      let r := fun j => fcmp fmtF32 cond (lane x j).toNat (lane y j).toNat
      changeAct fun a => a.setK p (maskOf k fun j => (r j).1)
      pure ((List.range 16).foldl (fun fl j => if active k j then fl ||| (r j).2 else fl) 0)

/-- VSEL (R98). -/
def execVsel (h : Hdr) (mk : BitVec 3) (a b : VQ) (c : VSrc) (s : State) : Host.Outcome State Fault Refusal :=
  instr h s do
    let k ← readMask mk
    let x ← readV b
    let y ← readVSrc 32 c
    writeV a (vmk fun j => if active k j then lane x j else lane y j)

/-! ## Vector integer (R101) -/

/-- The family of R101: a function of the two elements of n bits. -/
def vint (h : Hdr) (n : Nat) (z : Bool) (mk : BitVec 3) (a b : VQ) (c : VSrc) (g : Nat → Nat → Nat) (s : State) :
    Host.Outcome State Fault Refusal :=
  instr h s do
    let k ← readMask mk
    let x ← readV b
    let y ← readVSrc n c
    writeMasked a k z (elems n k fun i => g (elem n x i) (elem n y i))

/-- An integer of n bits, read signed. -/
def sgn (n x : Nat) : Int := (BitVec.ofNat n x).toInt

/-- Sum or difference of n bits: modulo 2^n, or clamped with .sat (R101). -/
def addSat (n : Nat) (sub sat u : Bool) (x y : Nat) : Nat :=
  let a : Int := if u then x else sgn n x
  let b : Int := if u then y else sgn n y
  let r := if sub then a - b else a + b
  let lo : Int := if u then 0 else -(2 ^ (n - 1) : Nat)
  let hi : Int := if u then (2 ^ n : Nat) - 1 else (2 ^ (n - 1) : Nat) - 1
  ((if sat then max lo (min hi r) else r) % (2 ^ n : Nat)).toNat

/-- VIADD (R101). -/
def execViadd (h : Hdr) (sz : ESize) (sat u z : Bool) (mk : BitVec 3) (a b : VQ) (c : VSrc) (s : State) :
    Host.Outcome State Fault Refusal := vint h sz.bits z mk a b c (addSat sz.bits false sat u) s

/-- VISUB (R101). -/
def execVisub (h : Hdr) (sz : ESize) (sat u z : Bool) (mk : BitVec 3) (a b : VQ) (c : VSrc) (s : State) :
    Host.Outcome State Fault Refusal := vint h sz.bits z mk a b c (addSat sz.bits true sat u) s

/-- VIMUL (R101). -/
def execVimul (h : Hdr) (sz : ESize) (z : Bool) (mk : BitVec 3) (a b : VQ) (c : VSrc) (s : State) :
    Host.Outcome State Fault Refusal := vint h sz.bits z mk a b c (fun x y => x * y) s

/-- VAND (R101). -/
def execVand (h : Hdr) (z : Bool) (mk : BitVec 3) (a b : VQ) (c : VSrc) (s : State) : Host.Outcome State Fault Refusal :=
  vint h 32 z mk a b c (fun x y => x &&& y) s

/-- VOR (R101). -/
def execVor (h : Hdr) (z : Bool) (mk : BitVec 3) (a b : VQ) (c : VSrc) (s : State) : Host.Outcome State Fault Refusal :=
  vint h 32 z mk a b c (fun x y => x ||| y) s

/-- VXOR (R101). -/
def execVxor (h : Hdr) (z : Bool) (mk : BitVec 3) (a b : VQ) (c : VSrc) (s : State) : Host.Outcome State Fault Refusal :=
  vint h 32 z mk a b c (fun x y => x ^^^ y) s

/-- VSHL (R101). -/
def execVshl (h : Hdr) (sz : ESize) (z : Bool) (mk : BitVec 3) (a b : VQ) (c : VSrc) (s : State) :
    Host.Outcome State Fault Refusal := vint h sz.bits z mk a b c (fun x y => x <<< (y % sz.bits)) s

/-- VSHR (R101). -/
def execVshr (h : Hdr) (sz : ESize) (z : Bool) (mk : BitVec 3) (a b : VQ) (c : VSrc) (s : State) :
    Host.Outcome State Fault Refusal := vint h sz.bits z mk a b c (fun x y => x >>> (y % sz.bits)) s

/-- VSAR (R101). -/
def execVsar (h : Hdr) (sz : ESize) (z : Bool) (mk : BitVec 3) (a b : VQ) (c : VSrc) (s : State) :
    Host.Outcome State Fault Refusal :=
  vint h sz.bits z mk a b c (fun x y => ((BitVec.ofNat sz.bits x).sshiftRight (y % sz.bits)).toNat) s

/-! ## Conversion and movement (R102-R104) -/

/-- VCVT (R102): a lane holds e(ST) source and e(DT) destination elements; part P is taken or written. -/
def execVcvt (h : Hdr) (rm : Rm) (z : Bool) (mk : BitVec 3) (dt st : NType) (p : BitVec 2) (a b : VQ) (s : State) :
    Host.Outcome State Fault Refusal :=
  instrFp h s do
    let mode ← modeM rm
    let k ← readMask mk
    let x ← readV b
    let old ← oldV a
    let es := st.perLane
    let ed := dt.perLane
    let part := p.toNat
    let (v, fl) := elemsF dt.bits k fun n =>
      let j := n / ed
      let i := n % ed
      if es = ed then convert mode dt st (elem st.bits x (es * j + i))
      else if ed < es then convert mode dt st (elem st.bits x (es * j + (part * ed + i)))
      else if part * es ≤ i ∧ i < part * es + es then convert mode dt st (elem st.bits x (es * j + (i - part * es)))
      else (elem dt.bits old n, 0)
    writeMasked a k z v
    pure fl

/-- VBCAST (R103). -/
def execVbcast (h : Hdr) (sz : ESize) (z : Bool) (mk : BitVec 3) (a : VQ) (b : GQ) (s : State) :
    Host.Outcome State Fault Refusal :=
  instr h s do
    let k ← readMask mk
    let x ← readG b
    writeMasked a k z (elems sz.bits k fun _ => x.toNat % 2 ^ sz.bits)

/-- The element that an index names: gc is taken modulo the element count (R103). -/
def idxM (sz : ESize) : Idx → M Nat
  | .imm i => pure i.toNat
  | .reg c => do pure ((← readG c).toNat % (512 / sz.bits))

/-- VEXTR (R103). -/
def execVextr (h : Hdr) (sz : ESize) (u : Bool) (a : GQ) (b : VQ) (i : Idx) (s : State) : Host.Outcome State Fault Refusal :=
  instr h s do
    let x ← readV b
    let n ← idxM sz i
    writeG a (extend u (BitVec.ofNat sz.bits (elem sz.bits x n)))

/-- VINS (R103). -/
def execVins (h : Hdr) (sz : ESize) (a : BitVec 5) (b : GQ) (i : Idx) (s : State) : Host.Outcome State Fault Refusal :=
  instr h s do
    let x ← readG b
    let n ← idxM sz i
    let old ← oldV (.v a)
    writeV (.v a) (elems sz.bits 0xFFFF fun e => if e = n then x.toNat % 2 ^ sz.bits else elem sz.bits old e)

/-- VPERM (R104). -/
def execVperm (h : Hdr) (sz : ESize) (z : Bool) (mk : BitVec 3) (a b c : VQ) (s : State) : Host.Outcome State Fault Refusal :=
  instr h s do
    let k ← readMask mk
    let x ← readV b
    let y ← readV c
    let n := sz.bits
    writeMasked a k z (elems n k fun e =>
      let i := elem n y e
      if i.testBit (n - 1) then 0 else elem n x (i % (512 / n)))

/-! ## Reductions and dot products (R105, R106) -/

/-- The node operation and the identity of a reduction (R64, R105), on 32-bit values with flags. -/
def redOp (mode : Mode) : VRedOp → (Nat → Nat → Nat × BitVec 5) × Nat
  | .fadd _ => (fop fmtF32 mode .add 0, 0x80000000)
  | .fmax => (minmax fmtF32 true, 0xFF800000)
  | .fmin => (minmax fmtF32 false, 0x7F800000)
  | .iadd _ => (fun a b => ((a + b) % 2 ^ 32, 0), 0)
  | .imax u => (fun a b => (if (if u then decide (a < b) else decide (sgn 32 a < sgn 32 b)) then b else a, 0),
      if u then 0 else 0x80000000)
  | .imin u => (fun a b => (if (if u then decide (b < a) else decide (sgn 32 b < sgn 32 a)) then b else a, 0),
      if u then 0xFFFFFFFF else 0x7FFFFFFF)

/-- Rounding field of a reduction. -/
def redRm : VRedOp → Rm
  | .fadd rm => rm
  | _ => .rne

/-- Is the result of a reduction sign-extended? -/
def redSigned : VRedOp → Bool
  | .iadd u => !u
  | .imax u => !u
  | .imin u => !u
  | _ => false

/-- VRED (R64, R105). -/
def execVred (h : Hdr) (op : VRedOp) (mk : BitVec 3) (a : GQ) (b : VQ) (s : State) : Host.Outcome State Fault Refusal :=
  instrFp h s do
    let mode ← modeM (redRm op)
    let k ← readMask mk
    let x ← readV b
    let (f, id_) := redOp mode op
    let node (p q : Nat × BitVec 5) : Nat × BitVec 5 := let (r, fl) := f p.1 q.1; (r, p.2 ||| q.2 ||| fl)
    let leaves := (List.range 16).map fun j => (if active k j then (lane x j).toNat else id_, (0 : BitVec 5))
    let (r, fl) := (tree16 node leaves).headD (0, 0)
    writeG a (extend (!redSigned op) (BitVec.ofNat 32 r))
    pure fl

/-- VDOT2 (R106). -/
def execVdot2 (h : Hdr) (half : Bool) (rm : Rm) (z : Bool) (mk : BitVec 3) (a : BitVec 5) (b c : VQ) (s : State) :
    Host.Outcome State Fault Refusal :=
  instrFp h s do
    let mode ← modeM rm
    let k ← readMask mk
    let x ← readV b
    let y ← readV c
    let old ← oldV (.v a)
    let (v, fl) := elemsF 32 k fun j =>
      dot2 (if half then fmtF16 else fmtBF16) mode (elem 32 old j) (elem 16 x (2 * j)) (elem 16 y (2 * j))
        (elem 16 x (2 * j + 1)) (elem 16 y (2 * j + 1))
    writeMasked (.v a) k z v
    pure fl

/-- One lane of VDOT4 (R106). -/
def dot4 (u sat : Bool) (a : Nat) (x y : List Nat) : Nat :=
  let v (n t : Nat) : Int := if u then t else sgn n t
  let t : Int := v 32 a + ((x.zip y).map fun p => v 8 p.1 * v 8 p.2).sum
  let lo : Int := if u then 0 else -2147483648
  let hi : Int := if u then 4294967295 else 2147483647
  ((if sat then max lo (min hi t) else t) % 4294967296).toNat

/-- VDOT4 (R106). -/
def execVdot4 (h : Hdr) (u sat z : Bool) (mk : BitVec 3) (a : BitVec 5) (b c : VQ) (s : State) :
    Host.Outcome State Fault Refusal :=
  instr h s do
    let k ← readMask mk
    let x ← readV b
    let y ← readV c
    let old ← oldV (.v a)
    let four (v : VReg) (j : Nat) : List Nat := (List.range 4).map fun i => elem 8 v (4 * j + i)
    writeMasked (.v a) k z (elems 32 k fun j => dot4 u sat (elem 32 old j) (four x j) (four y j))

/-- BADDQ (R111). -/
def execBaddq (h : Hdr) (fmt : TBFmt) (_rne : Bool) (a b c : VQ) (s : State) : Host.Outcome State Fault Refusal :=
  instrFp h s do
    let x ← readV b
    let y ← readV c
    let (v, fl) := addBlocks fmt x y
    writeV a v
    pure fl

end Sys2Proof.Machine
end

