-- ==== Sys2Proof/Machine/Special.lean ====
section
/-! DEFINITION. The special functions (R116-R120). The value of a transcendental function is enclosed between two fixed-point
numbers of 512 fraction bits; q14 of both ends is the result. Where the ends differ, which no value is known to do, the
result is the free choice of `Config.undecided` (DESIGN CHOICE, notes/assumptions/15.md). -/

namespace Sys2Proof.Machine

/-! ## q14 (R116) -/

/-- The Q14 member nearest to (-1)^neg × (m × 2^e, and a bit more when `sticky`), with its flags. -/
def q14 (neg : Bool) (m : Nat) (e : Int) (sticky : Bool := false) : Nat × BitVec 5 :=
  let sgn := if neg then fmtF32.signBit else 0
  if m = 0 ∧ !sticky then (sgn, 0)
  else
    let q := max (e + bitLen m - 14) (-149)
    let (n, inexact) := roundTo .rne neg m e q sticky
    if (128 : Int) < bitLen n + q then (sgn + fmtF32.infBits, flOF ||| flNX)
    else
      let small := decide (e + bitLen m ≤ -126)
      ((fmtF32.round .rne neg n q).1, flagIf inexact flNX ||| flagIf (small && inexact) flUF)

/-- An enclosure: the value lies strictly between lo and hi, in units of 2^e. -/
structure Encl where
  lo : Nat
  hi : Nat
  deriving DecidableEq, Repr

/-- q14 of an enclosed value. `code` names the function and its operand. -/
def q14Encl (code : Nat) (neg : Bool) (x : Encl) (e : Int) : Nat × BitVec 5 :=
  let a := q14 neg x.lo e true
  let b := q14 neg (x.hi - 1) e true
  if a = b then a else if Config.undecided code then a else b

/-! ## Fixed-point enclosures of 512 fraction bits -/

def fxBits : Nat := 512

/-- One. -/
def fxOne : Nat := 2 ^ 512

/-- ln 2, rounded down. -/
def fxLn2 : Nat :=
  0xb17217f7d1cf79abc9e3b39803f2f6af40f343267298b62d8a0d175b8baafa2be7b876206debac98559552fb4afa1b10ed2eae35c138214427573b291169b825

/-- π, rounded down. -/
def fxPi : Nat :=
  0x3243f6a8885a308d313198a2e03707344a4093822299f31d0082efa98ec4e6c89452821e638d01377be5466cf34e90c6cc0ac29b7c97c50dd3f84d5b5b5470917

/-- Product of two enclosures. -/
def enMul (a b : Encl) : Encl := { lo := a.lo * b.lo / fxOne, hi := a.hi * b.hi / fxOne + 1 }

/-- Quotient by a natural number. -/
def enDivN (a : Encl) (n : Nat) : Encl := { lo := a.lo / n, hi := a.hi / n + 1 }

/-- Quotient of two enclosures. -/
def enDiv (a b : Encl) : Encl := { lo := a.lo * fxOne / b.hi, hi := a.hi * fxOne / b.lo + 1 }

/-- Sum of two enclosures. -/
def enAdd (a b : Encl) : Encl := { lo := a.lo + b.lo, hi := a.hi + b.hi }

/-- Difference of two enclosures, cut off at 0. -/
def enSub (a b : Encl) : Encl := { lo := a.lo - b.hi, hi := a.hi - b.lo }

/-- m × 2^e for an e of at least −512, exactly, as an enclosure. -/
def enOf (m : Nat) (e : Int) : Encl := let x := m <<< (e + 512).toNat; { lo := x, hi := x }

/-- Sum of the terms t, t × x / d(k), t × x² / (d(k) d(k+1)), …; the tail is below one unit. -/
def series (x : Encl) (d : Nat → Nat) : Nat → Nat → Encl → Encl
  | 0, _, _ => { lo := 0, hi := 1 }
  | f + 1, k, t => enAdd t (series x d f (k + 1) (enDivN (enMul t x) (d k)))

/-- e^z − 1 for z up to 12. -/
def enExpm1 (z : Encl) : Encl := series z (fun k => k + 2) 240 0 z

/-- e^z by a number of terms: 120 for z up to 1, 700 for z up to 128. -/
def enExp (terms : Nat) (z : Encl) : Encl := series z (fun k => k + 1) terms 0 { lo := fxOne, hi := fxOne }

/-- Sum of x^(2k+1) / (2k+1) for x up to 1/3. -/
def enAtanh (x2 : Encl) : Nat → Nat → Encl → Encl
  | 0, _, _ => { lo := 0, hi := 1 }
  | f + 1, k, t => enAdd (enDivN t (2 * k + 1)) (enAtanh x2 f (k + 1) (enMul t x2))

/-- ln 2, π and √(2π). -/
def enLn2 : Encl := { lo := fxLn2, hi := fxLn2 + 1 }

/-- log2 (m / 2^b), b the exponent of the leading bit, for an m that is no power of two: 2 atanh ((u − 1) / (u + 1)) / ln 2. -/
def enLog2 (m : Nat) : Encl :=
  let b := bitLen m - 1
  let q := (m - 2 ^ b) * fxOne / (m + 2 ^ b)
  let w : Encl := { lo := q, hi := q + 1 }
  enDiv (enMul { lo := 2 * fxOne, hi := 2 * fxOne } (enAtanh (enMul w w) 170 0 w)) enLn2
def enPi : Encl := { lo := fxPi, hi := fxPi + 1 }
def enSqrt2Pi : Encl := { lo := isqrt (2 * fxPi * fxOne), hi := isqrt (2 * (fxPi + 1) * fxOne) + 1 }

/-- sin a and cos a for a ≤ π/4: the positive terms less the negative ones. -/
def enSin (a : Encl) : Encl :=
  let s := enMul (enMul a a) (enMul a a)
  let pos := series s (fun k => (4 * k + 2) * (4 * k + 3) * (4 * k + 4) * (4 * k + 5)) 30 0 a
  let neg := series s (fun k => (4 * k + 4) * (4 * k + 5) * (4 * k + 6) * (4 * k + 7)) 30 0 (enDivN (enMul (enMul a a) a) 6)
  enSub pos neg

def enCos (a : Encl) : Encl :=
  let s := enMul (enMul a a) (enMul a a)
  let pos := series s (fun k => (4 * k + 1) * (4 * k + 2) * (4 * k + 3) * (4 * k + 4)) 30 0 { lo := fxOne, hi := fxOne }
  let neg := series s (fun k => (4 * k + 3) * (4 * k + 4) * (4 * k + 5) * (4 * k + 6)) 30 0 (enDivN (enMul a a) 2)
  enSub pos neg

/-! ## The functions of one operand (R117), on FP32 bits -/

/-- The canonical NaN, with NV when asked. -/
def nan32 (nv : Bool) : Nat × BitVec 5 := (fmtF32.nanBits, flagIf nv flNV)

/-- ±∞ with flags. -/
def inf32 (neg : Bool) (fl : BitVec 5) : Nat × BitVec 5 := ((if neg then fmtF32.signBit else 0) + fmtF32.infBits, fl)

/-- RCPA. -/
def rcpa (x : Nat) : Nat × BitVec 5 :=
  match fmtF32.decode x with
  | .nan s => nan32 s
  | .inf neg => (if neg then fmtF32.signBit else 0, 0)
  | .fin neg m e =>
    if m = 0 then inf32 neg flDZ
    else let (q, st) := divBits 1 m 90; q14 neg q (-e - 90) st

/-- RSQA. -/
def rsqa (x : Nat) : Nat × BitVec 5 :=
  match fmtF32.decode x with
  | .nan s => nan32 s
  | .inf neg => if neg then nan32 true else (0, 0)
  | .fin neg m e =>
    if m = 0 then inf32 neg flDZ
    else if neg then nan32 true
    else
      let (m, e) := if e % 2 = 0 then (m, e) else (2 * m, e - 1)
      let r := isqrt (2 ^ 160 / m)
      q14 false r (-(e / 2) - 80) (r * r * m != 2 ^ 160)

/-- EXP2A: 2^x = 2^n × 2^f with n = floor x. -/
def exp2a (x : Nat) : Nat × BitVec 5 :=
  match fmtF32.decode x with
  | .nan s => nan32 s
  | .inf neg => if neg then (0, 0) else inf32 false (flOF ||| flNX)
  | .fin neg m e =>
    if m = 0 then (0x3F800000, 0)
    else if !neg ∧ 128 ≤ (m <<< e.toNat) >>> (-e).toNat then inf32 false (flOF ||| flNX)
    else if neg ∧ 200 ≤ (m <<< e.toNat) >>> (-e).toNat then q14 false 0 (-400) true
    else
      let k := (-e).toNat
      let v : Int := if neg then -((m <<< e.toNat : Nat) : Int) else (m <<< e.toNat : Nat)
      let n := v / (2 ^ k : Nat)
      let f := (v % (2 ^ k : Nat)).toNat
      if f = 0 then q14 false 1 n
      else q14Encl x false (enExp 120 (enMul (enOf f (-(k : Int))) enLn2)) (n - 512)

/-- LOG2A: log2 x = n + log2 u with u from 1 to 2. -/
def log2a (x : Nat) : Nat × BitVec 5 :=
  match fmtF32.decode x with
  | .nan s => nan32 s
  | .inf neg => if neg then nan32 true else inf32 false 0
  | .fin neg m e =>
    if m = 0 then inf32 true flDZ
    else if neg then nan32 true
    else
      let b := bitLen m - 1
      let n : Int := e + b
      if m = 2 ^ b then q14 (decide (n < 0)) n.natAbs 0
      else
        let l := enLog2 m
        if 0 ≤ n then q14Encl (2 ^ 32 + x) false (enAdd (enOf n.natAbs 0) l) (-512)
        else q14Encl (2 ^ 32 + x) true (enSub (enOf n.natAbs 0) l) (-512)

/-- TANHA: tanh x = S / (S + 2) with S = e^2x − 1; below 2^-20 and from 6 on, the bounds x (1 − x²/3) and 1 − 2e^-2x
decide. -/
def tanha (x : Nat) : Nat × BitVec 5 :=
  match fmtF32.decode x with
  | .nan s => nan32 s
  | .inf neg => ((if neg then fmtF32.signBit else 0) + 0x3F800000, 0)
  | .fin neg m e =>
    if m = 0 then (x, 0)
    else if e + bitLen m ≤ -20 then q14Encl (2 * 2 ^ 32 + x) neg { lo := m * (2 ^ 60 - 2 ^ 20), hi := m * 2 ^ 60 } (e - 60)
    else if 6 ≤ (m <<< e.toNat) >>> (-e).toNat then q14Encl (2 * 2 ^ 32 + x) neg { lo := 2 ^ 60 - 2 ^ 44, hi := 2 ^ 60 } (-60)
    else
      let s := enExpm1 (enOf (2 * m) e)
      q14Encl (2 * 2 ^ 32 + x) neg (enDiv s (enAdd s { lo := 2 * fxOne, hi := 2 * fxOne })) (-512)

/-- The integral of the normal density from 0 to |x|: e^(-x²/2) / √(2π) times the sum of x^(2k+1) / (1·3·5…(2k+1)). -/
def enPhi (m : Nat) (e : Int) : Encl :=
  let x := enOf m e
  let x2 := enMul x x
  let t := series x2 (fun k => 2 * k + 3) 700 0 x
  enDiv t (enMul (enExp 700 (enDivN x2 2)) enSqrt2Pi)

/-- GELUA: x × (1/2 ± the integral); small and large operands by the bounds |x|/2 (1 ± |x|), x (1 − 2^-29) and 0. -/
def gelua (x : Nat) : Nat × BitVec 5 :=
  match fmtF32.decode x with
  | .nan s => nan32 s
  | .inf neg => if neg then (fmtF32.signBit, 0) else inf32 false 0
  | .fin neg m e =>
    let big := (m <<< e.toNat) >>> (-e).toNat
    if m = 0 then (x, 0)
    else if e + bitLen m ≤ -26 then
      q14Encl (3 * 2 ^ 32 + x) neg
        (if neg then { lo := m * (2 ^ 60 - 2 ^ 34), hi := m * 2 ^ 60 } else { lo := m * 2 ^ 60, hi := m * (2 ^ 60 + 2 ^ 34) }) (e - 61)
    else if neg ∧ 16 ≤ big then q14 true 0 (-400) true
    else if !neg ∧ 6 ≤ big then q14Encl (3 * 2 ^ 32 + x) false { lo := m * (2 ^ 60 - 2 ^ 31), hi := m * 2 ^ 60 } (e - 60)
    else
      let r := enPhi m e
      let half : Encl := { lo := fxOne / 2, hi := fxOne / 2 }
      let p := if neg then enSub half r else enAdd half r
      q14Encl (3 * 2 ^ 32 + x) neg { lo := m * p.lo, hi := m * p.hi } (e - 512)

/-- SINCOS: sin πx and cos πx, from the quarter turn that 2|x| lies in and the rest f of it (R119). -/
def sincos (x : Nat) : (Nat × BitVec 5) × (Nat × BitVec 5) :=
  match fmtF32.decode x with
  | .nan s => (nan32 s, nan32 s)
  | .inf _ => (nan32 true, nan32 true)
  | .fin neg m e =>
    let v := m <<< (e + 1).toNat
    let k := (-(e + 1)).toNat
    let quarter := v / 2 ^ k % 4
    let f := v % 2 ^ k
    let one (n : Bool) : Nat × BitVec 5 := ((if n then fmtF32.signBit else 0) + 0x3F800000, 0)
    let zero (n : Bool) : Nat × BitVec 5 := (if n then fmtF32.signBit else 0, 0)
    if f = 0 then
      if quarter = 0 then (zero neg, one false)
      else if quarter = 1 then (one neg, zero false)
      else if quarter = 2 then (zero neg, one true)
      else (one (!neg), zero false)
    else
      let fold := decide (2 ^ k ≤ 2 * f)
      let g := if fold then 2 ^ k - f else f
      let a := enDivN (enMul (enOf g (-(k : Int))) enPi) 2
      let (s, c) := if fold then (enCos a, enSin a) else (enSin a, enCos a)
      let code := 4 * 2 ^ 32 + x
      let sinV := if quarter % 2 = 0 then s else c
      let cosV := if quarter % 2 = 0 then c else s
      (q14Encl code (neg != decide (2 ≤ quarter)) sinV (-512),
        q14Encl (2 ^ 32 + code) (quarter == 1 || quarter == 2) cosV (-512))

/-! ## PMERGE (R120) -/

/-- Difference of two FP32 values rounded to the nearest, then 2 to it as EXP2A gives it; 1 where they are equal. -/
def pmFactor (mi m : Nat) : Nat × BitVec 5 :=
  if sameV (fmtF32.decode mi) (fmtF32.decode m) then (0x3F800000, 0)
  else
    let (d, f1) := fop fmtF32 .rne .sub 0 mi m
    let (t, f2) := exp2a d
    (t, f1 ||| f2)

/-- pmerge_pair: m and s with flags. -/
def pmergePair (mode : Mode) (m1 s1 m2 s2 : Nat) : Nat × Nat × BitVec 5 :=
  let vs := [m1, s1, m2, s2].map fmtF32.decode
  if vs.any FVal.isNan then (fmtF32.nanBits, fmtF32.nanBits, flagIf (vs.any FVal.isSig) flNV)
  else
    let (m, _) := minmax fmtF32 true m1 m2
    let (t1, f1) := pmFactor m1 m
    let (t2, f2) := pmFactor m2 m
    let (p, f3) := mulV (fmtF32.decode s1) (fmtF32.decode t1)
    let (q, f4) := mulV (fmtF32.decode s2) (fmtF32.decode t2)
    let (r, f5) := sumV mode [p, q]
    let (s, f6) := finish fmtF32 mode (r, f3 ||| f4 ||| f5)
    (m, s, f1 ||| f2 ||| f6)

/-- A pair of the scalar layout merged with another. -/
def pmergeWord (mode : Mode) (a b : Word) : Word × BitVec 5 :=
  let (m, s, fl) := pmergePair mode (a.toNat % 2 ^ 32) (a.toNat / 2 ^ 32) (b.toNat % 2 ^ 32) (b.toNat / 2 ^ 32)
  (BitVec.ofNat 64 (m + 2 ^ 32 * s), fl)

/-! ## The instructions -/

/-- A function of one operand, in its scalar or vector form (R116). -/
def special1 (h : Hdr) (x : SF1) (g : Mode → Nat → Nat × BitVec 5) (rm : Rm) (s : State) : Host.Outcome State Fault Refusal :=
  instrFp h s do
    let mode ← modeM rm
    match x with
    | .sca a b => do
      let v ← readG b
      let (r, fl) := g mode (v.toNat % 2 ^ 32)
      writeG a (BitVec.ofNat 64 r)
      pure fl
    | .vec z mk a b => do
      let k ← readMask mk
      let v ← readV b
      let (r, fl) := elemsF 32 k fun j => g mode (lane v j).toNat
      writeMasked a k z r
      pure fl

/-- RCPA (R117). -/
def execRcpa (h : Hdr) (_rne : Bool) (x : SF1) (s : State) : Host.Outcome State Fault Refusal :=
  special1 h x (fun _ => rcpa) .rne s

/-- RSQA (R117). -/
def execRsqa (h : Hdr) (_rne : Bool) (x : SF1) (s : State) : Host.Outcome State Fault Refusal :=
  special1 h x (fun _ => rsqa) .rne s

/-- EXP2A (R117). -/
def execExp2a (h : Hdr) (_rne : Bool) (x : SF1) (s : State) : Host.Outcome State Fault Refusal :=
  special1 h x (fun _ => exp2a) .rne s

/-- LOG2A (R117). -/
def execLog2a (h : Hdr) (_rne : Bool) (x : SF1) (s : State) : Host.Outcome State Fault Refusal :=
  special1 h x (fun _ => log2a) .rne s

/-- TANHA (R117). -/
def execTanha (h : Hdr) (_rne : Bool) (x : SF1) (s : State) : Host.Outcome State Fault Refusal :=
  special1 h x (fun _ => tanha) .rne s

/-- GELUA (R117). -/
def execGelua (h : Hdr) (_rne : Bool) (x : SF1) (s : State) : Host.Outcome State Fault Refusal :=
  special1 h x (fun _ => gelua) .rne s

/-- SQRTF (R118). -/
def execSqrtf (h : Hdr) (rm : Rm) (x : SF1) (s : State) : Host.Outcome State Fault Refusal := special1 h x sqrtF rm s

/-- DIVF (R118). -/
def execDivf (h : Hdr) (rm : Rm) (x : SF2) (s : State) : Host.Outcome State Fault Refusal :=
  instrFp h s do
    let mode ← modeM rm
    match x with
    | .sca a b c => do
      let v ← readG b
      let w ← readG c
      let (r, fl) := divF mode (v.toNat % 2 ^ 32) (w.toNat % 2 ^ 32)
      writeG a (BitVec.ofNat 64 r)
      pure fl
    | .vec z mk a b c => do
      let k ← readMask mk
      let v ← readV b
      let w ← readVSrc 32 c
      let (r, fl) := elemsF 32 k fun j => divF mode (lane v j).toNat (lane w j).toNat
      writeMasked a k z r
      pure fl

/-- SINCOS (R119). -/
def execSincos (h : Hdr) (_rne : Bool) (x : SFPair) (s : State) : Host.Outcome State Fault Refusal :=
  instrFp h s do
    match x with
    | .sca a b => do
      let v ← readG b
      let (sn, cs) := sincos (v.toNat % 2 ^ 32)
      writeG a (BitVec.ofNat 64 (sn.1 + 2 ^ 32 * cs.1))
      pure (sn.2 ||| cs.2)
    | .vec z mk a b => do
      let k ← readMask mk
      let v ← readV b
      let (r, f1) := elemsF 32 k fun j => (sincos (lane v j).toNat).1
      let (c, f2) := elemsF 32 k fun j => (sincos (lane v j).toNat).2
      writeMasked (.v (a ++ (0 : BitVec 1))) k z r
      writeMasked (.v (a ++ (1 : BitVec 1))) k z c
      pure (f1 ||| f2)

/-- PMERGE (R120); the pair in lanes 2i and 2i + 1 is active when lane 2i is. -/
def execPmerge (h : Hdr) (rm : Rm) (x : SFMerge) (s : State) : Host.Outcome State Fault Refusal :=
  instrFp h s do
    let mode ← modeM rm
    match x with
    | .sca a b c => do
      let v ← readG b
      let w ← readG c
      let (r, fl) := pmergeWord mode v w
      writeG a r
      pure fl
    | .vec z mk a b c => do
      let k ← readMask mk
      let v ← readV b
      let w ← readV c
      let pairs := BitVec.ofNat 16 (((List.range 8).map fun i => if active k (2 * i) then 3 * 4 ^ i else 0).sum)
      let r (i : Nat) : Nat × Nat × BitVec 5 :=
        pmergePair mode (lane v (2 * i)).toNat (lane v (2 * i + 1)).toNat (lane w (2 * i)).toNat (lane w (2 * i + 1)).toNat
      writeMasked a pairs z (vmk fun j => BitVec.ofNat 32 (if j % 2 = 0 then (r (j / 2)).1 else (r (j / 2)).2.1))
      pure ((List.range 8).foldl (fun fl i => if active k (2 * i) then fl ||| (r i).2.2 else fl) 0)

end Sys2Proof.Machine
end

