-- ==== Sys2Proof/Machine/Messages.lean ====
section
/-! DEFINITION. Message and mailbox instructions (R179-R187). -/

namespace Sys2Proof.Machine

/-! ## AADs in registers (R165, R181) -/

/-- Does a 64-bit value hold an AAD that names a core and a mailbox (R181, cause 1)? -/
def aadOk (w : Word) : Bool :=
  let node := (w.extractLsb' 9 11).toNat
  w.extractLsb' 31 33 == 1 && w.extractLsb' 20 11 == 0 && decide (node < 530) &&
  (decide (node < 512) || decide (528 ≤ node) || !w.getLsbD 8)

/-- Is a cluster in the context's interval (R327)? -/
def Ctx.holdsCluster (x : Ctx) (i : Nat) : Bool := decide (x.svb ≤ i) && decide (i < x.svb + x.svl)

/-- May the context address a node: a cluster of its interval, or an I/O-die node of its GRANT (R335)? -/
def Ctx.mayReach (x : Ctx) (node : Nat) : Bool :=
  if node < 512 then x.holdsCluster node else x.grant.getLsbD (node - 512)

/-- A send fault (R181). -/
def sendFault (cause : Nat) (dst : Word) : Notice := { code := 0x000C, reason := cause, info := dst }

/-- Parks unless a register holds the AAD of a core (R181, cause 1: KILL, WINMAP, RESUME). -/
def needAad (w : Word) : M (BitVec 32) := do
  check (aadOk w) (sendFault 1 w)
  pure (w.setWidth 32)

/-- The lowest-numbered cause of R181 that holds for a message; for cause 5 see `startAct`. -/
def sendCause (s : State) (dst : Word) (cls : BitVec 4) (flits : Nat) (isReply : Bool) : Option Nat :=
  let x := s.ctxAt s.cctx
  if !aadOk dst then some 1
  else if !x.mayReach (nodeOf (aadCore (dst.setWidth 32))) then some 2
  else if x.mlen.toNat < flits then some 3
  else if cls = 14 ∧ !s.isPriv then some 4
  else if isReply && s.act.byComb then some 5
  else if cls = 15 ∧ s.act.msg.m.cls = 15 then some 6
  else none

/-- AAD of the return mailbox of the present actor (R164). -/
def State.returnAad (s : State) : BitVec 32 :=
  let a := s.act
  let ret := match s.actorAt s.cctx s.idCore a.actor with | some x => x.ret | none => 0
  aadOf s.idCore (BitVec.ofNat 6 (4 * a.actor + ret.toNat))

/-- Who places a message: the present activation. -/
def State.issuer (s : State) : Issuer :=
  { dom := s.cur.dom, windows := s.act.openWindows s.cur.dom
    aid := match s.cactor? with | some x => x.aid | none => 0
    slot := slotByte s.cur.sid.slot s.cur.stream, born := s.act.startAt }

/-! ## SEND, SENDL, REPLY, REFUSE (R179-R182) -/

/-- The n words of a payload: of registers that follow one another, or popped from one queue. -/
def payloadWords : GQ → Nat → M (List Byte)
  | _, 0 => pure []
  | .g i, n + 1 => do
    let w ← readReg i
    let t ← payloadWords (.g (i + 1)) n
    pure (bytesLE 8 w.toNat ++ t)
  | .q i, n + 1 => do
    let w ← readG (.q i)
    let t ← payloadWords (.q i) n
    pure (bytesLE 8 w.toNat ++ t)

/-- The payload of SEND and REPLY. -/
def payloadM : SendSrc → M (List Byte)
  | .regs b n => payloadWords b n.toNat
  | .lanes b => do
    let v ← readV b
    pure ((List.range 12).flatMap fun j => bytesLE 4 (lane v j).toNat)

/-- Tag and delay of a g operand; `tag0` is the tag without one (R180). -/
def tagDelayM (tag0 : BitVec 32) : Option GQ → M (BitVec 32 × Nat)
  | none => pure (tag0, 0)
  | some c => do
    let w ← readG c
    pure (w.setWidth 32, min (w.extractLsb' 32 17).toNat 65536)

/-- Checks a message and places it in the outbound buffer (R180, R181). -/
def placeMsg (dst : Word) (cls : BitVec 4) (payload : List Byte) (tag : BitVec 32) (delay : Nat) (rel isReply : Bool) : M Unit := do
  match ← asks fun s => sendCause s dst cls ((16 + payload.length + 63) / 64) isReply with
  | some cause => parkM (sendFault cause dst)
  | none =>
    let src ← asks State.returnAad
    let who ← asks State.issuer
    pushOutM (.msg { dst := dst.setWidth 32, cls, col := if isReply then 1 else 0, rel, src, tag, payload, issuer := some who } delay)

/-- SEND (R180). -/
def execSend (h : Hdr) (rel : Bool) (d : GQ) (src : SendSrc) (cls : BitVec 4) (c : Option GQ) (s : State) :
    Host.Outcome State Fault Refusal :=
  instr h s do
    let dst ← readG d
    let pay ← payloadM src
    let (tag, delay) ← tagDelayM 0 c
    placeMsg dst cls pay tag delay rel false

/-- SENDL (R180): its payload is a weak load, which faults as a load. -/
def execSendl (h : Hdr) (rel : Bool) (d b : GQ) (len1 : BitVec 8) (cls : BitVec 4) (c : Option GQ) (s : State) :
    Host.Outcome State Fault Refusal :=
  instr h s do
    let dst ← readG d
    let x ← readG b
    let (tag, delay) ← tagDelayM 0 c
    let pay ← loadM x (len1.toNat + 1) false
    placeMsg dst cls pay tag delay rel false

/-- REPLY (R180): to the SRC of HDR1, with its TAG unless FC gives another. -/
def execReply (h : Hdr) (rel : Bool) (src : SendSrc) (cls : BitVec 4) (c : Option GQ) (s : State) :
    Host.Outcome State Fault Refusal :=
  instr h s do
    let hdr1 ← asks fun s => s.act.hdr1
    let pay ← payloadM src
    let (tag, delay) ← tagDelayM (hdr1.extractLsb' 32 32) c
    placeMsg ((hdr1.extractLsb' 0 32).setWidth 64) cls pay tag delay rel true

/-- REFUSE (R182): the bytes of the triggering message as they arrived, and the AAD of the activating mailbox. -/
def execRefuse (h : Hdr) (code : BitVec 8) (s : State) : Host.Outcome State Fault Refusal :=
  instr h s do
    let m ← asks fun s => s.act.msg.m
    match ← asks fun s => sendCause s (m.src.setWidth 64) 15 2 true with
    | some cause => parkM (sendFault cause (m.src.setWidth 64))
    | none =>
      let aad ← asks fun s => aadOf s.idCore s.act.mbx
      let src ← asks State.returnAad
      pushOutM (.msg { refusalMsg m code.toNat aad with src } 0)

/-! ## Mailboxes (R183-R186) -/

/-- A configuration fault; the manual states no INFO for it. -/
def configFault (cause : Nat) : Notice := { code := 0x000D, reason := cause, openInfo := true }

/-- Number of mailbox m of the present actor. -/
def State.ownMbx (s : State) (m : BitVec 2) : BitVec 6 := BitVec.ofNat 6 (4 * s.act.actor + m.toNat)

/-- Mailbox m of the present actor. -/
def State.ownBox (s : State) (m : BitVec 2) : Mailbox := s.mbxAt s.cctx s.idCore (s.ownMbx m)

/-- Changes the NI; the NI of a pair is the primary's (R350), so the secondary's copy of the instruction changes nothing. -/
def changeNi (f : State → State) : M Unit := change fun s => if s.isCopy then s else f s

/-- Changes mailbox m of the present actor, and looks for messages that can now move. -/
def changeBox (m : BitVec 2) (f : Mailbox → Mailbox) : M Unit := changeNi fun s =>
  let mb := s.ownMbx m
  ((s.modMbx s.cctx s.ccore mb f).drainNow s.cctx s.ccore mb).now (.activationStart s.cctx s.ccore)

/-- Changes the present actor. -/
def changeActor (f : Actor → Actor) : M Unit := changeNi fun s =>
  match s.cactor? with
  | some a => { s with actors := s.actors.put (s.cctx, s.ccore, s.act.actor) (f a) }
  | none => s

/-- Does a mailbox hold queued messages, or is it armed? -/
def Mailbox.busy (b : Mailbox) : Bool := !b.waiting.isEmpty || b.comb.armed

/-- Does the bobbin of a mailbox hold messages, or are some on their way into it? -/
def Mailbox.bobbinUsed (b : Mailbox) : Bool := !b.limbo.isEmpty || match b.bobbin with | some x => decide (0 < x.count) | none => false

/-- Sum of the depths of the queue mailboxes of a core but one (R168). -/
def State.depthSum (s : State) (c core : Nat) (but : BitVec 6) : Nat :=
  ((s.mbxs.filter fun x => x.1.1 == c && x.1.2.1 == core && x.1.2.2 != but && x.2.kind == .queue).map fun x => x.2.depth).sum

/-- The lowest-numbered cause of R183 for MBCFG.q. -/
def mbcfgQCause (b : Mailbox) (others : Nat) (w : Word) : Option Nat :=
  let depth := (w.extractLsb' 0 7).toNat
  if depth < 1 ∨ 64 < depth then some 1
  else if 96 < others + depth then some 2
  else if depth < b.used ∨ (b.kind ≠ .queue ∧ b.busy) then some 6
  else if w &&& ~~~0x1317F ≠ 0 then some 7
  else none

/-- MBCFG.q (R183). -/
def execMbcfgQ (h : Hdr) (m : BitVec 2) (b : GQ) (s : State) : Host.Outcome State Fault Refusal :=
  instr h s do
    let w ← readG b
    let cause ← asks fun s => mbcfgQCause (s.ownBox m) (s.depthSum s.cctx s.idCore (s.ownMbx m)) w
    match cause with
    | some n => parkM (configFault n)
    | none =>
      changeBox m fun x => { x with
        kind := .queue, depth := (w.extractLsb' 0 7).toNat, spill := w.getLsbD 8, prio := w.extractLsb' 12 2, comb := {} }
      if w.getLsbD 16 then changeActor fun a => { a with ret := m }

/-- MBCFG.comb (R183): a mailbox that is combining already changes no kind, and is disarmed. Policy and priority stay as they are, and
MBSTAT shows them (DESIGN CHOICE, notes/assumptions/81.md). -/
def execMbcfgComb (h : Hdr) (m : BitVec 2) (b : GQ) (s : State) : Host.Outcome State Fault Refusal :=
  instr h s do
    let w ← readG b
    let x ← asks fun s => s.ownBox m
    check (x.kind == .combining || !x.busy) (configFault 6)
    check (w == 0) (configFault 7)
    changeBox m fun x => { x with kind := .combining, depth := 0, comb := {} }

/-- MBCFG.bob (R183): a bobbin lies in global memory (R170). -/
def execMbcfgBob (h : Hdr) (m : BitVec 2) (b c : GQ) (s : State) : Host.Outcome State Fault Refusal :=
  instr h s do
    needPriv
    let base ← readG b
    let size ← readG c
    let held ← asks fun s => (s.ownBox m).bobbinUsed
    check (decide (base.toNat % 4096 = 0 ∧ size.toNat % 4096 = 0 ∧ 4096 ≤ size.toNat ∧ size.toNat ≤ 2 ^ 30 ∧
      base.toNat + size.toNat ≤ 2 ^ 55) && !held) (configFault 3)
    check ((← asks fun s => s.ownBox m).kind != .unconfigured) (configFault 5)
    changeBox m fun x => { x with bobbin := some { base, entries := size.toNat / 256, head := 0 } }

/-- MBCFG.hnd (R183). -/
def execMbcfgHnd (h : Hdr) (m : BitVec 2) (cls : BitVec 4) (idem : Bool) (b : GQ) (s : State) :
    Host.Outcome State Fault Refusal :=
  instr h s do
    let w ← readG b
    check (w == 0 || codeAligned w) (configFault 4)
    changeActor fun a => { a with handlers := a.handlers.put (m, cls) (w, idem) }

/-- MBCFG.off (R183): it holds its stream until each message of the bobbin is refused, for which their pages have to translate; those of
a page that Pelson will not map are lost (DESIGN CHOICE, notes/assumptions/56.md). The digest becomes 0 (R365). Policy and priority stay
(DESIGN CHOICE, notes/assumptions/81.md). -/
def execMbcfgOff (h : Hdr) (m : BitVec 2) (b : GQ) (s : State) : Host.Outcome State Fault Refusal :=
  guarded h s <| runM s
    (do
      let w ← readG b
      check (w == 0) (configFault 7)
      changeNi fun s => s.refuseAll s.cctx s.ccore (s.ownMbx m)
      changeBox m fun x => { x with kind := .unconfigured, depth := 0, bobbin := none, comb := {}, digest := 0 })
    fun _ t =>
      if !t.isCopy && (t.coreAt t.cctx t.ccore).closing.any fun x => x.mbx == t.ownMbx m then t.issueHeld h (.closing (t.ownMbx m))
      else t.retire h

/-- CMASK (R184). -/
def execCmask (h : Hdr) (m : BitVec 2) (mask : BitVec 14) (s : State) : Host.Outcome State Fault Refusal :=
  instr h s (changeBox m fun x => { x with mask := x.mask ||| mask })

/-- CUNMASK (R184). -/
def execCunmask (h : Hdr) (m : BitVec 2) (mask : BitVec 14) (s : State) : Host.Outcome State Fault Refusal :=
  instr h s (changeBox m fun x => { x with mask := x.mask &&& ~~~mask })

/-- The value of MBSTAT (R186): of the notice reserve, QN counts classes 14 and 15. -/
def Mailbox.stat (b : Mailbox) : Word :=
  let res := (b.reserve.filter fun q => decide (14 ≤ q.m.cls.toNat)).length
  let qn := min 255 (b.ring.length + b.put.length + res)
  let kind : Nat := match b.kind with | .unconfigured => 0 | .queue => 1 | .combining => 2
  let bn := match b.bobbin with | some x => min 65535 x.count | none => 0
  let rem := if b.comb.armed then b.comb.left else 0
  BitVec.ofNat 64 (qn + b.used <<< 8 + b.mask.toNat <<< 16 + kind <<< 30 + bn <<< 32 + (if b.spill then 1 else 0) <<< 48 +
    b.prio.toNat <<< 49 + b.drop <<< 51 + rem <<< 53)

/-- MBSTAT (R186, R365). -/
def execMbstat (h : Hdr) (dig : Bool) (a : GQ) (m : BitVec 2) (s : State) : Host.Outcome State Fault Refusal :=
  instr h s do
    let b ← asks fun s => s.ownBox m
    writeG a (if dig then b.digest else b.stat)

/-- MBARM (R185). -/
def execMbarm (h : Hdr) (op : ArmOp) (m : BitVec 2) (b c : GQ) (s : State) : Host.Outcome State Fault Refusal :=
  instr h s do
    let acc ← readG b
    let n ← readG c
    check ((← asks fun s => s.ownBox m).kind == .combining) (configFault 5)
    check (decide (1 ≤ n.toNat ∧ n.toNat ≤ 1024)) (configFault 7)
    changeBox m fun x => { x with comb := { armed := true, op, acc, count := n.toNat, left := n.toNat, flags := 0 } }

/-- SELF (R187). -/
def execSelf (h : Hdr) (f : SelfForm) (a : GQ) (s : State) : Host.Outcome State Fault Refusal :=
  instr h s do
    let v : Word ← asks fun s =>
      match f, s.cactor? with
      | .aad, _ => (aadOf s.idCore s.act.mbx).setWidth 64
      | .aid, some x => x.aid.setWidth 64
      | .grp, some x => x.group.setWidth 64
      | .mbx m, _ => (aadOf s.idCore (s.ownMbx m)).setWidth 64
      | _, none => 0
    writeG a v

end Sys2Proof.Machine
end

