-- ==== Sys2Proof/Machine/Graph.lean ====
section
/-! DEFINITION. The graph unit (R313-R326): descriptors, acceptance, readiness, dispatch, control nodes, completion and
failure; GSUB and GSIG, and the events of the unit. -/

namespace Sys2Proof.Machine

/-! ## Descriptors (R313, R317) -/

/-- Fields of a descriptor. -/
def dKind (d : List Byte) : Nat := fieldLE d 0 1
def dPri (d : List Byte) : Nat := fieldLE d 1 1 % 4
def dWcls (d : List Byte) : Nat := fieldLE d 2 1 % 16
def dCls (d : List Byte) : Nat := fieldLE d 2 1 / 16
def dAff (d : List Byte) : Nat := fieldLE d 6 2
def dDone (d : List Byte) : Nat := fieldLE d 16 8
def dRet (d : List Byte) : BitVec 32 := BitVec.ofNat 32 (fieldLE d 24 4)
def dWord (d : List Byte) : Nat := fieldLE d 32 8
def dTable (d : List Byte) : Nat := fieldLE d 40 8
def dNsub (d : List Byte) : Nat := fieldLE d 48 2
def dMaxit (d : List Byte) : Nat := fieldLE d 50 2
def dIter (d : List Byte) : Nat := fieldLE d 52 2

/-- Base and length of a region; 0-3 are read, 4 and 5 written. -/
def dRegion (d : List Byte) (i : Nat) : Nat × Nat := (fieldLE d (96 + 16 * i) 8, fieldLE d (104 + 16 * i) 4)

/-- Does a written region of either node overlap a region of the other (R313, R314)? -/
def conflicts (x y : List Byte) : Bool :=
  (List.range 6).any fun i => (List.range 6).any fun j =>
    let a := dRegion x i
    let b := dRegion y j
    decide (4 ≤ i ∨ 4 ≤ j) && a.2 != 0 && b.2 != 0 && decide (a.1 < b.1 + b.2) && decide (b.1 < a.1 + a.2)

/-- Are bytes `off` to `off + n - 1` zero? -/
def zeroAt (d : List Byte) (off n : Nat) : Bool := fieldLE d off n == 0

/-- Are the bytes marked zero all zero, and ITER (R325, cause 3)? -/
def descZeros (d : List Byte) : Bool :=
  let k := dKind d
  fieldLE d 1 1 < 4 && zeroAt d 3 1 && fieldLE d 5 1 < 2 && zeroAt d 28 4 &&
  ((List.range 6).all fun i => zeroAt d (108 + 16 * i) 4) &&
  (k == 0 || (zeroAt d 2 1 && zeroAt d 54 42 && zeroAt d 52 2 && (k == 2 || zeroAt d 50 2)))

/-- Are CLS and NSUB what R313 and R317 admit (R325, cause 4)? -/
def descCounts (d : List Byte) : Bool :=
  decide (dCls d ≤ 13) &&
  match dKind d with
  | 0 => true
  | 1 => dNsub d == 2
  | 2 => dNsub d == 1
  | _ => decide (1 ≤ dNsub d) && decide (dNsub d ≤ 64)

/-- Is an address one that DONE, WORD or TABLE may hold: a multiple of 8, and not local (R325, cause 8)? -/
def descAddr (a : Nat) : Bool := a % 8 == 0 && decide (a < 2 ^ 55)

/-- Are the addresses of a descriptor good? -/
def descAddrs (d : List Byte) : Bool := descAddr (dDone d) && (dKind d == 0 || (descAddr (dWord d) && descAddr (dTable d)))

/-! ## Workers (R319) -/

/-- Core of a worker's node. -/
def workerCore (w : Word) : Nat := aadCore (w.setWidth 32)

/-- Is a worker entry in service? -/
def State.workerOk (s : State) (c : Nat) (w : Word) : Bool :=
  let cap := (w.extractLsb' 36 4).toNat
  let aad : BitVec 32 := w.setWidth 32
  let serial := match s.actorAt c (aadCore aad) (aadActor aad) with | some a => !a.parallel | none => false
  w.getLsbD 40 && decide (1 ≤ cap) && decide (cap ≤ 8) && aadOk (aad.setWidth 64) &&
  (s.ctxAt c).mayReach (nodeOf (aadCore aad)) && (cap == 1 || !serial)

/-- Is a worker of a class in service? -/
def State.classServed (s : State) (c wcls : Nat) : Bool :=
  (s.ctxAt c).workers.any fun w => (w.entry.extractLsb' 32 4).toNat == wcls && s.workerOk c w.entry

/-- The lowest-numbered cause of R325, but for cause 1. -/
def State.submitCause (s : State) (c : Nat) (d : List Byte) : Option Nat :=
  let aff := dAff d
  if 3 < dKind d then some 2
  else if !descZeros d then some 3
  else if !descCounts d then some 4
  else if aff != 0xFFFF && !(s.ctxAt c).holdsCluster aff then some 5
  else if (List.range 6).any (fun i => decide (2 ^ 64 < (dRegion d i).1 + (dRegion d i).2)) then some 6
  else if dKind d = 0 && !s.classServed c (dWcls d) then some 7
  else if !descAddrs d then some 8
  else none

/-- Does an expanded descriptor follow R313 and R317 (R322, cause 4)? -/
def descOk (d : List Byte) : Bool :=
  decide (dKind d ≤ 3) && descZeros d && descCounts d && (dAff d == 0xFFFF || decide (dAff d < 512)) && descAddrs d

/-! ## The pool -/

/-- Core number under which the graph unit of a die sends messages (R320: SEQ is counted per graph unit). -/
def graphCore (die : Nat) : Nat := 8192 + die

/-- Die of a context's graph unit (R328). -/
def Ctx.die (x : Ctx) : Nat := x.svb / 256

/-- A node. -/
def Ctx.node? (x : Ctx) (id : Nat) : Option Node := x.nodes.find? fun n => n.id == id

/-- Changes a node. -/
def Ctx.modNode (x : Ctx) (id : Nat) (f : Node → Node) : Ctx :=
  { x with nodes := x.nodes.map fun n => if n.id == id then f n else n }

/-- Is the context stopped for its graph unit: on every core of its partition (R324)? -/
def State.ctxStopped (s : State) (c : Nat) : Bool :=
  let x := s.ctxAt c
  !x.running || decide (8 * x.svl ≤ (s.coreCtx.filter fun k =>
    k.1.1 == c && x.holdsCluster (nodeOf k.1.2) && (k.2.stop.isSome || k.2.stopped)).length)

/-- Do dispatch and control evaluation stand still: while the context is stopped (R324), and during a live update of the
graph-unit firmware (R347)? -/
def State.graphStopped (s : State) (c : Nat) : Bool :=
  s.ctxStopped c || (match s.update with | some u => u.graph | none => false)

/-- Is a node one of an expansion of `top`, or `top` itself? By fuel. -/
def Ctx.under (x : Ctx) (top : Nat) : Nat → Nat → Bool
  | 0, _ => false
  | f + 1, id =>
    if id = top then true
    else match (x.node? id).bind (·.parent) with
      | some p => Ctx.under x top f p
      | none => false

/-- The ancestors of a node, itself included. -/
def Ctx.ancestors (x : Ctx) : Nat → Option Nat → List Nat
  | 0, _ => []
  | _, none => []
  | f + 1, some id => id :: Ctx.ancestors x f ((x.node? id).bind (·.parent))

/-- Is the event a node waits for there (R316)? -/
def Ctx.eventOk (x : Ctx) (d : List Byte) : Bool :=
  fieldLE d 5 1 % 2 == 0 || decide (fieldLE d 8 8 ≤ ((x.events[fieldLE d 4 1]?).getD 0).toNat)

/-- A node becomes ready: a compute node at the tail of its level, a control node to be evaluated (R316-R318). -/
def State.makeReady (s : State) (c : Nat) (n : Node) : State :=
  let x := s.ctxAt c
  if dKind n.desc = 0 then
    let lv := dPri n.desc
    s.modCtx c fun x => { x.modNode n.id fun n => { n with st := .ready x.gclock lv (s.cycle + 48) } with
      levels := vmod x.levels lv fun l => l ++ [n.id] }
  else
    let s := s.modCtx c fun _ => x.modNode n.id fun n => { n with st := .evaluating none }
    if s.graphStopped c then s else s.now (.controlEvaluation c n.id)

/-- Looks for nodes that have become ready (R316), in position order. -/
def State.graphReady (s : State) (c : Nat) : State :=
  (s.ctxAt c).nodes.foldl (fun s n =>
    if n.st == .waiting && n.preds.isEmpty && (s.ctxAt c).eventOk n.desc then s.makeReady c n else s) s

/-- Accepts a descriptor at a position of the pool (R314): the node's identity. -/
def State.acceptAt (s : State) (c pos : Nat) (d : List Byte) (n : Node) : Nat × State :=
  let x := s.ctxAt c
  let id := x.nextNode
  let not_ := x.ancestors (x.nodes.length + 1) n.parent
  let preds := ((x.nodes.take pos).filter fun m => !not_.contains m.id && conflicts m.desc d).map (·.id)
  let node := { n with id, desc := d, preds, st := .waiting }
  (id, (s.modCtx c fun x => { x with
    nodes := x.nodes.take pos ++ [node] ++ x.nodes.drop pos, nextNode := id + 1 }).graphReady c)

/-- Entries that a graph unit holds (R315). -/
def unitEntries : Nat := 8192

/-- Does a context's quota, or its die's graph unit, have no entry for another node (R315)? -/
def State.poolFull (s : State) (c : Nat) : Bool :=
  let x := s.ctxAt c
  let here := s.ctxs.filter fun y => y.2.running && y.2.die == x.die
  decide (x.quota ≤ x.nodes.length) || decide (unitEntries ≤ (here.map fun y => y.2.nodes.length).sum)

/-- What the quotas of the other partitions of a die leave of its unit's entries (R315); the contexts of one partition share its
entries. -/
def State.quotaRoom (s : State) (c die svb : Nat) : Nat :=
  let others := s.ctxs.filter fun y => y.1 != c && !y.2.terminated && y.2.die == die && y.2.svb != svb
  let parts := (others.map fun y => y.2.svb).eraseDups
  unitEntries - (parts.map fun b => ((others.filter fun y => y.2.svb == b).map fun y => y.2.quota).foldl max 0).sum

/-- Control nodes with descriptors that the pool now admits (R317). -/
def State.graphExpand (s : State) (c : Nat) : State :=
  let x := s.ctxAt c
  if s.poolFull c then s
  else x.nodes.foldl (fun s n => match n.st with
    | .expanded (_ :: _) .. => s.now (.expansionAccept c n.id)
    | _ => s) s

/-! ## Completion and failure (R321, R322) -/

/-- Writes a DONE word with a strong store as a release at .pkg, checked with the rights of its node (R193, R317, R321); a refused
one is dropped (DEDUCED, notes/assumptions/49.md). One whose page has no translation yet is kept, and the page is walked. -/
def State.writeDone (s : State) (c : Nat) (d : DoneWord) : State :=
  match lookTlb (s.clHwAt d.cluster).tlb c d.addr with
  | none => (s.modCtx c fun x => { x with dones := x.dones ++ [d] }).startWalk c d.cluster (d.addr / 65536) .engine
  | some e =>
    if !(e.w && (s.ctxAt c).allows d.dom d.windows d.addr e.dom .write) then s
    else
      (List.range 8).foldl (fun s i =>
        s.globalWrite c (8 * d.cluster) e.key (d.addr + i) (e.phys d.addr + i) true false (if i = 0 then BitVec.ofNat 8 d.status else 0))
        (s.releaseWide c (8 * d.cluster) .pkg)

/-- Writes the DONE word of a node, or keeps it until its page is translated. -/
def State.nodeDone (s : State) (c : Nat) (n : Node) (status : Nat) : State :=
  let a := dDone n.desc
  if a = 0 then s
  else s.writeDone c { cluster := n.cluster, addr := a, status, dom := n.dom, windows := n.windows }

/-- Tries the DONE words that wait. -/
def State.retryDones (s : State) (c : Nat) : State :=
  (s.ctxAt c).dones.foldl (fun s d => s.writeDone c d) (s.modCtx c fun x => { x with dones := [] })

/-- The dispatch of a worker ends (R321): the worker is no longer passed over. -/
def Worker.endOne (w : Worker) : Worker := { w with out := w.out - 1, passOwn := false, passUntil := none }

/-- Takes a node out of the pool. -/
def Ctx.dropNode (x : Ctx) (n : Node) : Ctx :=
  let x := { x with nodes := x.nodes.filter (fun m => m.id != n.id), levels := x.levels.map fun l => l.filter (· != n.id) }
  match n.st with
  | .running w .. | .ending w _ => { x with workers := vmod x.workers w.toNat Worker.endOne }
  | _ => x

/-- One loop of completions, failures and cancellations, as (node, status), by fuel: 1 and 4 complete, 2 fails, 3 cancels. -/
def finishLoop : Nat → State → Nat → List (Nat × Nat) → State
  | 0, s, _, _ => s
  | _, s, _, [] => s
  | f + 1, s, c, (id, status) :: rest =>
    match (s.ctxAt c).node? id with
    | none => finishLoop f s c rest
    | some n =>
      let s := (s.nodeDone c n status).modCtx c fun x => x.dropNode n
      if status = 2 ∨ status = 3 then
        let succ := ((s.ctxAt c).nodes.filter fun m => m.preds.contains id).map fun m => (m.id, 3)
        finishLoop f s c (succ ++ (match n.parent with | some p => [(p, 3)] | none => []) ++ rest)
      else
        let s := s.modCtx c fun x => { x with nodes := x.nodes.map fun m => { m with preds := m.preds.filter (· != id) } }
        match n.parent.bind fun p => (s.ctxAt c).node? p with
        | some p =>
          (match p.st with
            | .expanded todo kids st =>
              let st := if n.copy then status else st
              let s := s.modCtx c fun x => x.modNode p.id fun p => { p with st := .expanded todo (kids - 1) st }
              finishLoop f s c (if todo.isEmpty && kids ≤ 1 then (p.id, st) :: rest else rest)
            | _ => finishLoop f s c rest)
        | none => finishLoop f s c rest

/-- Ends a node with a status, and all that follows from it. -/
def State.finishNode (s : State) (c id status : Nat) : State :=
  let n := (s.ctxAt c).nodes.length + 2
  ((finishLoop (n * n) s c [(id, status)]).graphReady c).graphExpand c

/-- A node fails: notice 0x001B to SUPV (R322). -/
def State.failNode (s : State) (c id cause : Nat) : State :=
  match (s.ctxAt c).node? id with
  | none => s
  | some n =>
    let s := s.finishNode c id 2
    s.sysNotice c (graphCore (s.ctxAt c).die) n.submitter (noticeBytes 0x001B cause 0 0 n.aid 0 0 (BitVec.ofNat 64 id))

/-- The activation of a node has been ended by a kill (R322). -/
def State.failOf (s : State) (c : Nat) (a : Act) (cause : Nat) : State :=
  match a.node with
  | some id => s.failNode c id cause
  | none => s

/-- Nodes whose counters have all been reached complete (R321). -/
def State.checkNodes (s : State) (c : Nat) : State :=
  (s.ctxAt c).nodes.foldl (fun s n => match n.st with
    | .ending _ ws =>
      if ws.all fun w => decide (w.2.2 ≤ (((s.coreAt c w.1).tlc[w.2.1]?).getD {}).present) then s.now (.nodeComplete c n.id)
      else s
    | _ => s) s

/-! ## GSUB and GSIG (R325, R326) -/

/-- May a descriptor of n bytes lie at an address: the actor part of CLM, or the issuer's workspace scratch? -/
def State.descPlace (s : State) (a n : Nat) : Bool :=
  let off := a - 2 ^ 55
  let ws := 4096 * s.cur.sid.slot
  a % 8 == 0 && decide (2 ^ 55 ≤ a) &&
  ((decide (45056 ≤ off) && decide (off + n ≤ 131072)) || (decide (ws + 3456 ≤ off) && decide (off + n ≤ ws + 3840)))

/-- A submit fault (R325); the manual states no INFO for it. -/
def submitFault (cause : Nat) : Notice := { code := 0x001C, reason := cause, openInfo := true }

/-- The answer that the primary's submission has had already goes to its secondary. -/
def State.takeAnswer (s : State) : State :=
  match s.seam? with
  | some (i, true) =>
    (match (s.seams[i]?).bind fun x => x.answers.head? with
      | none => s
      | some v =>
        let s := { s with seams := s.seams.modify i fun x => { x with answers := x.answers.tail } }
        s.modAct fun a => a.setStr s.cur.stream { a.str s.cur.stream with answer := some v })
  | _ => s

/-- GSUB (R325): submits, and is held until the graph unit answers; then it writes ga. -/
def execGsub (h : Hdr) (a b : GQ) (s : State) : Host.Outcome State Fault Refusal :=
  match (s.act.str s.cur.stream).answer with
  | some v => runM s (writeG a v) fun _ t => t.goTo (nextPc s.pc) .transfer (s.act.str s.cur.stream).issuedAt
  | none =>
    guarded h s <| runM s
      (do
        let x ← readG b
        roomG a
        check (← asks fun s => s.descPlace x.toNat 192) (submitFault 1)
        let d ← loadM x 192 false
        match ← asks fun s => s.submitCause s.cctx d with
        | some n => parkM (submitFault n)
        | none => pure ()
        commitM
        change fun s =>
          let s := s.modAct fun a => { a with issued := true }
          if s.isCopy then s
          else s.after 1 (.nodeAccept s.cctx d s.returnAad s.ccl s.cur.dom (s.act.openWindows s.cur.dom)
            (.stream s.cur.sid s.cur.stream)))
      fun _ t => (t.issueHeld h (.gsub a)).takeAnswer

/-- Signals an event counter: adds, or sets (R326), and readiness is looked at again. -/
def signalM (e : Nat) (f : Word → Word) : M Unit := change fun s =>
  if s.isCopy then s else (s.modCtx s.cctx fun x => { x with events := vmod x.events (e % 256) f }).graphReady s.cctx

/-- Event number of GSIG. -/
def evM : EvSrc → M Nat
  | .imm e => pure e.toNat
  | .reg b => do pure ((← readG b).toNat % 256)

/-- GSIG (R326). -/
def execGsig (h : Hdr) (e : EvSrc) (n : AddSrc) (s : State) : Host.Outcome State Fault Refusal :=
  instr h s do
    let ev ← evM e
    let v : Word ← match n with
      | .imm n => pure (n.setWidth 64)
      | .reg c => readG c
    commitM
    signalM ev fun x => x + v

/-- GSIG.set (R326). -/
def execGsigSet (h : Hdr) (e : EvSrc) (c : GQ) (s : State) : Host.Outcome State Fault Refusal :=
  instr h s do
    needPriv
    let ev ← evM e
    let v ← readG c
    commitM
    signalM ev fun _ => v

/-! ## Events of the unit -/

/-- The answer goes to who waits for it: a stream (under lockstitch also its copy), or a submit frame (R325, R340). -/
def State.answer (s : State) (c : Nat) (dest : Answer) (id stat : Nat) : State :=
  let give (x : StreamSt) : StreamSt := match x.wait with
    | .gsub _ => { x with answer := some (BitVec.ofNat 64 id), notBefore := s.cycle + 49 }
    | _ => x
  match dest with
  | .none => s
  | .frame f => s.modCtx c fun x => { x with
      frames := vmod x.frames f.toNat fun w => { w with node := BitVec.ofNat 64 id, stat := BitVec.ofNat 64 (256 + stat) }
      irq0 := x.irq0 + 1 }
  | .stream t x =>
    let s := s.modActAt t fun a => a.setStr x (give (a.str x))
    match s.copyOf t, s.seams.findIdx? (fun k => k.primary == t) with
    | some u, some i =>
      let w : Option Wait := (s.acts.look u).map fun (a : Act) => if (a.str x).answer.isSome then .ready else (a.str x).wait
      (match w with
        | some (.gsub _) => s.modActAt u fun a => a.setStr x (give (a.str x))
        | _ => { s with seams := s.seams.modify i fun k => { k with answers := k.answers ++ [BitVec.ofNat 64 id] } })
    | _, _ => s

/-- NODE_ACCEPT (R314, R315): a full quota refuses; the answer of a submit frame then is 9 (R340). The submitter of a frame is no
actor, and AID of its failures is 0 (DEDUCED, notes/assumptions/49.md). -/
def execNodeAccept (c : Nat) (d : List Byte) (subm : BitVec 32) (cl : Nat) (dom : BitVec 6) (ws : List Window) (dest : Answer)
    (s : State) : Host.Outcome State Fault Refusal :=
  let x := s.ctxAt c
  if s.poolFull c then .next (s.answer c dest 0 9)
  else
    let aid := if !subm.msb then 0 else match s.actorAt c (aadCore subm) (aadActor subm) with | some a => a.aid | none => 0
    let n : Node := { id := 0, desc := [], submitter := subm, aid, cluster := cl, dom, windows := ws, preds := [],
                      parent := none, copy := false, st := .waiting }
    let (id, s) := s.acceptAt c x.nodes.length d n
    .next (s.answer c dest id 0)

/-- What an access of a control node finds (R317, R322). -/
inductive GraphRead where
  | bytes (l : List Byte) | wait (granule : Nat) | fault
  deriving DecidableEq, Repr

/-- Strong loads of a control node, checked with the DOM and windows recorded for it (R193, R204). -/
def State.graphRead (s : State) (c : Nat) (n : Node) : Nat → Nat → GraphRead × State
  | _, 0 => (.bytes [], s)
  | a, k + 1 =>
    if 2 ^ 55 ≤ a then (.fault, s)
    else match lookTlb (s.clHwAt n.cluster).tlb c a with
      | none => (.wait (a / 65536), s)
      | some e =>
        if !(e.r && (s.ctxAt c).allows n.dom n.windows a e.dom .read) then (.fault, s)
        else
          let (b, bad, s) := s.globalRead c (8 * n.cluster) e.key a (e.phys a) true 0
          if bad then (.fault, s)
          else match State.graphRead s c n (a + 1) k with
            | (.bytes l, s) => (.bytes (b :: l), s)
            | r => r

/-- What an evaluation ends with: its expansion and status, a wait, or a failure with its cause. -/
inductive Evaluated where
  | expansion (l : List (List Byte)) (status : Nat) | wait (granule : Nat) | fail (cause : Nat)
  deriving DecidableEq, Repr

/-- Reads k descriptors of an array. -/
def State.readDescs (s : State) (c : Nat) (n : Node) : Nat → Nat → List (List Byte) → Evaluated × State
  | _, 0, acc => (.expansion acc.reverse 1, s)
  | a, k + 1, acc =>
    match s.graphRead c n a 192 with
    | (.wait g, s) => (.wait g, s)
    | (.fault, s) => (.fail 3, s)
    | (.bytes d, s) => if descOk d then State.readDescs s c n (a + 192) k (d :: acc) else (.fail 4, s)

/-- Reads the descriptors of table entry i. -/
def State.readEntry (s : State) (c : Nat) (n : Node) (i : Nat) : Evaluated × State :=
  match s.graphRead c n (dTable n.desc + 16 * i) 16 with
  | (.wait g, s) => (.wait g, s)
  | (.fault, s) => (.fail 3, s)
  | (.bytes e, s) =>
    let a := fieldLE e 0 8
    let k := fieldLE e 8 4
    if !descAddr a || 256 < k || !zeroAt e 12 4 then (.fail 4, s) else s.readDescs c n a k []

/-- A copy of a loop node with ITER advanced. -/
def loopCopy (d : List Byte) : List Byte := d.take 52 ++ bytesLE 2 (dIter d + 1) ++ d.drop 54

/-- The evaluation of a control node (R317). -/
def State.evaluate (s : State) (c : Nat) (n : Node) : Evaluated × State :=
  match s.graphRead c n (dWord n.desc) 8 with
  | (.wait g, s) => (.wait g, s)
  | (.fault, s) => (.fail 3, s)
  | (.bytes w, s) =>
    let v := ofBytesLE w
    let d := n.desc
    match dKind d with
    | 1 => s.readEntry c n (if v ≠ 0 then 0 else 1)
    | 2 =>
      if v = 0 then (.expansion [] 1, s)
      else if dMaxit d ≠ 0 ∧ dMaxit d ≤ dIter d then (.expansion [] 4, s)
      else match s.readEntry c n 0 with
        | (.expansion l st, s) => (.expansion (l ++ [loopCopy d]) st, s)
        | r => r
    | _ => s.readEntry c n (min v (dNsub d - 1))

/-- CONTROL_EVALUATION (R317). -/
def execControlEvaluation (c id : Nat) (s : State) : Host.Outcome State Fault Refusal :=
  match (s.ctxAt c).node? id with
  | none => .next s
  | some n =>
    match n.st with
    | .evaluating _ =>
      (match s.evaluate c n with
        | (.wait g, s) =>
          .next ((s.modCtx c fun x => x.modNode id fun n => { n with st := .evaluating (some g) }).startWalk c n.cluster g .engine)
        | (.fail cause, s) => .next (s.failNode c id cause)
        | (.expansion [] st, s) => .next (s.finishNode c id st)
        | (.expansion l st, s) =>
          .next ((s.modCtx c fun x => x.modNode id fun n => { n with st := .expanded l l.length st }).graphExpand c))
    | _ => .next s

/-- EXPANSION_ACCEPT (R317): the next descriptor of an expansion, directly after the control node and its earlier nodes. -/
def execExpansionAccept (c id : Nat) (s : State) : Host.Outcome State Fault Refusal :=
  let x := s.ctxAt c
  match x.node? id with
  | none => .next s
  | some p =>
    match p.st with
    | .expanded (d :: todo) kids st =>
      if s.poolFull c then .next s
      else
        let last := x.nodes.zipIdx.foldl (fun (m : Nat) (n : Node × Nat) =>
          if x.under id (x.nodes.length + 1) n.1.id then n.2 else m) 0
        let n : Node := { p with parent := some id, copy := dKind p.desc == 2 && todo.isEmpty, preds := [], st := .waiting }
        let s := s.modCtx c fun x => x.modNode id fun p => { p with st := .expanded todo kids st }
        let (_, s) := s.acceptAt c (last + 1) d n
        .next (s.graphExpand c)
    | _ => .next s

/-- READY_AGING (R318): to the tail of the next higher level. -/
def execReadyAging (c id : Nat) (s : State) : Host.Outcome State Fault Refusal :=
  match (s.ctxAt c).node? id with
  | none => .next s
  | some n =>
    match n.st with
    | .ready since lv elig =>
      if 3 ≤ lv then .next s
      else .next (s.modCtx c fun x => { x.modNode id fun n => { n with st := .ready (since + 4096) (lv + 1) elig } with
        levels := vmod (x.levels.map fun l => l.filter (· != id)) (lv + 1) fun l => l ++ [id] })
    | _ => .next s

/-- Distance of a worker from an affinity, which is read as the nearest end of the interval (R319, R330). -/
def Ctx.distance (x : Ctx) (n : Node) (core : Nat) : Nat :=
  let aff := if dAff n.desc = 0xFFFF then n.cluster else dAff n.desc
  let aff := max x.svb (min aff (x.svb + x.svl - 1))
  if nodeOf core < 512 then dist (nodeOf core) aff else 1024

/-- The idle worker of a node's class that is nearest to its affinity (R319). -/
def State.chooseWorker (s : State) (c : Nat) (n : Node) : Option Nat :=
  let x := s.ctxAt c
  let idle := (x.workers.toList.zipIdx.filter fun w =>
    (w.1.entry.extractLsb' 32 4).toNat == dWcls n.desc && s.workerOk c w.1.entry &&
    decide (w.1.out < (w.1.entry.extractLsb' 36 4).toNat) && !w.1.passOwn && w.1.passUntil.isNone).map
      fun w => (x.distance n (workerCore w.1.entry), w.2)
  (idle.foldl (fun (b : Option (Nat × Nat)) w => match b with
    | none => some w
    | some y => if w.1 < y.1 then some w else b) none).map (·.2)

/-- The node to dispatch and its worker (R318). -/
def State.chooseNode (s : State) (c : Nat) : Option (Node × Nat) :=
  let x := s.ctxAt c
  [3, 2, 1, 0].findSome? fun lv => ((x.levels[lv]?).getD []).findSome? fun id =>
    match x.node? id with
    | none => none
    | some n => match n.st with
      | .ready _ _ elig => if elig ≤ s.cycle then (s.chooseWorker c n).map fun w => (n, w) else none
      | _ => none

/-- The dispatch message of a node (R320). -/
def dispatchMsg (n : Node) (dst : BitVec 32) (seq : BitVec 16) : Msg :=
  { dst, cls := BitVec.ofNat 4 (dCls n.desc), rel := true, seq, src := if dRet n.desc = 0 then n.submitter else dRet n.desc
    tag := BitVec.ofNat 32 n.id, payload := (n.desc.drop 32).take 64, node := some n.id }

/-- Cycles of the dispatch tree (R323). -/
def treeDelay (die node : Nat) : Nat := if node < 512 ∧ node / 256 = die then 24 else 40

/-- NODE_DISPATCH (R318-R320). -/
def execNodeDispatch (c : Nat) (s : State) : Host.Outcome State Fault Refusal :=
  if s.graphStopped c then .next s
  else match s.chooseNode c with
  | none => .next s
  | some (n, w) =>
    let x := s.ctxAt c
    let entry := ((x.workers[w]?).getD {}).entry
    let dst : BitVec 32 := entry.setWidth 32
    let (q, s) := s.takeSeq c (graphCore x.die) dst
    let (since, lv) := match n.st with | .ready since lv _ => (since, lv) | _ => (0, 0)
    let s := s.modCtx c fun x => { x.modNode n.id fun n => { n with st := .running (BitVec.ofNat 8 w) since lv } with
      levels := x.levels.map fun l => l.filter (· != n.id)
      workers := vmod x.workers w fun w => { w with out := w.out + 1 } }
    .next (s.after (treeDelay x.die (nodeOf (aadCore dst))) (.messageArrival c (dispatchMsg n dst q)))

/-- DISPATCH_REFUSED (R320): the node returns to the head of its level, and the worker is passed over. -/
def execDispatchRefused (c id : Nat) (s : State) : Host.Outcome State Fault Refusal :=
  match (s.ctxAt c).node? id with
  | none => .next s
  | some n =>
    match n.st with
    | .running w since lv => .next (s.modCtx c fun x =>
        let pass (k : Worker) : Worker :=
          if 1 < k.out then { k with out := k.out - 1, passOwn := true }
          else { k with out := k.out - 1, passOwn := false, passUntil := some (x.gclock + 4096) }
        { x.modNode id fun n => { n with st := .ready since lv s.cycle } with
          levels := vmod x.levels lv fun l => id :: l
          workers := vmod x.workers w.toNat pass })
    | _ => .next s

/-- WORKER_PASSOVER_EXPIRY (R320). -/
def execWorkerPassoverExpiry (c : Nat) (w : BitVec 8) (s : State) : Host.Outcome State Fault Refusal :=
  .next (s.modCtx c fun x => { x with workers := vmod x.workers w.toNat fun k => { k with passUntil := none } })

/-- NODE_COMPLETE (R321). -/
def execNodeComplete (c id : Nat) (s : State) : Host.Outcome State Fault Refusal := .next (s.finishNode c id 1)

/-- A byte of a submit frame as a guest reads it (R340). -/
def SubFrame.byte (f : SubFrame) (off : Nat) : Byte :=
  if off < 192 then (f.desc[off]?).getD 0
  else if off < 200 then 0
  else if off < 208 then byteOf f.node (off - 200)
  else if off < 216 then byteOf f.stat (off - 208)
  else 0

/-- DESC of a submit frame is read, checked and submitted (R340). -/
def State.submitFrame (s : State) (c : Nat) (f : BitVec 4) : State :=
  let x := s.ctxAt c
  let d := ((x.frames[f.toNat]?).getD {}).desc.toList
  match s.submitCause c d with
  | some n => s.answer c (.frame f) 0 n
  | none => s.after 1 (.nodeAccept c d 0 x.svb x.guestDom [] (.frame f))

/-- SUBMIT_DOORBELL (R340): ignored while DONE is 0; otherwise DONE is cleared and DESC is submitted, at once or at the end of a
live update (R347). -/
def execSubmitDoorbell (c : Nat) (f : BitVec 4) (s : State) : Host.Outcome State Fault Refusal :=
  if !(((s.ctxAt c).frames[f.toNat]?).getD {}).stat.getLsbD 8 then .next s
  else
    let s := s.modCtx c fun x => { x with frames := vmod x.frames f.toNat fun w => { w with stat := w.stat &&& ~~~256#64 } }
    .next (if s.update.isSome then s.await (.bell c f) else s.submitFrame c f)

end Sys2Proof.Machine
end

