-- ==== Sys2Proof/Machine/Units.lean ====
section
/-! DEFINITION. What the matrix unit, the engines and the store checks share: the store-fault queue (R218-R220), engine faults
(R270), the governor (R353), timeline counters (R278, R279), and which command of a queue can go on (R250, R268). -/

namespace Sys2Proof.Machine

/-! ## Lockstitch -/

/-- Is a core of a secondary cluster (R349)? -/
def State.isSecond (s : State) (c core : Nat) : Bool :=
  let x := s.ctxAt c
  x.lockstitch && decide (x.svb + x.svl / 2 ≤ nodeOf core) && decide (nodeOf core < 512)

/-! ## The store-fault queue (R218-R220) -/

/-- A record: `index` is the counter of an engine fault. -/
structure FaultRec where
  cause : Nat
  kind : Nat
  slot : Nat
  dom : BitVec 6
  aid : BitVec 48
  index : Nat := 0
  store : Word
  addr : Word
  deriving DecidableEq, Repr

/-- The 32 bytes of a record (R219). -/
def FaultRec.bytes (seq : BitVec 32) (r : FaultRec) : List Byte :=
  bytesLE 4 seq.toNat ++ bytesLE 1 r.cause ++ bytesLE 1 r.kind ++ bytesLE 1 r.slot ++ bytesLE 1 r.dom.toNat ++
  bytesLE 6 r.aid.toNat ++ bytesLE 2 r.index ++ bytesLE 8 r.store.toNat ++ bytesLE 8 r.addr.toNat

/-- BASE and NEXT of SFQH (R218). -/
def sfqBase (w : Word) : Nat := (w.extractLsb' 12 44).toNat * 4096
def sfqNext (w : Word) : Nat := (w.extractLsb' 5 7).toNat

/-- The notice of a faulting store or engine command is sent as a release at .pkg (R220); without a supervisor, or where it is the
supervisor's own, it goes to Pelson (R40). -/
def State.faultNote (s : State) (c : Nat) (r : FaultReport) : State :=
  let supv := (s.ctxAt c).supv
  if supv = 0 ∨ r.own then s.tellPelson c r.core (noticeMsg 0 r.src r.note) .terminate
  else s.inject c r.core { noticeMsg supv r.src r.note with rel := true }

/-- Writes a record with the rights of the code that set SFQH (R220), and then sends its notice. While its page has no translation, it
waits for a walk; a page that these rights may not write loses the record (DESIGN CHOICE, notes/assumptions/34.md). -/
def State.writeReport (s : State) (c : Nat) (r : FaultReport) : State :=
  match s.xlat c r.core r.addr with
  | none => (s.modCtx c fun x => { x with reports := x.reports ++ [r] }).startWalk c (nodeOf r.core) (r.addr / 65536) .engine
  | some e =>
    let x := s.ctxAt c
    (if e.w && x.allows x.sfqhDom [] r.addr e.dom .write then s.niWrite c r.core r.addr r.data else s).faultNote c r

/-- Tries the records that wait. -/
def State.retryReports (s : State) (c : Nat) : State :=
  (s.ctxAt c).reports.foldl (fun s r => s.writeReport c r) (s.modCtx c fun x => { x with reports := [] })

/-- Records of a cluster whose page Pelson will not map are lost; their notices are sent. -/
def State.loseReports (s : State) (c cl g : Nat) : State :=
  let lost (r : FaultReport) : Bool := nodeOf r.core == cl && r.addr / 65536 == g
  let l := (s.ctxAt c).reports
  (l.filter lost).foldl (fun s r => s.faultNote c r) (s.modCtx c fun x => { x with reports := x.reports.filter fun r => !lost r })

/-- Reports a fault: its record goes to BASE + 32 × NEXT, where a queue is set (R218-R220). -/
def State.report (s : State) (c core : Nat) (r : FaultRec) (src : BitVec 32) (own : Bool) (note : List Byte) : State :=
  let x := s.ctxAt c
  let seq := x.sfSeq + 1
  let w : FaultReport := { core, addr := sfqBase x.sfqh + 32 * sfqNext x.sfqh, data := r.bytes seq, src, own, note }
  if sfqBase x.sfqh = 0 then s.faultNote c w
  else
    (s.modCtx c fun x => { x with
      sfSeq := seq, sfqh := BitVec.ofNat 64 (sfqBase x.sfqh + 32 * ((sfqNext x.sfqh + 1) % 128)) }).writeReport c w

/-- An engine fault: its record of KIND 2, then notice 0x0017 (R270); only the primary of a pair reports (R268). -/
def State.engineFault (s : State) (c core slot : Nat) (dom : BitVec 6) (aid : BitVec 48) (index n cause : Nat) (addr : Word) :
    State :=
  if s.isSecond c core then s
  else
    s.report c core { cause, kind := 2, slot, dom, aid, index, store := BitVec.ofNat 64 n, addr } (sysAad core) false
      (noticeBytes 0x0017 cause slot dom aid (BitVec.ofNat 64 n) 0 addr)

/-! ## The governor (R353) -/

/-- Does a request fit what a governor has granted? -/
def Governor.fits (g : Governor) (load : Nat) : Bool :=
  match g.budget with
  | none => true
  | some b => decide ((g.granted.map (·.2)).sum + load ≤ b) || (decide (b < load) && g.granted.isEmpty)

/-- Grants requests in arrival order while they fit, by fuel; a grant takes 16 cycles. -/
def grantFuel : Nat → State → Nat → State
  | 0, s, _ => s
  | f + 1, s, die =>
    let g := (s.gov[die]?).getD {}
    match g.waiting with
    | [] => s
    | r :: t =>
      if g.fits r.2 then
        grantFuel f (({ s with gov := vmod s.gov die fun g => { g with waiting := t, granted := g.granted ++ [r] } } : State).after 16
          (.leaveGrant r.1.1 r.1.2.1 r.1.2.2)) die
      else s

/-- Grants what the die's governor can grant now. -/
def State.grantAll (s : State) (die : Nat) : State := grantFuel (((s.gov[die]?).getD {}).waiting.length + 1) s die

/-- Asks for leave for the head command of a queue, unless it has asked already. -/
def State.askLeave (s : State) (c core q size : Nat) : State :=
  let die := nodeOf core / 256
  let g := (s.gov[die]?).getD {}
  let key := (c, core, q)
  if (g.waiting ++ g.granted).any fun r => r.1 == key then s
  else ({ s with gov := vmod s.gov die fun g => { g with waiting := g.waiting ++ [(key, Config.load size)] } } : State).grantAll die

/-- Returns the leave of a queue, or takes back its request. -/
def State.giveLeave (s : State) (c core q : Nat) : State :=
  let die := nodeOf core / 256
  let key := (c, core, q)
  let drop (l : List ((Nat × Nat × Nat) × Nat)) := l.filter fun r => r.1 != key
  ({ s with gov := vmod s.gov die fun g => { g with waiting := drop g.waiting, granted := drop g.granted }
            agenda := s.agenda.filter fun e => e.2 != .leaveGrant c core q } : State).grantAll die

/-! ## Timeline counters (R278, R279) -/

/-- A counter of a core. -/
def CoreCtx.tlcAt (k : CoreCtx) (t : Nat) : Tlc := (k.tlc[t]?).getD {}

/-- Assigns the next number of a counter. -/
def State.assignNo (s : State) (c core t : Nat) : Nat × State :=
  let n := ((s.coreAt c core).tlcAt t).assigned + 1
  (n, s.modCore c core fun k => { k with tlc := vmod k.tlc t fun x => { x with assigned := n } })

/-- Streams of a core that WAITC holds on a number now reached go on 2 cycles later (R279). -/
def State.wakeWaitc (s : State) (c core t : Nat) : State :=
  let v := ((s.coreAt c core).tlcAt t).present
  s.acts.foldl (fun s (x : SlotId × Act) =>
    if x.1.ctx = c ∧ x.1.core = core then
      [Stream.main, Stream.access].foldl (fun s st => match (x.2.str st).wait with
        | .waitc u n =>
          if u.toNat = t && n ≤ v && !s.agenda.any (fun e => e.2 == .waitcComplete x.1 st) then
            s.after 2 (.waitcComplete x.1 st)
          else s
        | _ => s) s
    else s) s

/-- A counter reaches a number (R278): its waiters, and nodes that it lets complete (R321). -/
def State.reach (s : State) (c core t n : Nat) : State :=
  ((s.modCore c core fun k => { k with tlc := vmod k.tlc t fun x => { x with present := max x.present n } }).wakeWaitc c core
    t).checkNodes c

/-- A command has failed (R280). -/
def State.failNo (s : State) (c core t n : Nat) : State :=
  s.modCore c core fun k => { k with tlc := vmod k.tlc t fun x => { x with failed := n } }

/-- Is the context stopped or stopping on a core, for the units of the core (R213)? -/
def State.halted (s : State) (c core : Nat) : Bool := s.stoppedAt c core

/-- The tile offset of an address, if it is one of a byte of the tile store. -/
def tileOffset (a : Nat) : Option Nat := if 2 ^ 55 + 0x10000000 ≤ a ∧ a < 2 ^ 55 + 0x10600000 then some (a - 2 ^ 55 - 0x10000000) else none

/-- Have the stores that a command waits for been performed: the local ones of its issuer (R268), or those to the tile store (R248)? -/
def State.storesDone (s : State) (owner : Option SlotId) (after : Nat) (tileOnly : Bool) : Bool :=
  match owner.bind fun t => s.acts.look t with
  | none => true
  | some a => a.checks.all fun p => decide (after ≤ p.id) || p.bytes.all fun b =>
      if tileOnly then (tileOffset b.1).isNone else decide (b.1 < 2 ^ 55)

/-! ## Engine queues (R268) -/

/-- Bytes that a command moves. -/
def EngCmd.total (e : EngCmd) : Nat :=
  match e.ckpt with
  | some (ts, l) => l.length * (if ts then 4096 else 256)
  | none => e.x * e.y * e.z

/-- The queue of an engine context. -/
def CoreCtx.engQ (k : CoreCtx) (gth : Bool) : List EngCmd := if gth then k.gatherQ else k.copyQ

/-- Replaces a queue. -/
def CoreCtx.setEngQ (k : CoreCtx) (gth : Bool) (q : List EngCmd) : CoreCtx :=
  if gth then { k with gatherQ := q } else { k with copyQ := q }

/-- The command that a queue performs: the first that has bytes left. -/
def headCmd (q : List EngCmd) : Option EngCmd := q.find? fun e => decide (e.pos < e.total)

/-- Replaces the command with a number. -/
def State.setCmd (s : State) (c core : Nat) (gth : Bool) (e : EngCmd) : State :=
  s.modCore c core fun k => k.setEngQ gth ((k.engQ gth).map fun x => if x.n = e.n then e else x)

/-- Has a command's buffer a slot for it (R275)? -/
def State.cbFree (s : State) (c cl : Nat) (e : EngCmd) : Bool :=
  match e.cb with
  | some (b, none) => (match ((s.clAt c cl).cbufs[b.toNat]?).getD none with
    | some x => decide (0 < x.free)
    | none => true)
  | _ => true

/-- The command of a queue that can move bytes now. -/
def State.engReady (s : State) (c core : Nat) (gth : Bool) : Option EngCmd :=
  if s.halted c core then none
  else match headCmd ((s.coreAt c core).engQ gth) with
  | none => none
  | some e =>
    if e.leave && e.waits.isNone && !e.held && s.storesDone e.owner e.after false && s.cbFree c (nodeOf core) e then some e else none

/-- The next core of a cluster, cyclically after core `from_` of it, whose queue can move bytes. -/
def State.nextEng (s : State) (c cl : Nat) (gth : Bool) (from_ : Nat) : Option (Nat × EngCmd) :=
  (List.range 8).findSome? fun i =>
    let core := 8 * cl + (from_ + 1 + i) % 8
    (s.engReady c core gth).map fun e => (core, e)

/-- Is an event a chunk of a cluster's engine? -/
def isChunk (cl : Nat) (gth : Bool) : Instr → Bool
  | .engineChunk _ k g => nodeOf k == cl && g == gth
  | _ => false

/-- The core of a cluster that an engine has served last (R268). -/
def ClusterHw.lastCore (k : ClusterHw) (gth : Bool) : Nat := if gth then k.served.2 else k.served.1

/-- An engine serves a core of its cluster. -/
def ClusterHw.serve (k : ClusterHw) (gth : Bool) (i : Nat) : ClusterHw :=
  { k with served := if gth then (k.served.1, i) else (i, k.served.2) }

/-- An idle engine begins the next chunk, of the next core round robin: at most 64 bytes a cycle (R268). -/
def State.engStart (s : State) (c cl : Nat) (gth : Bool) : State :=
  if s.agenda.any fun e => isChunk cl gth e.2 then s
  else match s.nextEng c cl gth ((s.clHwAt cl).lastCore gth) with
  | none => s
  | some (core, e) =>
    (s.modClHw cl fun k => k.serve gth (core % 8)).after (max 1 ((min 4096 (e.total - e.pos) + 63) / 64)) (.engineChunk c core gth)

/-- Looks at a queue again: its head asks for leave, a command with nothing left completes, and an idle engine starts. -/
def State.engKick (s : State) (c core : Nat) (gth : Bool) : State :=
  if s.halted c core then s
  else
    let q := (s.coreAt c core).engQ gth
    let s := match headCmd q with
      | some e => if e.leave then s else s.askLeave c core (if gth then 2 else 1) e.total
      | none => s
    let s := match q with
      | e :: _ => if e.total ≤ e.pos then s.now (.engineCommandComplete c core gth) else s
      | [] => s
    s.engStart c (nodeOf core) gth

/-- Looks at every queue of a cluster's engines again. -/
def State.engKickAll (s : State) (c cl : Nat) : State :=
  (List.range 8).foldl (fun s i => (s.engKick c (8 * cl + i) false).engKick c (8 * cl + i) true) s

/-! ## Matrix queues (R249, R250) -/

/-- Elements of K of a command, or 1 for a command of one step. -/
def TileOp.steps : TileOp → Nat
  | .mma _ _ _ k | .mmas _ _ _ k | .mmasx _ _ _ _ k => k
  | _ => 1

/-- Does a command need leave (R252)? -/
def TileOp.needsLeave (o : TileOp) : Bool := decide (256 < o.steps)

/-- The command that a queue runs: the first with steps left. -/
def headTile (q : List TileCmd) : Option TileCmd := q.find? fun t => decide (t.step < t.op.steps)

/-- The heads of a core's queue asks for leave, and an idle sequencer looks for a step. -/
def State.tileKick (s : State) (c core : Nat) : State :=
  if s.halted c core then s
  else
    let s := match headTile (s.coreAt c core).tile with
      | some t => if t.leave then s else s.askLeave c core 0 t.op.steps
      | none => s
    if (s.clHwAt (nodeOf core)).busy = 0 then s.now (.matrixStep c (nodeOf core)) else s

/-- A store of an activation has been performed: its core's queues may go on. -/
def State.afterStore (s : State) (c core : Nat) : State := ((s.engKick c core false).engKick c core true).tileKick c core

end Sys2Proof.Machine
end

