-- ==== Sys2Proof/Machine/Vmem.lean ====
section
/-! DEFINITION. Vector memory (R107, R108), and format windows (R109, R301-R303). -/

namespace Sys2Proof.Machine

/-! ## VLD, VST, VGATHER, VSCATTER -/

/-- The active lanes with their addresses; one that is not a multiple of 4 parks, and no lane is accessed (R108). -/
def laneAddrs (k : BitVec 16) (loc : Bool) (addr : Nat → Word) : M (List (Nat × Word)) := do
  let l := ((List.range 16).filter (active k)).map fun j => (j, withLocal loc (addr j))
  check (l.all fun x => x.2.toNat % 4 == 0) { code := 0x0007, openInfo := true }
  pure l

/-- The places of the active lanes, in increasing lane order. -/
def placeLanes : List (Nat × Word) → M (List (Nat × Place))
  | [] => pure []
  | (_, x) :: t => do
    let p ← placesM x 4 .read
    let q ← pagesOn [x.toNat] (placeLanes t)
    pure (p ++ q)

/-- The family of the vector loads: a word for each active lane; the lowest faulting lane is named. -/
def vload (a : VQ) (k : BitVec 16) (z strong : Bool) (l : List (Nat × Word)) : M Unit := do
  let places ← placeLanes l
  let bs ← seamLoad places (loadPlaces strong places)
  let words := (l.map (·.1)).zip ((List.range l.length).map fun i => BitVec.ofNat 32 (fieldLE bs (4 * i) 4))
  writeMasked a k z (vmk fun j => (Map.look words j).getD 0)

/-- The family of the vector stores: one store of the active lanes in increasing lane order. -/
def vstore (v : VReg) (strong : Bool) (l : List (Nat × Word)) : M Unit :=
  match l with
  | [] => pure ()
  | (_, x) :: _ =>
    storeM (.plain strong none) x (l.flatMap fun y => storeBytes y.2 (bytesLE 4 (lane v y.1).toNat)) false

/-- Address of lane j of VLD and VST: A + 4j, or A + j × gc. -/
def strideAddr (base : Word) (disp : BitVec 24) (stride : Option Word) (j : Nat) : Word :=
  base + disp.signExtend 64 + BitVec.ofNat 64 j * stride.getD 4

/-- VLD (R107). -/
def execVld (h : Hdr) (strong z loc : Bool) (mk : BitVec 3) (a : VQ) (b : GQ) (c : Option GQ) (disp : BitVec 24) (s : State) :
    Host.Outcome State Fault Refusal :=
  instr h s do
    let k ← readMask mk
    let base ← readG b
    let st ← readG? c
    roomV a
    vload a k z strong (← laneAddrs k loc (strideAddr base disp st))

/-- VST (R107); its data is read before its address (DESIGN CHOICE, notes/assumptions/11.md). -/
def execVst (h : Hdr) (strong loc : Bool) (mk : BitVec 3) (a : VQ) (b : GQ) (c : Option GQ) (disp : BitVec 24) (s : State) :
    Host.Outcome State Fault Refusal :=
  instr h s do
    let k ← readMask mk
    let v ← readV a
    let base ← readG b
    let st ← readG? c
    vstore v strong (← laneAddrs k loc (strideAddr base disp st))

/-- Address of lane j of VGATHER and VSCATTER. -/
def indexAddr (base : Word) (disp : BitVec 24) (x : VReg) (j : Nat) : Word :=
  base + disp.signExtend 64 + (lane x j).signExtend 64

/-- VGATHER (R107). -/
def execVgather (h : Hdr) (strong z loc : Bool) (mk : BitVec 3) (a : VQ) (b : GQ) (c : VQ) (disp : BitVec 24) (s : State) :
    Host.Outcome State Fault Refusal :=
  instr h s do
    let k ← readMask mk
    let base ← readG b
    let x ← readV c
    roomV a
    vload a k z strong (← laneAddrs k loc (indexAddr base disp x))

/-- VSCATTER (R107). -/
def execVscatter (h : Hdr) (strong loc : Bool) (mk : BitVec 3) (a : VQ) (b : GQ) (c : VQ) (disp : BitVec 24) (s : State) :
    Host.Outcome State Fault Refusal :=
  instr h s do
    let k ← readMask mk
    let v ← readV a
    let base ← readG b
    let x ← readV c
    vstore v strong (← laneAddrs k loc (indexAddr base disp x))

/-! ## Blocks of format windows (R109) -/

/-- Twin-exponent format of a window. -/
def tbOf (fmt : Nat) : Option TBFmt := if fmt = 2 then some .tb8 else if fmt = 3 then some .tb6 else if fmt = 4 then some .tb4 else none

/-- The format fault that the conditions of R109 name for a block at a physical address: the lowest cause that holds. -/
def Ctx.formatCause (x : Ctx) (p : Nat) : Option Nat :=
  match x.fwinAt p with
  | none => some 1
  | some w => if (p - w.base) % blockBytes w.fmt ≠ 0 then some 2 else if w.fmt = 5 then some 3 else none

/-! ## VLDF -/

/-- Type of the elements of a BF16 or FP16 window. -/
def winType (fmt : Nat) : NType := if fmt = 0 then .bf16 else .f16

/-- Element i of 16 bits of a list of bytes. -/
def half (bs : List Byte) (i : Nat) : Nat := fieldLE bs (2 * i) 2

/-- What VLDF writes for the bytes of a block, its scale pair behind them (R109, R110). -/
def vldfValue (f : VldfForm) (mode : Mode) (fmt : Nat) (bs : List Byte) : VReg × BitVec 5 :=
  match tbOf fmt with
  | some t =>
    let n := tbBytes t
    let body := ofBytesLE (bs.take n)
    let e0 := fieldLE bs n 1
    let e1 := fieldLE bs (n + 1) 1
    let val (i : Nat) : FVal := (tbDecode t e0 e1 body)[i]?.getD (.nan false)
    match f with
    | .raw => (tbPack e0 e1 body, 0)
    | .bf16 => (elems 16 0xFFFF fun i => toBF16 (val i), 0)
    | .f32 hi => (elems 32 0xFFFF fun i => toF32 (val (i + if hi then 16 else 0)), 0)
  | none =>
    match f with
    | .raw => (natVreg (ofBytesLE bs), 0)
    | .bf16 => elemsF 16 0xFFFF fun i => convert mode .bf16 (winType fmt) (half bs i)
    | .f32 hi => elemsF 32 0xFFFF fun i => convert mode .f32 (winType fmt) (half bs (i + if hi then 16 else 0))

/-- Parks on a format fault of VLDF. -/
def formatFault : Notice := { code := 0x0006, openInfo := true }

/-- The window, the physical address and the places of the bytes of a block. -/
def blockPlaces (x : Word) : M (FormatWin × Nat × List (Nat × Place)) := do
  check (x.toNat ≥ 2 ^ 56 || x.toNat < 2 ^ 55) formatFault
  match ← placeM x.toNat .read .load with
  | .glob p _ => do
    let c ← asks fun s => s.ctxAt s.cctx
    match c.fwinAt p with
    | none => parkM { formatFault with pages := [x.toNat] }
    | some w =>
      let l ← placesM x (blockBytes w.fmt) .read
      check (c.formatCause p).isNone { formatFault with pages := [x.toNat] }
      pure (w, p, l)
  | _ => parkM formatFault

/-- The scale pairs that the cluster's copy of the line of a block carries: in its stash or in its cluster cache (R302). -/
def State.scalesAt (s : State) (c cl va p : Nat) : Option Scales :=
  match s.stashOf c cl va with
  | some x => (x.lines.find? fun l => l.line == p / 128).bind (·.scales)
  | none => (s.lineAt cl (p / 128)).bind (·.scales)

/-- A copy of a block's line that does not carry the window's format is filled again before the block is decoded: it was filled when
the window was not in service (R302; DESIGN CHOICE, notes/assumptions/67.md). -/
def State.tagLine (s : State) (c cl va p fmt : Nat) : State :=
  if (s.stashOf c cl va).isSome then s
  else match s.lineAt cl (p / 128) with
  | none => s
  | some l => if (l.scales.map (·.fmt)) = some fmt then s else s.evict cl (p / 128)

/-- A byte of a block's scale pair: a held store's, or that of the fill of the block's line; where that carries none, the home's. -/
def scaleByte (va p sc : Nat) : M Byte := fun s =>
  match s.pendingGlobal (noVa sc) sc with
  | .byte b => .ok (b, s)
  | .held => .error (.hold 14)
  | .none =>
    match (s.scalesAt s.cctx s.ccl va p).bind fun x => x.bytes.find? fun y => y.1 == sc with
    | some (_, b, bad) => if bad then .error (.poison []) else .ok (b, s)
    | none =>
      let (b, t) := s.homeRead s.cctx (s.physKey s.cctx sc) sc
      if t.poison.contains (sc / 16) then .error (.poison []) else .ok (b, t)

/-- The bytes of a block, its scale pair behind them (R109, R302). -/
def loadBlock (x : Word) (w : FormatWin) (p : Nat) (l : List (Nat × Place)) : M (List Byte) := do
  change fun s => (s.tagLine s.cctx s.ccl x.toNat p w.fmt).tagLine s.cctx s.ccl (x.toNat + blockBytes w.fmt - 1)
    (p + blockBytes w.fmt - 1) w.fmt
  let bs ← loadPlaces false l
  if (tbOf w.fmt).isSome then
    let e0 ← scaleByte x.toNat p (w.scaleAt p)
    let e1 ← scaleByte x.toNat p (w.scaleAt p + 1)
    pure (bs ++ [e0, e1])
  else pure bs

/-- VLDF (R109). -/
def execVldf (h : Hdr) (f : VldfForm) (rm : Rm) (a : VQ) (b : GQ) (disp : BitVec 24) (s : State) :
    Host.Outcome State Fault Refusal :=
  instrFp h s do
    let mode ← modeM rm
    let base ← readG b
    roomV a
    let x := base + disp.signExtend 64
    let (w, p, l) ← blockPlaces x
    let bs ← seamLoad l (pagesOn (l.map (·.1)) (loadBlock x w p l))
    let (v, fl) := vldfValue f mode w.fmt bs
    writeV a v
    pure fl

/-! ## VSTF -/

/-- What VSTF writes in its .raw form: element bytes, scale pair, flags (R109, R110). -/
def vstfRaw (a : VReg) (fmt : Nat) : List Byte × List Byte × BitVec 5 :=
  match tbOf fmt with
  | some t =>
    let (body, e0, e1) := tbUnpack t a
    (bytesLE (tbBytes t) body, bytesLE 1 e0 ++ bytesLE 1 e1, 0)
  | none => (bytesLE 64 (vregNat a), [], 0)

/-- What VSTF writes for 32 values of a type (R59, R109). -/
def vstfValues (st : NType) (x : Nat → Nat) (mode : Mode) (fmt : Nat) : List Byte × List Byte × BitVec 5 :=
  match tbOf fmt with
  | some t =>
    let (e0, e1, body, fl) := requantise t ((List.range 32).map fun i => (ntypeFmt st).decode (x i))
    (bytesLE (tbBytes t) body, bytesLE 1 e0 ++ bytesLE 1 e1, fl)
  | none =>
    let (v, fl) := elemsF 16 0xFFFF fun i => convert mode (winType fmt) st (x i)
    (bytesLE 64 (vregNat v), [], fl)

/-- What a VSTF writes into a window's format. -/
def vstfEncode (f : VstfForm) (a c : VReg) (rnd : BitVec 2) (fmt : Nat) : List Byte × List Byte × BitVec 5 :=
  match f with
  | .raw => vstfRaw a fmt
  | .bf16 => vstfValues .bf16 (elem 16 a) (modeOf rnd) fmt
  | .f32 _ => vstfValues .f32 (fun i => (if i < 16 then lane a i else lane c (i - 16)).toNat) (modeOf rnd) fmt

/-- The format that a VSTF at an address will find, when its translation is at hand and its check will pass. -/
def State.vstfFormat (s : State) (x : Word) : Option Nat :=
  match s.place s.who x.toNat .write with
  | .ok (.glob p _) =>
    match (s.ctxAt s.cctx).fwinAt p with
    | some w =>
      if ((s.ctxAt s.cctx).formatCause p).isNone &&
          (List.range (blockBytes w.fmt)).all fun i =>
            match s.place s.who (x + BitVec.ofNat 64 i).toNat .write with | .ok _ => true | _ => false
      then some w.fmt else none
    | none => none
  | _ => none

/-- VSTF (R109): it enters checking; its flags are raised at issue where the window is known then, otherwise when its check
completes (DEDUCED, notes/assumptions/14.md). A queue register in both FA and FC is popped for elements 0-15 (FA) first, and a block of 64
bytes is counted in the outbound buffer while the format is not known (R43, R175; DESIGN CHOICE, notes/assumptions/77.md). -/
def execVstf (h : Hdr) (f : VstfForm) (rne : Bool) (a : VQ) (b : GQ) (disp : BitVec 24) (s : State) :
    Host.Outcome State Fault Refusal :=
  instrFp h s do
    let rnd ← asks fun s => if rne then (0 : BitVec 2) else s.act.rnd
    let v ← readV a
    let base ← readG b
    let c ← match f with
      | .f32 c => readV c
      | _ => pure vzero
    let x := base + disp.signExtend 64
    let fmt ← asks fun s => s.vstfFormat x
    enterStore (.block f v c rnd fmt.isSome) x [] false (blockBytes (fmt.getD 0))
    pure (match fmt with
      | some n => (vstfEncode f v c rnd n).2.2
      | none => 0)

end Sys2Proof.Machine
end

