-- ==== Sys2Proof/Machine/Stores.lean ====
section
/-! DEFINITION. Stores under check (R138, R139), stores held by pending-read ranges (R254), the release of an activation's
buffer at END (R84, R175), and the seam check (R351, R352): the rows STORE_CHECK, OUTBOUND_RELEASE and SEAM_CHECK. -/

namespace Sys2Proof.Machine

/-! ## The check of one store -/

/-- Who made a store; its bytes behind the WINMAP window have been performed at issue. -/
def PStore.who (p : PStore) (t : SlotId) : Who := { sid := t, own := true, dom := p.dom, windows := p.windows, win := none }

/-- Bytes with their virtual addresses from x on. -/
def vaBytes (x : Word) (n : Nat) : List (Nat × Byte) := (List.range n).map fun i => ((x + BitVec.ofNat 64 i).toNat, 0)

/-- The result of the check of a block: bytes with their virtual addresses, then the scale pair, and physical addresses;
with the flags that encoding it raises. -/
inductive BlockChecked where
  | pass (va phys : List (Nat × Byte)) (flags : BitVec 5)
  | other (c : Checked)
  deriving DecidableEq, Repr

/-- Checks a VSTF (R109): first the block's bytes, then the conditions on its address. -/
def State.checkBlock (s : State) (w : Who) (refused : Option Nat) (x : Word) (f : VstfForm) (a c : VReg) (rnd : BitVec 2) :
    BlockChecked :=
  if 2 ^ 55 ≤ x.toNat ∧ x.toNat < 2 ^ 56 then .other (.fail x.toNat 1 4)
  else
    match s.checkBytes w refused (vaBytes x 1) with
    | .pass ((p, _) :: _) =>
      let k := s.ctxAt w.sid.ctx
      (match k.fwinAt p with
        | none => .other (.fail x.toNat 1 1)
        | some fw =>
          match s.checkBytes w refused (vaBytes x (blockBytes fw.fmt)) with
          | .pass l =>
            (match k.formatCause p with
              | some q => .other (.fail x.toNat 1 q)
              | none =>
                let (body, scale, fl) := vstfEncode f a c rnd fw.fmt
                let sc := fw.scaleAt p
                .pass (storeBytes x body ++ scale.zipIdx.map fun b => (noVa (sc + b.2), b.1))
                  ((l.zip body).map (fun y => (y.1.1, y.2)) ++ scale.zipIdx.map fun b => (sc + b.2, b.1)) fl)
          | r => .other r)
    | r => .other r

/-! ## What follows -/

/-- Changes the entry of a store in the buffer of an activation. -/
def State.setEntry (s : State) (t : SlotId) (id : Nat) (f : OutEntry → Option OutEntry) : State :=
  s.modActAt t fun a => { a with outb := a.outb.filterMap fun e => match e with
    | .store n .. => if n = id then f e else some e
    | .flush n .. => if n = id then f e else some e
    | _ => some e }

/-- An SDRAIN whose stores have all been checked goes on (R152). -/
def State.wakeDraining (s : State) (t : SlotId) : State :=
  s.drainOver t fun n => match s.acts.look t with
    | some a => a.checks.all fun p => p.held || decide (n ≤ p.id)
    | none => false

/-- Checks that have been due and wait for an earlier store are looked at again. -/
def State.recheck (s : State) (t : SlotId) : State :=
  (((s.acts.look t).map (·.checks)).getD []).foldl (fun s p =>
    if p.held || p.waits.isSome || s.agenda.any (fun (e : Nat × Instr) => e.2 == Instr.storeCheck t p.id) then s
    else s.now (.storeCheck t p.id)) s

/-- A check is over: END may go on, checks that waited for it are looked at again, and the units of the core with them. -/
def State.checkOver (s : State) (t : SlotId) (id : Nat) : State :=
  ((((s.modActAt t fun a => { a with checks := a.checks.filter fun p => p.id ≠ id }).wakeEnding t).wakeDraining t).recheck t).afterStore
    t.ctx t.core

/-- A store fails its check (R139, R219, R220): it is dropped, recorded and reported by notice 0x0009, and its activation will park. The
secondary of a pair reports nothing. -/
def State.failStore (s : State) (t : SlotId) (p : PStore) (addr kind cause : Nat) : State :=
  match s.acts.look t with
  | none => s
  | some a =>
    let s := (s.modActAt t fun a => { a with storeFault := true }).setEntry t p.id fun _ => none
    let s := s.checkOver t p.id
    if s.isSecond t.ctx t.core then s
    else
      let aid := match s.actorAt t.ctx t.core a.actor with | some x => x.aid | none => 0
      s.report t.ctx t.core
        { cause, kind, slot := slotByte t.slot p.stream, dom := p.dom, aid, store := p.pc, addr := BitVec.ofNat 64 addr }
        (aadOf t.core a.mbx) (s.ownsSupv t.ctx t.core a.actor)
        (noticeBytes 0x0009 cause (slotByte t.slot p.stream) p.dom aid p.pc p.word (BitVec.ofNat 64 addr))

/-- Bytes of a store that lie in local memory. -/
def localBytes (l : List (Nat × Byte)) : List (Nat × Byte) := l.filter fun x => decide (2 ^ 55 ≤ x.1)

/-- Is a store a local STREL? -/
def PStore.releases (p : PStore) : Bool := p.hasLocal && p.kind.releases

/-- Is a store to be performed behind an earlier local store: it has bytes of it (R141), or is a local STREL (R143)? -/
def PStore.behind (p q : PStore) : Bool :=
  decide (q.id < p.id) && ((p.releases && q.hasLocal) || (localBytes p.bytes).any fun x => q.bytes.any fun y => y.1 == x.1)

/-- Is a store of an activation held: by a range (R254), behind an earlier held store that it overlaps, or, as a local STREL, behind
any earlier local store that is held (R143)? -/
def State.heldNow (s : State) (t : SlotId) (a : Act) (p : PStore) : Bool :=
  (p.bytes.any fun x => match tileOffset x.1 with
    | some o => s.rangeHolds t.ctx (nodeOf t.core) p.issued o o
    | none => false) ||
  a.checks.any fun q => q.held && p.behind q

/-- Performs the local bytes of a store that has passed (R138, R163). -/
def State.performPassed (s : State) (t : SlotId) (p : PStore) : State :=
  let s := { s with cur := { sid := t, stream := p.stream, dom := p.dom, word := p.word } }
  let l := localBytes p.bytes
  ((s.performLocal l).clearPoison (l.map fun x =>
    let off := x.1 - 2 ^ 55
    if off < 131072 then clmKey t.ctx t.core off else tileKey t.ctx (nodeOf t.core) (off - 0x10000000))).checkOver t p.id

/-- Held stores of one activation that nothing holds any more are performed in order; a stream with none left goes on. -/
def State.performHeldOf (s : State) (t : SlotId) : State :=
  match s.acts.look t with
  | none => s
  | some a => (a.checks.filter (·.held)).foldl (fun s p =>
      match s.acts.look t with
      | none => s
      | some b =>
        if s.heldNow t b p then s else s.performPassed t p) s

/-- Held stores of a cluster after its ranges have been released, and releases at END that held stores of its stash kept waiting, also
in other clusters (R254, R267). -/
def State.performHeld (s : State) (c cl : Nat) : State :=
  s.acts.foldl (fun s x =>
    if x.1.ctx = c then
      let s := if nodeOf x.1.core = cl then s.performHeldOf x.1 else s
      if x.2.main.wait = .ended then s.now (.outboundRelease x.1) else s
    else s) s

/-- Does a store under check wait for the seam check of an early commit: its pair is in lockstitch, and it needs a 513th entry of the
tack log (R176, R351)? -/
def State.seamFull (s : State) (p : PStore) : Bool :=
  s.seam?.isSome && s.tackFull (clmOffsets p.bytes)

/-- Has the present copy of a pair given its hash already? -/
def State.hashed (s : State) : Bool :=
  match s.seam? with
  | some (i, b) => (match s.seams[i]? with | some x => (if b then x.hs else x.hp).isSome | none => false)
  | none => false

/-- The early commit of a store's 513th entry goes to the seam check, with the entries that its activation had placed before it. -/
def State.seamStore (s : State) (p : PStore) : State :=
  if s.hashed then s else s.seamHashOf false (p.mark - (s.act.placed - s.act.outb.length))

/-- A store that has passed its check is held; it holds its stream, and an SDRAIN that waited for its check is over (R254). -/
def State.holdStore (s : State) (t : SlotId) (p : PStore) : State :=
  ((s.modActAt t fun a =>
    { a with checks := a.checks.map fun q => if q.id = p.id then { q with held := true } else q }).wakeDraining t).recheck t

/-- Does a store that has passed its check wait for the check of an earlier one: it is to be performed behind that one, or it commits
early at the seam with the entries before it (DEDUCED, notes/assumptions/80.md)? -/
def State.waitsEarlier (s : State) (a : Act) (p : PStore) : Bool :=
  a.checks.any fun q => !q.held && decide (q.id < p.id) && (p.behind q || s.seamFull p)

/-- A store has passed its check, and keeps what was found for the time when it is performed. -/
def State.keepFound (s : State) (t : SlotId) (n : Nat) (phys : List (Nat × Byte)) : State :=
  s.modActAt t fun a => { a with checks := a.checks.map fun q => if q.id = n then { q with found := some (.pass phys) } else q }

/-- STORE_CHECK (R139): the check of a store ends in its own time, whatever becomes of earlier ones. -/
def execStoreCheck (t : SlotId) (n : Nat) (s : State) : Host.Outcome State Fault Refusal :=
  match s.acts.look t with
  | none => .next s
  | some a =>
    match a.checks.find? fun p => p.id == n && !p.held with
    | none => .next s
    | some p =>
        let s := { s with cur := { sid := t, stream := p.stream, dom := p.dom, word := p.word } }
        let w := p.who t
        let fail (c : Checked) : State :=
          match c with
          | .fail x kind cause => s.failStore t p x kind cause
          | .walk g =>
            (s.modActAt t fun a => { a with checks := a.checks.map fun q => if q.id = n then { q with waits := some g } else q }).startWalk
              t.ctx (nodeOf t.core) g .storeCheck
          | .pass _ => s
        match p.kind with
        | .plain .. =>
          let s := s.touchAll t.ctx t.core (p.bytes.map (·.1))
          (match p.found.getD (s.checkBytes w p.refused p.bytes) with
            | .pass phys =>
              if s.waitsEarlier a p then .next (s.keepFound t n phys)
              else if s.seamFull p then .next (s.seamStore p)
              else
              let s := s.setEntry t n fun e => match e with
                | .store id va _ strong rel size => some (.store id va (some phys) strong rel size)
                | e => some e
              if s.heldNow t a p then .next (s.holdStore t p) else .next (s.performPassed t p)
            | r => .next (fail r))
        | .block f x c rnd raised =>
          let s := s.touchAll t.ctx t.core ((vaBytes p.addr 64).map (·.1))
          (match s.checkBlock w p.refused p.addr f x c rnd with
            | .pass va phys fl =>
              let s := s.setEntry t n fun e => match e with
                | .store id _ _ strong rel _ =>
                  some (.store id va (some phys) strong rel (storeSize false (va.filter fun y => decide (y.1 < 2 ^ 60)).length))
                | e => some e
              let s := s.checkOver t n
              .next (if raised then s else s.raise p.pc fl)
            | .other r => .next (fail r))
        | .flush _ len =>
          let range := rangeAddrs p.addr.toNat len
          match s.probeGap t.ctx t.core none p.skip (range.getD []) with
          | some g =>
            .next ((s.modActAt t fun a => { a with checks := a.checks.map fun q => if q.id = n then { q with waits := some g } else q }).startWalk
              t.ctx (nodeOf t.core) g .probe)
          | none =>
          let s := s.touchAll t.ctx t.core (range.getD [])
          let l := s.rangeLines t.ctx t.core none p.dom p.windows .write range
          .next ((s.setEntry t n fun e => match e with
            | .flush id sc _ => some (.flush id sc (some l))
            | e => some e).checkOver t n)

/-! ## Releases -/

/-- END completes (R84): the buffer is released, the node of the activation waits for its numbers (R321), the slot is free.
The secondary of a pair drops its buffer (R351). -/
def State.completeEnd (s : State) (t : SlotId) (perform : Bool) : State :=
  match s.acts.look t with
  | none => s
  | some a =>
    let s := if perform then s.release t.ctx t.core a.outb else s
    let s := match a.node, perform with
      | some id, true =>
        let out := if a.outb.isEmpty then [] else [(t.core, 3, ((s.coreAt t.ctx t.core).tlcAt 3).assigned)]
        let ws := out ++ a.cmds.map fun (c : BitVec 2 × Nat) => (t.core, c.1.toNat, c.2)
        (s.modCtx t.ctx fun x => x.modNode id fun n => match n.st with
          | .running w _ _ => { n with st := .ending w ws }
          | _ => n).checkNodes t.ctx
      | _, _ => s
    s.leaveSlot t

/-- OUTBOUND_RELEASE (R84, R175): it waits while a pending-read range holds one of its stores (R254), and an activation in lockstitch
then for the seam check (R351). -/
def execOutboundRelease (t : SlotId) (s : State) : Host.Outcome State Fault Refusal :=
  match s.acts.look t with
  | none => .next s
  | some a =>
    let s1 := { s with cur := { s.cur with sid := t } }
    .next (if a.outb.any (fun e => s.entryHeld t a e) || s1.hashed then s
      else if s1.seam?.isSome then s1.seamHash true
      else s.completeEnd t true)

/-! ## Kills that redeliver (R177) -/

/-- Puts the triggering message of a killed activation back, as the oldest of its SRC. -/
def State.putBack (s : State) (t : SlotId) (mb : BitVec 6) (q : Queued) : State :=
  (s.modMbx t.ctx t.core mb fun x => { x with put := x.put ++ [q] }).now (.activationStart t.ctx t.core)

/-- The dead letter of an activation goes to the supervisor; a node of its fails (R177, R322). -/
def State.deadLetterOf (s : State) (t : SlotId) (a : Act) (cause : Nat) : State :=
  let aid := match s.actorAt t.ctx t.core a.actor with | some x => x.aid | none => 0
  (s.sysNotice t.ctx t.core (aadOf t.core a.mbx) (deadLetter a aid t.slot a.main.fromDom cause)).failOf t.ctx a 1

/-- A kill that redelivers the message, at most twice, or dead-letters it (R177); `cause` is that of the third kill. -/
def State.killAgain (s : State) (t : SlotId) (cause : Nat) : State :=
  match s.acts.look t with
  | none => s
  | some a =>
    let s := s.killBoth t
    if !a.retryable then s.deadLetterOf t a 2
    else if 2 ≤ a.msg.kills then s.deadLetterOf t a cause
    else s.putBack t a.mbx { a.msg with kills := a.msg.kills + 1 }

/-- UNCORRECTABLE_ERROR_KILL (R177, R298): under lockstitch the primary's slot stands for the pair. -/
def execUncorrectableErrorKill (t : SlotId) (s : State) : Host.Outcome State Fault Refusal :=
  let t := match s.seams.find? (fun x => x.secondary == t) with | some x => x.primary | none => t
  .next (s.killAgain t 1)

/-! ## The seam check -/

/-- The releases match: the primary's is performed, the secondary's dropped, and both copies go on. -/
def State.seamMatch (s : State) (x : Seam) (isEnd : Bool) (np ns : Nat) : State :=
  if isEnd then (s.completeEnd x.primary true).completeEnd x.secondary false
  else
    let go (y : StreamSt) : StreamSt := if y.wait = .seam then { y with wait := .ready } else y
    let commit (n : Nat) (a : Act) : Act := { a.commitFirst n with main := go a.main, acc := go a.acc }
    let out := ((s.acts.look x.primary).map fun (a : Act) => a.outb.take np).getD []
    let s := (s.modActAt x.primary (commit np)).modActAt x.secondary (commit ns)
    (((s.release x.primary.ctx x.primary.core out).count x.primary.ctx 0x0005).recheck x.primary).recheck x.secondary

/-- SEAM_CHECK (R351, R352). Of a message, the first mismatch redelivers it uncounted; a later one is a kill, with notice
0x001E. An END against an early commit is a mismatch whatever the hashes (DEDUCED, notes/assumptions/80.md). -/
def execSeamCheck (t : SlotId) (hp hs : BitVec 64) (s : State) : Host.Outcome State Fault Refusal :=
  match s.seams.find? (fun x => x.primary == t), s.acts.look t with
  | some x, some a =>
    (match x.hp, x.hs with
      | some (_, ep, np), some (_, es, ns) =>
        let s := { s with seams := s.seams.map fun (y : Seam) => if y.primary = t then { y with hp := none, hs := none } else y }
        if hp = hs ∧ ep = es then .next (s.seamMatch x ep np ns)
        else if !a.retryable then .next ((s.killBoth t).deadLetterOf t a 3)
        else if !a.msg.seam then .next ((s.killBoth t).putBack t a.mbx { a.msg with seam := true })
        else
          let aid := match s.actorAt t.ctx t.core a.actor with | some k => k.aid | none => 0
          let info : Word := hs.setWidth 32 ++ hp.setWidth 32
          let s := s.killAgain t 3
          .next (s.sysNotice t.ctx t.core (aadOf t.core a.mbx)
            (noticeBytes 0x001E 0 (slotByte t.slot .main) a.main.fromDom aid a.main.pc 0 info))
      | _, _ => .next s)
  | _, _ => .next s

end Sys2Proof.Machine
end

