-- ==== Sys2Proof/Machine/Arrivals.lean ====
section
/-! DEFINITION. Messages that reach an NI (R168-R174), replay (R367), the choice of activations (R172), bobbins that drain
(R170, R174) and delayed messages (R173, R180): the rows MESSAGE_ARRIVAL, ACTIVATION_START, BOBBIN_DRAIN and
DELAYED_INJECTION. -/

namespace Sys2Proof.Machine

/-! ## The rules of R169 -/

/-- The next arrival of a core's NI, which takes one in each cycle (R169). -/
def State.nextArrival (s : State) (c core : Nat) (m : Msg) : Queued × State :=
  let at_ := max s.cycle (s.hwAt core).niFree
  let q : Queued := { m, order := (s.coreAt c core).arrivals, at_ }
  (q, (s.modCore c core fun k => { k with arrivals := k.arrivals + 1 }).modHw core fun k => { k with niFree := at_ + 1 })

/-- Does a message of the same SRC that holds no ring entry wait before a message? -/
def Mailbox.behind (b : Mailbox) (m : Msg) : Bool := (b.put ++ b.reserve).any fun q => q.m.src == m.src

/-- A slot that is free on a core, and under lockstitch on its secondary as well (R350). -/
def State.slotFor (s : State) (c core : Nat) : Option Nat :=
  match s.mate c core with
  | none => s.freeSlot c core
  | some k => (List.range 8).find? fun i =>
      (s.acts.look { ctx := c, core, slot := i }).isNone && (s.acts.look { ctx := c, core := k, slot := i }).isNone

/-- Rules 4 to 8 of R169 at a queue mailbox. A class 14 or 15 message longer than the depth comes under rule 6 like a shorter one
(DESIGN CHOICE, notes/assumptions/77.md). -/
def State.intoQueue (s : State) (c core : Nat) (mb : BitVec 6) (q : Queued) : State :=
  let b := s.mbxAt c core mb
  let m := q.m
  match if b.ring.isEmpty && !b.masked m.cls && s.admits c core (mb.toNat / 4) && !b.behind m then s.slotFor c core else none with
  | some slot => (s.feed c core mb true m).startIn c core slot mb q
  | none =>
    if b.used + msgFlits m ≤ b.depth then
      (((s.feed c core mb true m).modMbx c core mb fun x => { x with ring := x.ring ++ [q] }).dirtyReceive c core).now
        (.activationStart c core)
    else if 14 ≤ m.cls.toNat then s.toReserve c core mb q true
    else if b.spill then s.toBobbin c core mb q 1 true false
    else s.refuse c core m 1

/-- An arrival at a combining mailbox past rules 1 to 3 (R174). -/
def State.intoCombine (s : State) (c core : Nat) (mb : BitVec 6) (q : Queued) (feed : Bool) : State :=
  if 14 ≤ q.m.cls.toNat then s.toReserve c core mb q feed
  else if (s.mbxAt c core mb).comb.armed then
    (s.feed c core mb feed q.m).foldIn (pmergeWord .rne) c core mb q
  else s.refuse c core q.m 6

/-- R168 and the rules of R169, the first that fits. -/
def State.applyRules (s : State) (c core : Nat) (mb : BitVec 6) (q : Queued) : State :=
  let b := s.mbxAt c core mb
  let m := q.m
  match s.actorAt c core (mb.toNat / 4) with
  | none => s.refuse c core m 3
  | some a =>
    if b.kind = .unconfigured then s.refuse c core m 3
    else if s.stoppedAt c core then s.toBobbin c core mb q 5 true false
    else if (a.handler (mb.extractLsb' 0 2) m.cls).isNone then
      if m.cls.toNat ≤ 13 then s.refuse c core m 2
      else
        let s := s.modMbx c core mb fun x => { x with drop := min 3 (x.drop + 1) }
        if m.cls = 14 then s.droppedNotice c core m else s
    else if b.spilled then s.toBobbin c core mb q 1 true false
    else if b.kind = .combining then s.intoCombine c core mb q true
    else s.intoQueue c core mb q

/-! ## Replay (R367) -/

/-- A mailbox leaves replay: notice 0x0021 to Pelson and to the debug owner, and the arrivals that waited are taken. The pages of its
bobbin translate. -/
def State.diverge (s : State) (c core : Nat) (mb : BitVec 6) (at_ : Nat) : State :=
  let (aid, owner) := match s.actorAt c core (mb.toNat / 4) with | some a => (a.aid, a.owner) | none => (0, 0)
  let note := noticeMsg owner (sysAad core) (niNotice 0x0021 0 aid (BitVec.ofNat 64 at_))
  let b := s.mbxAt c core mb
  let (l, s) := match b.bobbin with | some x => s.bobbinMsgs c core x | none => ([], s)
  let waited := ((l.zip ((b.bobbin.map (·.msgs)).getD [])).filter fun x => x.2.held).map fun x => x.1.m
  let s := s.modMbx c core mb fun x =>
    { x with replay := none, bobbin := x.bobbin.map fun y => { y with msgs := y.msgs.map fun e => { e with held := false } } }
  let s := waited.foldl (fun s m => (s.feed c core mb true m).msgTaken c m) s
  let s := (s.tellPelson c core { note with dst := 0 } .take).drainNow c core mb
  if owner = 0 then s else s.inject c core note

/-- Does an arrival wait, for its replay entry or for a page of the bobbin, so that the NI has not taken it (R278, R367)? -/
def Mailbox.pends (b : Mailbox) (q : Queued) : Bool :=
  b.limbo.any (fun e => e.1.order == q.order) || match b.bobbin with
    | some x => x.msgs.any fun e => e.held && e.order == q.order
    | none => false

/-- The message of an arrival that the NI has taken is done (R278). -/
def State.settled (s : State) (c core : Nat) (mb : BitVec 6) (q : Queued) : State :=
  if (s.mbxAt c core mb).pends q then s else s.msgTaken c q.m

/-- Arrivals that waited in the bobbin are taken, each once its entry is next; by fuel. -/
def replayFuel : Nat → State → Nat → Nat → BitVec 6 → State
  | 0, s, _, _, _ => s
  | f + 1, s, c, core, mb =>
    let b := s.mbxAt c core mb
    match b.replay, b.bobbin with
    | some (i, e :: _), some x =>
      let (l, s1) := s.bobbinMsgs c core x
      (match (l.zip x.msgs).findIdx? fun y => y.2.held && recordEntry y.1.m == e with
        | some k =>
          let q := (l[k]?).getD { m := { dst := 0, cls := 0, src := 0, payload := [] }, order := 0, at_ := 0 }
          let s2 := ((s1.bobbinRemove c core mb x k).applyRules c core mb q).settled c core mb q
          if ((s2.mbxAt c core mb).replay.map (·.1)) = some i then s2 else replayFuel f s2 c core mb
        | none => s)
    | _, _ => s

/-- An arrival at a mailbox in replay is taken only when it matches the next entry. -/
def State.replayMsg (s : State) (c core : Nat) (mb : BitVec 6) (q : Queued) (i : Nat) (l : List Word) : State :=
    let b := s.mbxAt c core mb
    let e := recordEntry q.m
    if l.head? = some e then replayFuel (b.bobbin.map Bobbin.count |>.getD 0) (s.applyRules c core mb q) c core mb
    else if l.contains e && (match b.bobbin with | some x => decide (x.count < x.entries) | none => false) then
      s.toBobbin c core mb q 1 false true
    else (s.diverge c core mb i).applyRules c core mb q

/-- An arrival at a mailbox; a returning refusal is no arrival of a replay (R369). -/
def State.takeMsg (s : State) (c core : Nat) (mb : BitVec 6) (q : Queued) : State :=
  let b := s.mbxAt c core mb
  match b.replay with
  | none => s.applyRules c core mb q
  | some (i, l) =>
    if q.m.cls = 15 then s.applyRules c core mb q
    else if !b.limbo.isEmpty then (s.toLimbo c core mb q none).drainSoon c core mb
    else match b.bobbin.bind fun x => s.bobbinGap c core x x.count with
      | some g => (s.toLimbo c core mb q none).bobbinWait c core mb g
      | none => s.replayMsg c core mb q i l

/-- What waited for a page of a bobbin is looked at again, in its order. -/
def State.settle (s : State) (c core : Nat) (mb : BitVec 6) : State :=
  let l := (s.mbxAt c core mb).limbo
  if l.isEmpty then s
  else
    let s := l.foldl (fun s e => (match e.2 with
      | none => s.takeMsg c core mb e.1
      | some (feed, held) => s.toBobbin c core mb e.1 1 feed held).settled c core mb e.1) (s.modMbx c core mb fun x => { x with limbo := [] })
    replayFuel l.length s c core mb

/-! ## Arrivals -/

/-- Is an earlier message of the same pair still on its way (R173)? -/
def State.overtakes (s : State) (c : Nat) (m : Msg) : Bool :=
  s.agenda.any fun e => match e.2 with
    | .messageArrival k x => k == c && x.dst == m.dst && aadCore x.src == aadCore m.src && (x.seq - m.seq).msb
    | _ => false

/-- A message for a mailbox of the general cores: Pelson hands it to the mailbox's owner, and refuses it where there is none
(R333; DESIGN CHOICE, notes/assumptions/70.md). -/
def State.mailPelson (s : State) (c : Nat) (m : Msg) : State :=
  if s.update.isSome then s.await (.mail c m)
  else if s.owners.contains m.dst then s.toPelson c m
  else s.refuse c (aadCore m.dst) m 3

/-! ## Notices 0x0014 that reach Pelson (R213, R338) -/

/-- Is a context stopped on every core of its partition? -/
def State.allStopped (s : State) (c : Nat) : Bool :=
  let x := s.ctxAt c
  decide (8 * x.svl ≤ (s.coreCtx.filter fun k => k.1.1 == c && x.holdsCluster (nodeOf k.1.2) && k.2.stopped).length)

/-- The contexts of a partition that may run, in the order of their creation. -/
def State.siblings (s : State) (c : Nat) : List Nat :=
  let x := s.ctxAt c
  (s.ctxs.filter fun y => y.2.svb == x.svb && y.2.svl == x.svl && !y.2.terminated).map (·.1)

/-- The next context of a partition, in round-robin order (R338). -/
def State.nextContext (s : State) (c : Nat) : Option Nat :=
  let l := s.siblings c
  let (a, b) := l.span fun k => k != c
  (b.drop 1 ++ a ++ [c]).find? l.contains

/-- Pelson's stop of a context is complete on every core: it no longer runs, and the partition's next context is restored
(R338). -/
def State.contextStopped (s : State) (c : Nat) : State :=
  let s := s.modCtx c fun x => { x with running := false }
  match s.nextContext c with
  | some n => s.now (.contextRestore n)
  | none => s

/-- Is the notice of a stopped core still on its way to Pelson? -/
def State.noticesComing (s : State) (c : Nat) : Bool :=
  s.agenda.any fun e => match e.2 with | .messageArrival k m => k == c && m.use == some .stopped | _ => false

/-- A notice 0x0014 reaches Pelson; with the last one, its stop is complete. -/
def State.stopNotice (s : State) (c : Nat) (m : Msg) : State :=
  let s := s.toPelson c m
  if (s.ctxAt c).running && s.allStopped c && !s.noticesComing c then s.contextStopped c else s

/-- A notice reaches Pelson itself (R40, R293, R310, R338, R343). -/
def State.pelsonNotice (s : State) (c : Nat) (m : Msg) : PelsonUse → State
  | .take => s.toPelson c m
  | .record => (s.toPelson c m).recordNotice c m.payload
  | .terminate => ((s.toPelson c m).recordNotice c m.payload).terminate c 2
  | .stopped => s.stopNotice c m

/-- MESSAGE_ARRIVAL (R168-R174, R333, R358): a transmit queue takes a request, Pelson the messages of the general cores, and
the mailbox of an actor the others; a notice for Pelson itself has crossed the bridge (R334). -/
def execMessageArrival (c : Nat) (m : Msg) (s : State) : Host.Outcome State Fault Refusal :=
  let core := aadCore m.dst
  let node := nodeOf core
  let mb := aadMbx m.dst
  match m.use with
  | some use => .next (s.pelsonNotice c m use)
  | none =>
  if s.overtakes c m then .next (s.after 1 (.messageArrival c m))
  else
    if 528 ≤ node then .next ((s.msgTaken c m).mailPelson c m)
    else if 512 ≤ node ∧ 60 ≤ mb.toNat then
      .next ((s.msgTaken c m).now (.transmitRequest (BitVec.ofNat 4 (node - 512)) (4 * (core % 8) + (mb.toNat - 60)) c m))
    else
      let s := if m.cls = 15 then s.count c 0x0009 else s
      let (q, s) := s.nextArrival c core m
      .next ((s.takeMsg c core mb q).settled c core mb q)

/-! ## Activation (R172) -/

/-- Is a message the oldest of its SRC in its mailbox? -/
def Mailbox.oldest (b : Mailbox) (q : Queued) : Bool := b.waiting.all fun x => x.m.src != q.m.src || decide (q.order ≤ x.order)

/-- Messages of a core that may be activated, with the number of their mailbox and its priority: of a combining mailbox, the priority that
an earlier MBCFG.q has left, or 0 (DESIGN CHOICE, notes/assumptions/81.md). -/
def State.candidates (s : State) (c core : Nat) : List (Nat × BitVec 6 × Queued) :=
  (s.mbxs.filter fun x => x.1.1 == c && x.1.2.1 == core).flatMap fun x =>
    let b := x.2
    if s.admits c core (x.1.2.2.toNat / 4) then
      (b.waiting.filter fun q => !b.masked q.m.cls && b.oldest q).map fun q => (b.prio.toNat, x.1.2.2, q)
    else []

/-- The highest priority, then the earliest arrival. -/
def bestOf (l : List (Nat × BitVec 6 × Queued)) : Option (Nat × BitVec 6 × Queued) :=
  l.foldl (fun (b : Option (Nat × BitVec 6 × Queued)) x => match b with
    | none => some x
    | some y => if y.1 < x.1 ∨ (x.1 = y.1 ∧ x.2.2.order < y.2.2.order) then some x else b) none

/-- Takes a message out of its mailbox. -/
def Mailbox.without (b : Mailbox) (q : Queued) : Mailbox :=
  let keep (l : List Queued) : List Queued := l.filter fun x => x.order ≠ q.order
  { b with ring := keep b.ring, put := keep b.put, reserve := keep b.reserve }

/-- ACTIVATION_START (R172): the next message to activate, in the lowest-numbered free slot. -/
def execActivationStart (c core : Nat) (s : State) : Host.Outcome State Fault Refusal :=
  if s.stoppedAt c core then .next s
  else match s.slotFor c core, bestOf (s.candidates c core) with
  | some slot, some (_, mb, q) =>
    let s := (s.modMbx c core mb fun b => b.without q).startIn c core slot mb q
    .next ((s.drainCore c core).now (.activationStart c core))
  | _, _ => .next s

/-! ## Bobbins (R170, R174) -/

/-- The first message of a bobbin that may leave it, with its position. -/
def State.bobbinHead (s : State) (c core : Nat) (mb : BitVec 6) : Option (Bobbin × Nat) :=
  (s.mbxAt c core mb).bobbin.bind fun x => (x.msgs.findIdx? fun e => !e.held).map fun i => (x, i)

/-- BOBBIN_DRAIN (R170, R174): bobbins that are closing go on (R183, R231), and what waits for a page of the bobbin of a mailbox is looked
at; then one message leaves it, if it can, which
feeds no digest (R366). A class 14 or 15 message at its head that finds the reserve full waits there, and those behind it with it, though
rule 6 would put it behind them (DESIGN CHOICE, notes/assumptions/77.md). -/
def execBobbinDrain (c : Nat) (aad : BitVec 32) (s : State) : Host.Outcome State Fault Refusal :=
  let core := aadCore aad
  let mb := aadMbx aad
  let s := (s.closeBobbins c core).settle c core mb
  if s.stoppedAt c core then .next s
  else match s.bobbinHead c core mb with
  | none => .next s
  | some (x, i) =>
    match s.bobbinGap c core x (if i = 0 then 1 else x.count) with
    | some g => .next (s.bobbinWait c core mb g)
    | none =>
    let b := s.mbxAt c core mb
    let (q, s1) := s.bobbinMsg c core x i
    let go (f : State → State) : Host.Outcome State Fault Refusal :=
      .next ((f (s1.bobbinRemove c core mb x i)).drainSoon c core mb)
    match b.kind with
    | .unconfigured => .next s
    | .combining =>
      if 14 ≤ q.m.cls.toNat ∧ !s.reserveRoom c core q.m then .next s else go fun s => s.intoCombine c core mb q false
    | .queue =>
      if b.used + msgFlits q.m ≤ b.depth then
        go fun s => ((s.modMbx c core mb fun x => { x with ring := x.ring ++ [q] }).dirtyReceive c core).now (.activationStart c core)
      else .next s

/-! ## Delays (R173, R180) -/

/-- Injects what waits for a destination, in release order, up to the first message whose delay has not passed; by fuel. -/
def injectFuel : Nat → State → Nat → Nat → BitVec 32 → State
  | 0, s, _, _, _ => s
  | f + 1, s, c, core, dst =>
    let q := (s.coreAt c core).inject
    match q.findIdx? fun x => x.1.dst == dst with
    | none => s
    | some i =>
      match q[i]? with
      | none => s
      | some (m, due) =>
        if due ≤ s.cycle then
          injectFuel f ((s.modCore c core fun k => { k with inject := k.inject.eraseIdx i }).injectNow c core m) c core dst
        else s

/-- DELAYED_INJECTION (R180): the message and those that it held back. -/
def execDelayedInjection (c core : Nat) (m : Msg) (s : State) : Host.Outcome State Fault Refusal :=
  .next (injectFuel ((s.coreAt c core).inject.length + 1) s c core m.dst)

end Sys2Proof.Machine
end

