-- ==== Sys2Proof/Machine/Log.lean ====
section
/-! DEFINITION. The activity log of a core (R221-R224), and what a cycle's end does: HUSED (R211), the parks of R139, and
the classification of the cycle. -/

namespace Sys2Proof.Machine

/-! ## Records (R222, R223) -/

/-- Size and base of the memory ring of a core; the base is a physical address (DESIGN CHOICE, notes/assumptions/22.md). -/
def CoreHw.ringSize (k : CoreHw) : Nat := 2 ^ (12 + (k.logp.extractLsb' 0 4).toNat)
def CoreHw.ringBase (k : CoreHw) : Nat := (k.logp.extractLsb' 12 44).toNat * 4096

/-- Has a context an activation on a core? -/
def State.actsOn (s : State) (c core : Nat) : Bool := s.acts.any fun x => x.1.ctx == c && x.1.core == core

/-- Has a context an actor on a core? -/
def State.actorsOn (s : State) (c core : Nat) : Bool := s.actors.any fun x => x.1.1 == c && x.1.2.1 == core

/-- The context that a core works for: a running one whose partition holds it, otherwise any such context. A gateway core lies in no
partition and works for the contexts that have actors there (R9): for one with an activation first, then for one that runs. -/
def State.ctxOn (s : State) (core : Nat) : Option Nat :=
  let here := s.ctxs.filter fun x => !x.2.terminated &&
    (if nodeOf core < 512 then decide (x.2.svb ≤ nodeOf core) && decide (nodeOf core < x.2.svb + x.2.svl) else s.actorsOn x.1 core)
  let runs := here.filter fun x => x.2.running
  (((if nodeOf core < 512 then none else runs.find? fun x => s.actsOn x.1 core).or runs.head?).or here.head?).map (·.1)

/-- Writes one chunk of 16 records, then WOFF, LOST and the zero bytes behind them. -/
def State.writeChunk (s : State) (core : Nat) (rs : List (BitVec 32)) : State :=
  let k := s.hwAt core
  let c := (s.ctxOn core).getD 0
  let s := s.physWrite c core (k.ringBase + 64 + k.woff % (k.ringSize - 64)) (rs.flatMap fun r => bytesLE 4 r.toNat)
  let s := s.modHw core fun k => { k with woff := k.woff + 64 }
  s.physWrite c core k.ringBase (bytesLE 8 (k.woff + 64) ++ bytesLE 8 k.lost ++ List.replicate 48 0)

/-- Drains full chunks: 64 are enough for a ring of 1,024 records. -/
def drainFuel : Nat → Nat → State → State
  | 0, _, s => s
  | f + 1, core, s =>
    let k := s.hwAt core
    if k.ringBase = 0 ∨ k.ring.length < 16 then s
    else drainFuel f core ((s.modHw core fun k => { k with ring := k.ring.drop 16 }).writeChunk core (k.ring.take 16))

/-- The NI writes a chunk while 16 records are pending (R223). -/
def State.drain (s : State) (core : Nat) : State := drainFuel 64 core s

/-- The NI drains everything; a partial chunk is padded with fillers (R223). -/
def State.drainAll (s : State) (core : Nat) : State :=
  let s := s.drain core
  let k := s.hwAt core
  if k.ringBase = 0 ∨ k.ring.isEmpty then s
  else
    let pad := List.replicate (16 - k.ring.length) (logRecord k.span.1 61 0)
    (s.modHw core fun k => { k with ring := [] }).writeChunk core (k.ring ++ pad)

/-- A record enters the activity ring (R222, R223). -/
def State.pushRecord (s : State) (core : Nat) (r : BitVec 32) : State :=
  let k := s.hwAt core
  if k.ringBase = 0 then s.modHw core fun k => { k with ring := (k.ring ++ [r]).drop (k.ring.length - 1023) }
  else if 1024 ≤ k.ring.length then s.modHw core fun k => { k with lost := k.lost + 1 }
  else (s.modHw core fun k => { k with ring := k.ring ++ [r] }).drain core

/-! ## Classification of a cycle (R221) -/

/-- Number of ones of a byte. -/
def ones (x : BitVec 8) : Nat := ((List.range 8).filter fun i => x.getLsbD i).length

/-- Cause of WMEM: the wait of the main stream of an activation. A GSUB that waits for the graph unit, which the table does not name, has
13 (DESIGN CHOICE, notes/assumptions/81.md). -/
def State.waitCause (s : State) (t : SlotId) (a : Act) : BitVec 6 :=
  if a.park then 12
  else if a.main.acks && decide (s.cycle < a.main.notBefore) then 15
  else match a.main.wait with
    | .walk _ | .probe _ | .closing _ => 3
    | .fault .. => 4
    | .waitc .. | .cbwait .. | .barrier _ => 5
    | .ending | .ended => 9
    | .draining _ => 11
    | .gsub _ => 13
    | .seam | .ready => (s.blocked.look (t, .main)).getD 14

/-- State and cause of the present cycle of a core; the cause of RUN is found at the end of the span. -/
def State.classify (s : State) (core : Nat) : BitVec 2 × BitVec 6 :=
  let c := (s.ctxOn core).getD 0
  if s.issued.contains core then (0, 0)
  else
    match (List.range 8).findSome? fun i => (s.acts.look { ctx := c, core, slot := i }).map fun a => (i, a) with
    | some (i, a) => (1, s.waitCause { ctx := c, core, slot := i } a)
    | none =>
      if s.actorsOn c core then
        let q := s.mbxs.filter fun x => x.1.1 == c && x.1.2.1 == core && !(x.2.ring ++ x.2.put ++ x.2.reserve).isEmpty
        (2, if (s.coreAt c core).stop.isSome || (s.coreAt c core).stopped then 2 else if q.isEmpty then 0 else 1)
      else (3, 0)

/-- Adds a cycle to a core's log (R221): a shorter run counts towards the span it interrupts, and the 16th cycle
classified the same way, differently from the span, ends the span at the first of them. Cycles are classified the same way when their
state is the same, whatever the cause (DESIGN CHOICE, notes/assumptions/81.md). -/
def State.logCycle (s : State) (core : Nat) : State :=
  let (st, cause) := s.classify core
  let k := s.hwAt core
  let c := (s.ctxOn core).getD 0
  let s1 := s.modHw core fun k =>
    let now := k.nowSlots
    let k := { k with nowSlots := 0 }
    if st = k.span.1 then
      { k with span := (k.span.1, k.span.2.1, k.span.2.2 + k.cand.2.2 + 1), cand := (st, 0, 0)
               runSlots := k.runSlots ||| k.candSlots ||| now, candSlots := 0 }
    else if k.cand.2.2 ≠ 0 ∧ st = k.cand.1 then
      { k with cand := (st, k.cand.2.1, k.cand.2.2 + 1), candSlots := k.candSlots ||| now }
    else
      { k with span := (k.span.1, k.span.2.1, k.span.2.2 + k.cand.2.2), cand := (st, cause, 1)
               runSlots := k.runSlots ||| k.candSlots, candSlots := now }
  let k1 := s1.hwAt core
  if k1.cand.2.2 = 16 ∧ k1.cand.1 ≠ k1.span.1 then
    let cause := if k1.span.1 = 0 then BitVec.ofNat 6 (ones k.runSlots) else k1.span.2.1
    s1.now (.spanEnd c core k1.span.1 cause k1.span.2.2)
  else if spanMax ≤ k1.span.2.2 then s1.now (.spanExtension c core)
  else s1

/-! ## The end of a cycle -/

/-- HUSED of an activation advances (R211); at its budget the core kills it (R212). -/
def State.useCycle (s : State) (t : SlotId) : State :=
  match s.acts.look t with
  | none => s
  | some a =>
    if a.park ∨ s.cycle < a.startAt ∨ !(s.ctxAt t.ctx).running then s
    else
      let s := s.modActAt t fun a => { a with hused := a.hused + 1 }
      if a.budget ≤ a.hused + 1 then s.now (.budgetKill t) else s

/-- An activation whose store has failed its check parks; its notice has gone (R139). An SDRAIN that was held is behind it
(R152). -/
def State.parkFailed (s : State) (t : SlotId) : State :=
  match s.acts.look t with
  | none => s
  | some a =>
    if a.storeFault then
      let hdom := match s.actorAt t.ctx t.core a.actor with | some x => x.hdom | none => 0
      (s.drainOver t fun _ => true).modActAt t fun a => { a.parked hdom with storeFault := false }
    else s

/-- Cores that hold activations, actors or a log; the others have been IDLE in every cycle (`CoreHw.idle`). -/
def State.liveCores (s : State) : List Nat :=
  (s.acts.map (·.1.core) ++ s.actors.map (·.1.2.1) ++ s.coreHw.map (·.1)).eraseDups

/-- Units of `State.reft` in one millisecond: 100,000 ticks of 10 ns (R10), so one cycle at f kHz takes this / f. -/
def refUnits : Nat := 3948000000

/-- REFT (R21). -/
def State.refTicks (s : State) : Nat := s.reft / 39480

end Sys2Proof.Machine
end

