-- ==== Sys2Proof/Machine/Faults.lean ====
section
/-! DEFINITION. The end of a walk, the fault queue and its service (R308-R312): the rows WALK_END, FAULT_COMPLETION and
FAULT_REFUSAL. -/

namespace Sys2Proof.Machine

/-! ## Who waits for a granule -/

/-- Does a stream wait for a granule, in its walk or on the fault queue? -/
def StreamSt.waitsFor (x : StreamSt) (g : Nat) : Bool :=
  match x.wait with
  | .walk k | .fault k _ | .probe k => k == g
  | _ => false

/-- Does anything of a core wait for a granule? -/
def State.coreWaits (s : State) (c core g : Nat) : Bool :=
  s.acts.any (fun x => x.1.ctx == c && x.1.core == core &&
    (x.2.main.waitsFor g || x.2.acc.waitsFor g || x.2.checks.any fun p => p.waits == some g)) ||
  ((s.coreAt c core).copyQ ++ (s.coreAt c core).gatherQ).any fun e => e.waits == some g

/-- Changes the streams of a cluster that wait for a granule. -/
def State.mapWaiters (s : State) (c cl g : Nat) (f : StreamSt → StreamSt) : State :=
  let go (x : StreamSt) : StreamSt := if x.waitsFor g then f x else x
  { s with acts := s.acts.map fun (x : SlotId × Act) =>
      if x.1.ctx = c ∧ nodeOf x.1.core = cl then (x.1, { x.2 with main := go x.2.main, acc := go x.2.acc }) else x }

/-- The stores of a cluster that wait for a granule in their check, those that `which` names, are changed by f and checked again. -/
def State.wakeChecks (s : State) (c cl g : Nat) (which : PStore → Bool) (f : PStore → PStore) : State :=
  s.acts.foldl (fun s (x : SlotId × Act) =>
    if x.1.ctx = c ∧ nodeOf x.1.core = cl then
      x.2.checks.foldl (fun s p =>
        if p.waits = some g && which p then
          (s.modActAt x.1 fun a => { a with checks := a.checks.map fun q =>
            if q.id = p.id then (f { q with waits := none }) else q }).now
            (.storeCheck x.1 p.id)
        else s) s
    else s) s

/-- Puts of a port that wait for a granule go on (R359). -/
def State.wakePort (s : State) (c cl g : Nat) (refused : Bool) : State :=
  if cl < 512 then s
  else
    let hit (r : PortReq) : Bool := r.ctx == c && r.waits == some g
    let reqs := ((s.ports[cl - 512]?).map (·.reqs)).getD []
    let go (r : PortReq) : PortReq :=
      if hit r then { r with waits := none, refused := if refused then some g else r.refused } else r
    let s := { s with ports := vmod s.ports (cl - 512) fun x => { x with reqs := x.reqs.map go } }
    (reqs.filter hit).foldl (fun s r => s.now (.transmitRequest (BitVec.ofNat 4 (cl - 512)) r.q c r.m)) s

/-- The engine commands of a cluster that wait for a granule go on, under what its walk has given (R312); `refused` where Pelson will
not map it. -/
def State.wakeEngines (s : State) (c cl g : Nat) (refused : Bool) (given : Option TlbEntry) : State :=
  let go (e : EngCmd) : EngCmd :=
    if e.waits = some g then { e with waits := none, given, refused := if refused then some g else e.refused } else e
  let s := (List.range 8).foldl (fun s i =>
    if (s.coreAt c (8 * cl + i)).copyQ.isEmpty && (s.coreAt c (8 * cl + i)).gatherQ.isEmpty then s
    else s.modCore c (8 * cl + i) fun k => { k with copyQ := k.copyQ.map go, gatherQ := k.gatherQ.map go }) s
  (s.wakePort c cl g refused).engKickAll c cl

/-- Control nodes of the graph unit that wait for a granule, by the cluster whose TLB serves them. -/
def State.nodesWaiting (s : State) (c cl g : Nat) : List Nat :=
  ((s.ctxAt c).nodes.filter fun n => n.cluster == cl && n.st == .evaluating (some g)).map (·.id)

/-- A walk is over: its walker takes the next one that waits (R308). -/
def State.dropWalk (s : State) (c cl g : Nat) : State :=
  (s.modClHw cl fun k => { k with walks := k.walks.filter fun w => w.ctx ≠ c ∨ w.granule ≠ g }).beginWalk cl

/-- A walk waits on an entry of the fault queue, and its walker takes the next one; or it has no entry any more, and waits for a walker
again (R308, R311). -/
def State.setWalkSeq (s : State) (c cl g : Nat) (seq : Option Nat) : State :=
  (s.modClHw cl fun k => { k with walks := k.walks.map fun w =>
    if w.ctx = c ∧ w.granule = g then { w with seq, begun := w.begun && seq.isSome } else w }).beginWalk cl

/-! ## The end of a walk (R308, R309) -/

/-- A walk has translated its granule: its result enters the TLBs, and every waiter proceeds (R308, R311). -/
def State.walkDone (s : State) (c cl g : Nat) (e : TlbEntry) : State :=
  let cores := ((List.range 8).map fun i => 8 * cl + i).filter fun k => s.coreWaits c k g
  let s := (s.dropWalk c cl g).modClHw cl fun k => { k with tlb := enterTlb e k.tlb }
  let s := cores.foldl (fun s k => s.modHw k fun h => { h with tlb := enterCore e h.tlb }) s
  let nodes := s.nodesWaiting c cl g
  let s := ((s.mapWaiters c cl g fun x => { x with wait := .ready, given := some e }).wakeChecks c cl g (fun _ => true) id).wakeEngines
    c cl g false (some e)
  let s := nodes.foldl (fun s id =>
    let s := s.modCtx c fun x => x.modNode id fun n => { n with st := .evaluating none }
    if s.graphStopped c then s else s.now (.controlEvaluation c id)) s
  (s.retryDones c).retryReports c

/-! ## The fault queue (R310) -/

/-- ACC of an entry: the bits of the walk's first waiter. -/
def accBits : AccKind → Nat
  | .load => 1 | .storeCheck => 2 | .fetch => 4 | .engine => 8 | .probe => 0

/-- The 32 bytes of an entry. -/
def entryBytes (g kind level : Nat) (acc : AccKind) (cl entry seq c : Nat) : List Byte :=
  bytesLE 8 (g * 65536) ++ bytesLE 1 kind ++ bytesLE 1 level ++ bytesLE 1 (accBits acc) ++ [0] ++ bytesLE 2 cl ++ [0, 0] ++
  bytesLE 8 entry ++ bytesLE 4 seq ++ bytesLE 4 c

/-- Entries of the fault queue (R310). -/
def fqSize : Nat := 256

/-- Notice 0x001A, and the record of a refused entry: the manual states no INFO (DESIGN CHOICE, notes/assumptions/37.md). -/
def State.entryNotice (s : State) : List Byte × State :=
  let (info, s) := s.freeWord
  (noticeBytes 0x001A 0 0 0 0 0 0 info, s)

/-- A walker writes an entry and tells Pelson, which records one of kind 1 to 3 in the fault-notice window (R343); its waiters then wait
on that entry. -/
def State.enterFault (s : State) (c cl g kind level entry : Nat) (acc : AccKind) : State :=
  let x := s.ctxAt c
  let seq := (x.fqSeq + 1) % 2 ^ 32
  let s := if x.fqBase = 0 then s
    else s.physWrite c (8 * cl) (x.fqBase + 32 * (x.fqSeq % fqSize)) (entryBytes g kind level acc cl entry seq c)
  let (note, s) := s.entryNotice
  let s := s.tellPelson c (8 * cl) { noticeMsg 0 0 note with rel := true } (if kind = 0 then .take else .record)
  let s := (s.setWalkSeq c cl g (some seq)).modCtx c fun x =>
    { x with fqSeq := seq, fqOut := x.fqOut ++ [{ seq, granule := g, kind := BitVec.ofNat 8 kind, cluster := cl }] }
  let s := s.mapWaiters c cl g fun x => { x with wait := .fault g seq }
  (List.range 8).foldl (fun s i =>
    if (s.coreAt c (8 * cl + i)).stop.isSome then s.now (.stopComplete c (8 * cl + i)) else s) s

/-- Is a store under check a CFLUSH? -/
def PStore.probes (p : PStore) : Bool := match p.kind with | .flush .. => true | _ => false

/-- The probes of a granule end as not translated (R309): those of CINV, PREF and DOMQ, and those of CFLUSH. -/
def State.endProbes (s : State) (c cl g : Nat) : State :=
  (s.mapWaiters c cl g fun x => if x.wait = .probe g then { x with wait := .ready, skip := g :: x.skip } else x).wakeChecks c cl g
    PStore.probes fun q => { q with skip := g :: q.skip }

/-- WALK_END (R309-R311): the walk of probes alone enters no entry, and a new fault holds in its walker while the ring is full. -/
def execWalkEnd (c cl : Nat) (va : BitVec 64) (acc : AccKind) (s : State) : Host.Outcome State Fault Refusal :=
  let g := va.toNat / 65536
  if (s.clHwAt cl).walks.any fun w => w.ctx == c && w.granule == g && w.begun && w.seq.isNone then
    match s.walkTable c (g * 65536) with
    | (.leaf e, s) => .next (s.walkDone c cl g e)
    | (.bad kind level entry, s) =>
      let s := s.endProbes c cl g
      .next (if acc = .probe then s.dropWalk c cl g
        else if fqSize ≤ (s.ctxAt c).fqOut.length then s else s.enterFault c cl g kind level entry acc)
  else .next s

/-! ## Completion and refusal (R311) -/

/-- An entry is no longer outstanding, so that walks held for a full ring end again. -/
def State.freeEntry (s : State) (c seq : Nat) : State :=
  let s := s.modCtx c fun x => { x with fqOut := x.fqOut.filter fun e => e.seq ≠ seq }
  s.clHw.foldl (fun s (k : Nat × ClusterHw) => k.2.walks.foldl (fun s w =>
    if w.ctx = c ∧ w.begun ∧ w.seq = none ∧ !s.agenda.any (fun e => e.2 == .walkEnd c k.1 (BitVec.ofNat 64 (w.granule * 65536)) w.acc) then
      s.now (.walkEnd c k.1 (BitVec.ofNat 64 (w.granule * 65536)) w.acc)
    else s) s) s

/-- The entry of the fault queue that a SEQ names. -/
def Ctx.faultEntry (x : Ctx) (seq : BitVec 32) : Option FaultEntry := x.fqOut.find? fun e => e.seq == seq.toNat

/-- FAULT_COMPLETION (R311): the walkers walk the granule again, once; while the context is stopped it waits (R312). -/
def execFaultCompletion (c : Nat) (seq : BitVec 32) (s : State) : Host.Outcome State Fault Refusal :=
  match (s.ctxAt c).faultEntry seq with
  | none => .next s
  | some e =>
    if !(s.ctxAt c).running then .next (s.modCtx c fun x => { x with fqHeld := x.fqHeld ++ [(seq, true)] })
    else
      let s := s.mapWaiters c e.cluster e.granule fun x => { x with wait := .walk e.granule }
      .next (((s.count c 0x0008).setWalkSeq c e.cluster e.granule none).freeEntry c e.seq)

/-- FAULT_REFUSAL (R311): every waiter fails, and an entry of kind 0 is recorded in the fault-notice window; the others have been when
they were written (R343). -/
def execFaultRefusal (c : Nat) (seq : BitVec 32) (s : State) : Host.Outcome State Fault Refusal :=
  match (s.ctxAt c).faultEntry seq with
  | none => .next s
  | some e =>
    if !(s.ctxAt c).running then .next (s.modCtx c fun x => { x with fqHeld := x.fqHeld ++ [(seq, false)] })
    else
      let g := e.granule
      let nodes := s.nodesWaiting c e.cluster g
      let s := (s.dropWalk c e.cluster g).freeEntry c e.seq
      let s := s.mapWaiters c e.cluster g fun x => { x with wait := .ready, refused := some g }
      let s := (s.wakeChecks c e.cluster g (fun _ => true) fun q => { q with refused := some g }).wakeEngines c e.cluster g true none
      let s := (s.loseReports c e.cluster g).loseClosing c e.cluster g
      let s := s.modCtx c fun x => { x with dones := x.dones.filter fun d => d.cluster ≠ e.cluster ∨ d.addr / 65536 ≠ g }
      let s := nodes.foldl (fun s id => s.failNode c id 3) s
      if e.kind = 0 then
        let (note, s) := s.entryNotice
        .next (s.recordNotice c note)
      else .next s

end Sys2Proof.Machine
end

