-- ==== Sys2Proof/Machine/Engines.lean ====
section
/-! DEFINITION. Engines, circular buffers, timeline counters and barriers (R268-R283), CKPT (R217), and their events: LEAVE_GRANT
for every queue, ENGINE_CHUNK, ENGINE_COMMAND_COMPLETE, RELEASE_DONE, WAITC_COMPLETE, CBWAIT_COMPLETE, BARRIER_RELEASE. -/

namespace Sys2Proof.Machine

/-! ## Accesses of an engine (R269, R270) -/

/-- What an access of an engine meets. -/
inductive EngGot where
  | byte (b : Byte)
  /-- the granule of a missing translation -/
  | wait (granule : Nat)
  /-- a write to the tile store that a pending-read range holds (R254) -/
  | held
  | fault (addr cause : Nat)
  deriving DecidableEq, Repr

/-- Who a command accesses memory as: its issuer's workspace is reachable while the issuer lives (R271). -/
def EngCmd.who (e : EngCmd) (c core : Nat) : Who :=
  { sid := e.owner.getD { ctx := c, core, slot := 8 }, own := e.owner.isSome, dom := e.dom, windows := e.windows, win := none, given := e.given }

/-- The place of a byte, or why it cannot be accessed: a write to the activation record counts as one to a workspace
(DEDUCED, notes/assumptions/35.md). -/
def State.engPlace (s : State) (w : Who) (refused : Option Nat) (a : Nat) (need : Need) : Except EngGot Place :=
  match s.place w a need with
  | .ok p => .ok p
  | .error (.cause 7) => .error (.fault a 6)
  | .error (.cause q) => .error (.fault a q)
  | .error (.walk g) => .error (if refused = some g then .fault a 9 else .wait g)

/-- A global byte with a mark where it is poisoned: from the stash, from the cluster's copy of its line where one is held, or from the
home (R269, R298). -/
def State.engGlobal (s : State) (c core : Nat) (key : BitVec 9) (va phys : Nat) : Byte × Bool × State :=
  let cl := nodeOf core
  match s.stashOf c cl va with
  | some x => let s := s.stashFill c cl key va phys; (s.stashRead c cl x va, s.stashBad c cl x va, s)
  | none =>
    match s.lineAt cl (phys / 128) with
    | some l => ((l.data[phys % 128]?).getD 0, l.poison.getLsbD (sectorOf phys), s)
    | none => s.strongRead c key phys

/-- Is the byte at a place poisoned, in the copy that the engine reads (R298)? -/
def State.poisonedAt (s : State) (w : Who) (a : Nat) : Place → Bool
  | .clm off => s.poison.contains (clmKey w.sid.ctx w.sid.core off / 16)
  | .tile off => s.poison.contains (tileKey w.sid.ctx (nodeOf w.sid.core) off / 16)
  | .glob p e => (s.engGlobal w.sid.ctx w.sid.core e.key a p).2.1
  | _ => false

/-- The first byte of a range that cannot be accessed. -/
def State.firstBad (s : State) (w : Who) (refused : Option Nat) (need : Need) (a n : Nat) : Option EngGot :=
  (List.range n).findSome? fun i =>
    match s.engPlace w refused (a + i) need with
    | .error g => some g
    | .ok p => if need = .read && s.poisonedAt w (a + i) p then some (.fault (a + i) 8) else none

/-- The address at which the block of a TB6 window begins that a global byte lies in, from its address and its physical one. -/
def State.blockStart (s : State) (c a ph : Nat) : Option Nat :=
  ((s.ctxAt c).fwinAt ph).bind fun f => if f.fmt = 3 then some (a - (ph - f.base) % 24) else none

/-- What stands against the block of a TB6 window that a global byte lies in (R58). -/
def State.blockBad (s : State) (w : Who) (refused : Option Nat) (need : Need) (a ph : Nat) : Option EngGot :=
  (s.blockStart w.sid.ctx a ph).bind fun b => s.firstBad w refused need b 24

/-- What stands against the write of a byte, and of the block of a TB6 window that it lies in (R58). -/
def State.cannotWrite (s : State) (w : Who) (refused : Option Nat) (a : Nat) : Option EngGot :=
  match s.engPlace w refused a .write with
  | .error g => some g
  | .ok (.glob ph _) => s.blockBad w refused .write a ph
  | .ok _ => none

/-- Reads a byte: one of a block of a TB6 window together with the whole block (R58). -/
def State.engRead (s : State) (c core : Nat) (w : Who) (refused : Option Nat) (a : Nat) : EngGot × State :=
  match s.engPlace w refused a .read with
  | .error g => (g, s)
  | .ok p =>
    match p with
    | .reg k => (.byte (if 4080 ≤ k then 0 else ((s.acts.look w.sid).getD Act.blank).wsRead k), s)
    | .win .. => (.fault a 4, s)
    | .clm off => (if s.poisonedAt w a p then .fault a 8 else .byte (s.mem.read (clmKey c core off)), s)
    | .tile off => (if s.poisonedAt w a p then .fault a 8 else .byte (s.mem.read (tileKey c (nodeOf core) off)), s)
    | .glob ph e =>
      match s.blockBad w refused .read a ph with
      | some g => (g, s.touchAll c core [a])
      | none =>
        let (b, bad, s) := (s.touchTlb c core a).engGlobal c core e.key a ph
        (if bad then .fault a 8 else .byte b, s)

/-- Writes a byte: a global one at its home, with the cluster's copy, or in the stash (R266, R269); one of a block of a TB6 window once
the whole block may be written (R58). The secondary of a pair writes no global byte (R268). `before` is the number of tile commands that
were in their queues when the command issued, or reserved its slot, and `since` the cycle of its issue. -/
def State.engWrite (s : State) (c core : Nat) (w : Who) (refused : Option Nat) (before since a : Nat) (b : Byte) : EngGot × State :=
  match s.engPlace w refused a .write with
  | .error g => (g, s)
  | .ok p =>
    match p with
    | .reg k => (.byte b, s.modActAt w.sid fun x => x.wsWrite k b)
    | .win .. => (.fault a 4, s)
    | .clm off => (.byte b, s.writeClm c core off b)
    | .tile off =>
      if s.rangeHolds c (nodeOf core) before off off then (.held, s) else (.byte b, s.writeTile c (nodeOf core) off b)
    | .glob ph e =>
      match s.blockBad w refused .write a ph with
      | some g => (g, s.touchAll c core [a])
      | none =>
        if s.isSecond c core then (.byte b, s)
        else if s.stashHeld c (nodeOf core) before a || s.awayHeld c (nodeOf core) since a ph then (.held, s)
        else
          (.byte b, ((s.touchTlb c core a).globalWrite c core e.key a ph true false b).modHw core fun k =>
            { k with l1 := k.l1.filter fun l => l ≠ ph / 128 })

/-! ## The bytes of a command -/

/-- An address in a shape: base + z × plane + y × row + x, modulo 2^64. -/
def shapeAddr (base ys zs : Word) (x y z : Nat) : Nat :=
  (base + BitVec.ofNat 64 z * zs + BitVec.ofNat 64 y * ys + BitVec.ofNat 64 x).toNat

/-- Source and destination of the byte at a position. -/
def EngCmd.addrs (e : EngCmd) : Nat × Nat :=
  let x := e.pos % e.x
  let y := e.pos / e.x % e.y
  let z := e.pos / (e.x * e.y)
  match e.idx with
  | none => (shapeAddr e.src e.sys e.szs x y z, shapeAddr e.dst e.dys e.dzs x y z)
  | some (_, scatter) =>
    let tab (b : Word) : Nat := shapeAddr b e.sys 0 x e.row 0
    let packed (b : Word) : Nat := shapeAddr b e.dys 0 x y 0
    if scatter then (packed e.src, tab e.dst) else (tab e.src, packed e.dst)

/-- A byte of a block of CLM that CKPT copies: the registers as the workspaces hold them, those of a free slot as its last activation
left them (R15); what the NI and the descriptors keep there has no layout in the manual, and copies as free bytes (DESIGN CHOICE,
notes/assumptions/36.md). -/
def State.ckptClm (s : State) (c core off : Nat) : Byte × State :=
  let slot := off / 4096
  let k := off % 4096
  if off < 32768 then
    match s.acts.look { ctx := c, core, slot } with
    | some a => (if k < 3456 then a.wsRead k else s.mem.read (clmKey c core off), s)
    | none =>
      match (s.coreAt c core).left.look slot with
      | some a => (if k < 3456 then a.wsRead k else s.mem.read (clmKey c core off), s)
      | none => (s.mem.read (clmKey c core off), s)
  else if off < 40960 ∨ (44032 ≤ off ∧ off < 45056) then s.freeByte
  else (s.mem.read (clmKey c core off), s)

/-- The source byte of a CKPT at a position, and its destination. -/
def State.ckptByte (s : State) (c core : Nat) (e : EngCmd) (ts : Bool) (blocks : List Nat) : EngGot × Nat × State :=
  let size := if ts then 4096 else 256
  let off := size * blocks.getD (e.pos / size) 0 + e.pos % size
  let dst := e.dst.toNat + off
  let key := if ts then tileKey c (nodeOf core) off else clmKey c core off
  let loc := 2 ^ 55 + (if ts then 0x10000000 + off else off)
  if s.poison.contains (key / 16) then (.fault loc 8, dst, s)
  else if ts then (.byte (s.mem.read key), dst, s)
  else let (b, s) := s.ckptClm c core off; (.byte b, dst, s)

/-- Reads the n little-endian bytes of an index, the lowest address first. -/
def State.engIndex (s : State) (c core : Nat) (w : Who) (refused : Option Nat) : Nat → Nat → EngGot × Nat
  | _, 0 => (.byte 0, 0)
  | a, n + 1 =>
    match s.engRead c core w refused a with
    | (.byte b, _) =>
      let (g, x) := State.engIndex s c core w refused (a + 1) n
      (g, b.toNat + 256 * x)
    | (g, _) => (g, 0)

/-- When a row of GATHER begins, its index is read and its indexed bytes are checked, for errors and with their blocks as well
(R273). -/
def State.beginRow (s : State) (c core : Nat) (e : EngCmd) : EngGot × EngCmd :=
  match e.idx with
  | none => (.byte 0, e)
  | some (at_, scatter) =>
    if e.pos % e.x ≠ 0 then (.byte 0, e)
    else
      let w := e.who c core
      match s.engIndex c core w e.refused (at_.toNat + 4 * (e.pos / e.x)) 4 with
      | (.byte _, i) =>
        let e := { e with row := i }
        let (src, dst) := e.addrs
        let bad := (List.range e.x).findSome? fun k =>
          if scatter then s.cannotWrite w e.refused (dst + k)
          else match (s.engRead c core w e.refused (src + k)).1 with | .byte _ => none | g => some g
        (bad.getD (.byte 0), e)
      | (g, _) => (g, e)

/-- Reads the source byte of a command anew: the whole block, where it lies in one of a TB6 window. -/
def State.readFresh (s : State) (c core : Nat) (e : EngCmd) (a : Nat) : EngGot × EngCmd × State :=
  let w := e.who c core
  match s.engRead c core w e.refused a with
  | (.byte b, t) =>
    let left := match s.place w a .read with
      | .ok (.glob p _) => (match s.blockStart c a p with | some k => k + 24 - (a + 1) | none => 0)
      | _ => 0
    let (l, t) := (List.range left).foldl (fun (r : List (Nat × Byte) × State) i =>
      match r.2.engRead c core w e.refused (a + 1 + i) with
      | (.byte y, u) => (r.1 ++ [(a + 1 + i, y)], u)
      | (_, u) => (r.1, u)) ([], t)
    (.byte b, { e with got := l }, t)
  | (g, t) => (g, e, t)

/-- Reads the source byte of a command. A block of a TB6 window is read as one access, of which the command keeps what it has not written
yet (R58). -/
def State.readSource (s : State) (c core : Nat) (e : EngCmd) (a : Nat) : EngGot × EngCmd × State :=
  match e.got with
  | (x, b) :: t => if x = a then (.byte b, { e with got := t }, s) else s.readFresh c core e a
  | [] => s.readFresh c core e a

/-- Moves one byte. -/
def State.moveByte (s : State) (c core : Nat) (e : EngCmd) : EngGot × EngCmd × State :=
  let w := e.who c core
  let (g, dst, e, s) : EngGot × Nat × EngCmd × State :=
    match e.ckpt with
    | some (ts, blocks) => let (g, dst, s) := s.ckptByte c core e ts blocks; (g, dst, e, s)
    | none =>
      match s.beginRow c core e with
      | (.byte _, e) =>
        let (src, dst) := e.addrs
        let (g, e, s) := s.readSource c core e src
        (g, dst, e, s)
      | (g, e) => (g, 0, e, s)
  match g with
  | .byte b =>
    (match s.engWrite c core w e.refused e.issued e.since dst b with
      | (.byte _, s) => (.byte b, { e with pos := e.pos + 1 }, s)
      | (g, s) => (g, e, s))
  | g => (g, e, s)

/-- Moves n bytes; what stopped it, if something did. -/
def State.moveSome (c core : Nat) : Nat → State → EngCmd → EngGot × EngCmd × State
  | 0, s, e => (.byte 0, e, s)
  | n + 1, s, e =>
    match s.moveByte c core e with
    | (.byte _, e, s) => State.moveSome c core n s e
    | r => r

/-- Source and destination of the byte at any position of a command: a row of GATHER has those of its index. -/
def State.addrsAt (s : State) (c core : Nat) (e : EngCmd) (pos : Nat) : Nat × Nat :=
  match e.ckpt with
  | some (ts, blocks) =>
    let size := if ts then 4096 else 256
    (0, e.dst.toNat + size * blocks.getD (pos / size) 0 + pos % size)
  | none =>
    let e := if e.idx.isSome && pos / e.x != e.pos / e.x then (s.beginRow c core { e with pos := pos / e.x * e.x }).2 else e
    ({ e with pos } : EngCmd).addrs

/-- Bytes from a global address on that a command writes in its block of a TB6 window; one, where it lies in none. -/
def State.blockLeft (s : State) (w : Who) (a : Nat) : Nat :=
  match s.place w a .write with
  | .ok (.glob p _) => (match s.blockStart w.sid.ctx a p with | some b => b + 24 - a | none => 1)
  | _ => 1

/-- The bytes of a command that are written as one access: those that follow in the same block of a TB6 window of its destination
(R58; DEDUCED, notes/assumptions/53.md). A block of its source is read as one by `State.readSource`. -/
def State.unitOf (s : State) (c core : Nat) (e : EngCmd) : Nat :=
  let a := (s.addrsAt c core e e.pos).2
  max 1 ((List.range (min (s.blockLeft (e.who c core) a) (e.total - e.pos))).takeWhile fun i =>
    (s.addrsAt c core e (e.pos + i)).2 == a + i).length

/-- Moves the bytes of one access: while one of them has to wait, none is moved. -/
def State.moveUnit (s : State) (c core : Nat) (e : EngCmd) : EngGot × EngCmd × State :=
  match State.moveSome c core (s.unitOf c core e) s e with
  | (.wait g, _, _) => (.wait g, e, s)
  | (.held, _, _) => (.held, e, s)
  | (g, e, s) => (g, { e with given := none }, s)

/-- Moves accesses up to a position, and the rest of the last one; by fuel. -/
def State.moveTo (c core goal : Nat) : Nat → State → EngCmd → EngGot × EngCmd × State
  | 0, s, e => (.byte 0, e, s)
  | n + 1, s, e =>
    if e.total ≤ e.pos ∨ goal ≤ e.pos then (.byte 0, e, s)
    else match s.moveUnit c core e with
    | (.byte _, e, s) => State.moveTo c core goal n s e
    | r => r

/-- Moves n bytes and the rest of the access that the last of them belongs to; what stopped it, if something did. -/
def State.moveBytes (c core n : Nat) (s : State) (e : EngCmd) : EngGot × EngCmd × State := State.moveTo c core (e.pos + n) n s e

/-- Where a global byte of a strong store goes: the key of the stash that holds it, or its physical address. -/
def State.goalKey (s : State) (c cl va phys : Nat) : Nat :=
  match s.stashOf c cl va, s.stashHolder c (phys / 128) with
  | some x, _ => tileKey c cl (x.tile + (va - x.base))
  | none, some (k, x, w) => tileKey c k (x.tile + (w + phys % 128 - x.base))
  | none, none => phys

/-- Keys written by a command between two positions, and the physical addresses of the global ones. -/
def State.writtenKeys (s : State) (c core : Nat) (e : EngCmd) (from_ : Nat) : List Nat × List Nat :=
  (List.range (e.pos - from_)).foldl (fun (r : List Nat × List Nat) i =>
    let p := from_ + i
    let a := (s.addrsAt c core { e with pos := e.total } p).2
    match s.place (e.who c core) a .write with
    | .ok (.glob p _) => if s.isSecond c core then r else (s.goalKey c (nodeOf core) a p :: r.1, p :: r.2)
    | .ok (.clm off) => (clmKey c core off :: r.1, r.2)
    | .ok (.tile off) => (tileKey c (nodeOf core) off :: r.1, r.2)
    | _ => r) ([], [])

/-- Do scale pairs that a line carries hold a poisoned byte? -/
def Scales.marked (x : Scales) : Bool := x.bytes.any fun y => y.2.2

/-- Scale pairs whose bytes in whole sectors, that a write at these addresses replaces, lose their mark (R298, R302). -/
def Scales.cleared (x : Scales) (phys : List Nat) : Scales :=
  { x with bytes := x.bytes.map fun y => (y.1, y.2.1, y.2.2 && !wholeSector phys y.1) }

/-- Does a cluster hold a copy of a poisoned sector, or of scale bytes from one? -/
def State.copiesPoison (s : State) (c cl : Nat) : Bool :=
  ((s.clHwAt cl).lines.any fun l => l.poison != 0 || l.scales.any (·.marked)) ||
  (s.clAt c cl).stash.any fun x => x.lines.any fun l => l.scales.any (·.marked)

/-- The whole sectors that a command has written between two positions lose their poison, at their goal and in the cluster's copies,
scale pairs included (R298, R302). -/
def State.clearWritten (s : State) (c core : Nat) (e : EngCmd) (from_ : Nat) : State :=
  let cl := nodeOf core
  if s.poison.isEmpty && !s.copiesPoison c cl then s
  else
    let (keys, phys) := s.writtenKeys c core e from_
    let left (l : CLine) : BitVec 8 := (List.range 8).foldl (fun (m : BitVec 8) q =>
      if l.poison.getLsbD q && !wholeSector phys (128 * l.line + 16 * q) then m ||| BitVec.twoPow 8 q else m) 0
    ((s.clearPoison keys).modClHw cl fun k => { k with lines := k.lines.map fun l =>
      { l with poison := left l, scales := l.scales.map (·.cleared phys) } }).modStash c cl fun l => { l with scales := l.scales.map (·.cleared phys) }

/-! ## Circular buffers -/

/-- A buffer of a cluster. -/
def State.cbufAt (s : State) (c cl : Nat) (b : BitVec 3) : Option CBuf := ((s.clAt c cl).cbufs[b.toNat]?).getD none

/-- Changes a buffer. -/
def State.setCbuf (s : State) (c cl : Nat) (b : BitVec 3) (x : CBuf) : State :=
  s.modCl c cl fun k => { k with cbufs := vmod k.cbufs b.toNat fun _ => some x }

/-- Local address of a slot of a buffer (R275, R276). -/
def CBuf.slotAddr (x : CBuf) (i : Nat) : Word := BitVec.ofNat 64 (0x0080000010000000 + x.base + i * x.slot)

/-- Reserves slot TAIL for a copy that names a buffer (R275). Its writes issue then, behind the tile commands that have entered their
queues (R254, R277; DEDUCED, notes/assumptions/53.md). -/
def State.reserveSlot (s : State) (c core : Nat) (e : EngCmd) : EngCmd × State :=
  match e.cb with
  | some (b, none) =>
    (match s.cbufAt c (nodeOf core) b with
      | some x =>
        ({ e with dst := x.slotAddr x.tail, cb := some (b, some x.tail), issued := (s.clAt c (nodeOf core)).issued },
         s.setCbuf c (nodeOf core) b { x with free := x.free - 1, tail := (x.tail + 1) % x.cnt, resv := x.resv ++ [(core, e.n, false)] })
      | none => (e, s))
  | _ => (e, s)

/-- Streams of a cluster that CBWAIT holds on a buffer look again, a cycle later (R276). -/
def State.wakeCbwait (s : State) (c cl : Nat) : State :=
  s.acts.foldl (fun s (x : SlotId × Act) =>
    if x.1.ctx = c ∧ nodeOf x.1.core = cl then
      [Stream.main, Stream.access].foldl (fun s st => match (x.2.str st).wait with
        | .cbwait _ b i =>
          let fill := match s.cbufAt c cl b with | some y => y.fill | none => 0
          if i < fill && !s.agenda.any (fun (e : Nat × Instr) => e.2 == Instr.cbwaitComplete x.1 st) then
            s.after 1 (.cbwaitComplete x.1 st)
          else s
        | _ => s) s
    else s) s

/-- Slots fill in the order of their reservation (R275); the cores whose copies have filled theirs are looked at again. -/
def State.fillSlots (s : State) (c cl : Nat) (b : BitVec 3) : State :=
  match s.cbufAt c cl b with
  | none => s
  | some x =>
    let full := x.resv.takeWhile fun r => r.2.2
    if full.isEmpty then s
    else
      let s := s.setCbuf c cl b { x with fill := x.fill + full.length, resv := x.resv.drop full.length }
      (full.foldl (fun s r => s.now (.engineCommandComplete c r.1 false)) s).wakeCbwait c cl

/-! ## Events of the engines -/

/-- LEAVE_GRANT (R252, R268, R353), of the matrix, the copy or the gather queue of a core. -/
def execLeaveGrant (c core eng : Nat) (s : State) : Host.Outcome State Fault Refusal :=
  if eng = 0 then
    match headTile (s.coreAt c core).tile with
    | none => .next s
    | some t => .next ((s.modCore c core fun k => { k with tile := k.tile.map fun x => if x.n = t.n then { x with leave := true } else x }).tileKick
        c core)
  else
    let gth := eng == 2
    match headCmd ((s.coreAt c core).engQ gth) with
    | none => .next s
    | some e => .next ((s.setCmd c core gth { e with leave := true }).engKick c core gth)

/-- What is saved of a command at a stop: it asks for leave again when its context runs again (R213, R353). -/
def EngCmd.saved (e : EngCmd) : EngCmd := { e with leave := decide (e.total ≤ 65536), held := false }

/-- The commands of a queue of an engine are saved at a stop, and its leave is returned (R213, R268, R353). One that waits for a
translation or for a pending-read range is saved where it stands (DESIGN CHOICE, notes/assumptions/81.md). -/
def State.saveEngine (s : State) (c core : Nat) (gth : Bool) : State :=
  (s.modCore c core fun k => k.setEngQ gth ((k.engQ gth).map EngCmd.saved)).giveLeave c core (if gth then 2 else 1)

/-- A stop ends the CKPTs of a core (R213): the blocks not copied are dirty again, and the numbers are reached. -/
def State.endCkpts (s : State) (c core : Nat) : State :=
  ((s.coreAt c core).copyQ).foldl (fun s e =>
    match e.ckpt with
    | some (ts, blocks) =>
      if e.total ≤ e.pos then s
      else
        let left := blocks.drop (e.pos / (if ts then 4096 else 256))
        let s := if ts then left.foldl (fun s b => s.dirtyTile c (nodeOf core) (4096 * b)) s
          else left.foldl (fun s b => s.dirtyClm c core (256 * b)) s
        (s.setCmd c core false { e with pos := e.total }).now (.engineCommandComplete c core false)
    | none => s) s

/-- A command whose access fails stops: its number is reached as failed, with a record (R270). -/
def State.failCmd (s : State) (c core : Nat) (gth : Bool) (e : EngCmd) (addr cause : Nat) : State :=
  let t := if gth then 2 else 1
  ((s.setCmd c core gth { e with pos := e.total }).failNo c core t e.n).engineFault c core (slotByte e.slot.toNat e.stream) e.dom
    e.aid t e.n cause (BitVec.ofNat 64 addr)

/-- Moves up to n bytes of a command, to the end of a block of a TB6 window, and says what follows. -/
def State.engRun (s : State) (c core : Nat) (gth : Bool) (e : EngCmd) (n : Nat) : State :=
  let (g, e1, s) := State.moveBytes c core n s e
  let s := (s.setCmd c core gth e1).clearWritten c core e1 e.pos
  match g with
  | .fault a q => ((s.touchAll c core [a]).failCmd c core gth e1 a q).now (.engineCommandComplete c core gth)
  | .wait gr => (s.setCmd c core gth { e1 with waits := some gr }).startWalk c (nodeOf core) gr .engine
  | .held => s.setCmd c core gth { e1 with held := true }
  | .byte _ => if e1.total ≤ e1.pos then s.now (.engineCommandComplete c core gth) else s

/-- ENGINE_CHUNK (R268-R270): the chunk in progress moves, also where a stop has come meanwhile; then the engine serves the
next core. -/
def execEngineChunk (c core : Nat) (gth : Bool) (s : State) : Host.Outcome State Fault Refusal :=
  let next (s : State) : State :=
    if (s.coreAt c core).stop.isSome then
      (((s.endCkpts c core).saveEngine c core gth).now (.stopComplete c core)).engStart c (nodeOf core) gth
    else (s.engStart c (nodeOf core) gth).engKick c core gth
  match headCmd ((s.coreAt c core).engQ gth) with
  | none => .next (next s)
  | some e =>
    if !e.leave || e.waits.isSome || e.held || !s.storesDone e.owner e.after false || !s.cbFree c (nodeOf core) e then .next (next s)
    else
      let (e, s) := s.reserveSlot c core e
      let n := min 4096 (e.total - e.pos)
      let m := match e.cut with | some p => min n (p - e.pos) | none => n
      .next (next (s.engRun c core gth (if (s.coreAt c core).stop.isSome then e else { e with cut := none }) m))

/-- Is a finished command complete: a copy into a buffer once its slot has filled (R275)? -/
def State.cmdOver (s : State) (c core : Nat) (e : EngCmd) : Bool :=
  decide (e.total ≤ e.pos) &&
  match e.cb with
  | some (b, some _) => (match s.cbufAt c (nodeOf core) b with
    | some x => !x.resv.any fun r => r.1 == core && r.2.1 == e.n
    | none => true)
  | _ => true

/-- ENGINE_COMMAND_COMPLETE (R278): slots fill, and the finished commands at the front of the queue reach their numbers. -/
def execEngineCommandComplete (c core : Nat) (gth : Bool) (s : State) : Host.Outcome State Fault Refusal :=
  let cl := nodeOf core
  let s := ((s.coreAt c core).engQ gth).foldl (fun s e =>
    match e.cb with
    | some (b, some _) =>
      if e.total ≤ e.pos then
        match s.cbufAt c cl b with
        | some x => (s.setCbuf c cl b { x with resv := x.resv.map fun r => if r.1 = core ∧ r.2.1 = e.n then (r.1, r.2.1, true) else r }).fillSlots
            c cl b
        | none => s
      else s
    | _ => s) s
  let other := ((s.coreAt c core).engQ gth).takeWhile fun e => s.cmdOver c core e
  let s := other.foldl (fun s e =>
    let s := s.modCore c core fun k => k.setEngQ gth ((k.engQ gth).drop 1)
    let s := s.reach c core (if gth then 2 else 1) e.n
    if 65536 < e.total then s.giveLeave c core (if gth then 2 else 1) else s) s
  let s := s.engKick c core gth
  .next (if (s.coreAt c core).stop.isSome then s.now (.stopComplete c core) else s)

/-- Removes the leading releases whose messages are all done, and says the last of them. -/
def doneReleases : List OpenRelease → Option Nat × List OpenRelease
  | [] => (none, [])
  | r :: t =>
    if r.msgs.isEmpty then
      let (n, l) := doneReleases t
      (some (n.getD r.n), l)
    else (none, r :: t)

/-- RELEASE_DONE (R278): tlc3 reaches the last release before which every message is done; under lockstitch on both cores. -/
def execReleaseDone (c core : Nat) (s : State) : Host.Outcome State Fault Refusal :=
  let (n, l) := doneReleases (s.coreAt c core).releases
  match n with
  | none => .next s
  | some n =>
    let s := (s.modCore c core fun k => { k with releases := l }).reach c core 3 n
    .next (match s.mate c core with | some k => s.reach c k 3 n | none => s)

/-- WAITC_COMPLETE (R279). -/
def execWaitcComplete (t : SlotId) (x : Stream) (s : State) : Host.Outcome State Fault Refusal :=
  match (s.acts.look t).map fun (a : Act) => (a.str x).wait with
  | some (.waitc u n) =>
    if n ≤ ((s.coreAt t.ctx t.core).tlcAt u.toNat).present then .next (s.goOn t x) else .next s
  | _ => .next s

/-- CBWAIT_COMPLETE (R276): a full queue register holds the stream a cycle longer (R43). -/
def execCbwaitComplete (t : SlotId) (x : Stream) (s : State) : Host.Outcome State Fault Refusal :=
  match (s.acts.look t).map fun (a : Act) => (a.str x).wait with
  | some (.cbwait a b i) =>
    (match s.cbufAt t.ctx (nodeOf t.core) b with
      | some k =>
        if i < k.fill then
          let s1 := { s with cur := { sid := t, stream := x } }
          match (writeG a (k.slotAddr ((k.head + i) % k.cnt))).run s1 with
          | .ok (_, s2) => .next (s2.goOn t x)
          | .error _ => .next (s.after 1 (.cbwaitComplete t x))
        else .next s
      | none => .next s)
  | _ => .next s

/-- BARRIER_RELEASE (R281): every stream whose arrivals are complete goes on. -/
def execBarrierRelease (c cl : Nat) (b : BitVec 2) (s : State) : Host.Outcome State Fault Refusal :=
  let k := ((s.clAt c cl).barriers[b.toNat]?).getD {}
  let due := k.opening.filter fun h => decide (h.1 ≤ s.cycle)
  let s := s.modCl c cl fun x => { x with barriers := vmod x.barriers b.toNat fun k =>
    { k with opening := k.opening.filter fun h => !decide (h.1 ≤ s.cycle) } }
  let waits (h : Nat × SlotId × Stream) : Bool :=
    match s.acts.look h.2.1 with | some a => (a.str h.2.2).wait == .barrier b | none => false
  .next ((due.filter waits).foldl (fun s h => s.goOn h.2.1 h.2.2) s)

/-! ## COPY and GATHER (R271-R273) -/

/-- An engine issue fault; the manual states no INFO for it. -/
def engineIssueFault (cause : Nat) : Notice := { code := 0x0018, reason := cause, openInfo := true }

/-- A 64-bit field of a descriptor. -/
def descWord (d : List Byte) (off : Nat) : Word := BitVec.ofNat 64 (fieldLE d off 8)

/-- Does a local byte lie in a space of R136 (but for the WINMAP window)? -/
def inSpaces (a : Int) : Bool :=
  let o := a - 2 ^ 55
  (decide (0 ≤ o) && decide (o < 131072)) || (decide (0x10000000 ≤ o) && decide (o < 0x10600000))

/-- Offsets of the lowest and the highest byte of a shape. -/
def shapeSpan (x y z : Nat) (ys zs : Word) : Int × Int :=
  let r : Int := ((y : Int) - 1) * ys.toInt
  let p : Int := ((z : Int) - 1) * zs.toInt
  (min 0 r + min 0 p, (x : Int) - 1 + max 0 r + max 0 p)

/-- Is a local shape good (R271, cause 3)? A global one is not checked. -/
def shapeOk (base : Word) (sp : Int × Int) : Bool :=
  if 2 ^ 55 ≤ base.toNat ∧ base.toNat < 2 ^ 56 then inSpaces (base.toNat + sp.1) && inSpaces (base.toNat + sp.2) else true

/-- The lowest-numbered cause of R271 for a COPY, but for cause 1. -/
def copyCause (d : List Byte) (cb : Option (Option CBuf)) : Option Nat :=
  let x := fieldLE d 16 4
  let y := fieldLE d 20 4
  let z := fieldLE d 24 4
  let dst := descWord d 8
  let sp := shapeSpan x y z (descWord d 48) (descWord d 56)
  if x < 1 ∨ 16777216 < x ∨ y < 1 ∨ 65536 < y ∨ z < 1 ∨ 65536 < z ∨ 2 ^ 32 < x * y * z then some 2
  else if !shapeOk (descWord d 0) (shapeSpan x y z (descWord d 32) (descWord d 40)) || (cb.isNone && !shapeOk dst sp) then some 3
  else if fieldLE d 28 4 ≠ 0 then some 4
  else match cb with
  | none => none
  | some none => some 5
  | some (some k) => if dst ≠ 0 ∨ sp.1 < 0 ∨ (k.slot : Int) ≤ sp.2 then some 5 else none

/-- The lowest-numbered cause of R271 for a GATHER, but for cause 1; of its shapes only the packed one is checked. -/
def gatherCause (d : List Byte) (scatter : Bool) : Option Nat :=
  let x := fieldLE d 16 4
  let n := fieldLE d 20 4
  let idx := descWord d 24
  if x < 1 ∨ 65536 < x ∨ n < 1 ∨ 65536 < n then some 2
  else if !shapeOk (if scatter then descWord d 0 else descWord d 8) (shapeSpan x n 1 (descWord d 40) 0) then some 3
  else if fieldLE d 48 16 ≠ 0 then some 4
  else if idx.toNat < 2 ^ 55 ∨ 2 ^ 56 ≤ idx.toNat ∨ idx.toNat % 4 ≠ 0 then some 6
  else none

/-- A command of the present instruction that moves nothing yet. -/
def State.newCmd (s : State) (n : Nat) : EngCmd :=
  { n, slot := BitVec.ofNat 3 s.cur.sid.slot, stream := s.cur.stream, dom := s.cur.dom, windows := s.act.openWindows s.cur.dom
    aid := match s.cactor? with | some x => x.aid | none => 0
    owner := some s.cur.sid, src := 0, dst := 0, x := 1, y := 1, z := 1, sys := 0, szs := 0, dys := 0, dzs := 0, idx := none,
    ckpt := none, cb := none, pos := 0, leave := true, after := s.act.nextStore, issued := (s.clAt s.cctx s.ccl).issued
    since := s.cycle }

/-- A command enters its queue once that holds fewer than 16 (R268): its number goes to `a`. -/
def enterCmd (gth : Bool) (a : GQ) (mk : EngCmd → EngCmd) : M Unit := do
  if 16 ≤ (← asks fun s => (s.coreAt s.cctx s.ccore).engQ gth).length then stop (.hold 14)
  let t := if gth then 2 else 1
  let n ← fun s => .ok (s.assignNo s.cctx s.ccore t)
  change fun s =>
    let e := mk (s.newCmd n)
    let e := { e with leave := decide (e.total ≤ 65536) }
    let s := s.modCore s.cctx s.ccore fun k => k.setEngQ gth (k.engQ gth ++ [e])
    (s.modAct fun x => { x with issued := true, cmds := x.cmds ++ [(BitVec.ofNat 2 t, n)] }).engKick s.cctx s.ccore gth
  writeG a (BitVec.ofNat 64 n)

/-- Reads a descriptor of 64 bytes (R271, cause 1). -/
def descM (x : Word) : M (List Byte) := do
  check (← asks fun s => s.descPlace x.toNat 64) (engineIssueFault 1)
  loadM x 64 false

/-- Parks on a cause, if there is one. -/
def noCause (q : Option Nat) : M Unit :=
  match q with
  | some n => parkM (engineIssueFault n)
  | none => pure ()

/-- COPY (R272). -/
def execCopy (h : Hdr) (a b : GQ) (cb : Option (BitVec 3)) (s : State) : Host.Outcome State Fault Refusal :=
  instr h s do
    let x ← readG b
    roomG a
    let d ← descM x
    noCause (← asks fun s => copyCause d (cb.map fun n => s.cbufAt s.cctx s.ccl n))
    enterCmd false a fun e => { e with
      src := descWord d 0, dst := descWord d 8, x := fieldLE d 16 4, y := fieldLE d 20 4, z := fieldLE d 24 4,
      sys := descWord d 32, szs := descWord d 40, dys := descWord d 48, dzs := descWord d 56, cb := cb.map fun n => (n, none) }

/-- GATHER (R273). -/
def execGather (h : Hdr) (sc : Bool) (a b : GQ) (s : State) : Host.Outcome State Fault Refusal :=
  instr h s do
    let x ← readG b
    roomG a
    let d ← descM x
    noCause (gatherCause d sc)
    enterCmd true a fun e => { e with
      src := descWord d 0, dst := descWord d 8, x := fieldLE d 16 4, y := fieldLE d 20 4, sys := descWord d 32,
      dys := descWord d 40, idx := some (descWord d 24, sc) }

/-! ## Buffers, counters, barriers (R274-R281) -/

/-- Does a copy of the cluster hold a slot of a buffer that has not filled, or wait for one? -/
def State.cbBusy (s : State) (c cl : Nat) (b : BitVec 3) : Bool :=
  (List.range 8).any fun i => (s.coreAt c (8 * cl + i)).copyQ.any fun e =>
    match e.cb with | some (n, _) => n == b && !s.cmdOver c (8 * cl + i) e | none => false

/-- CBINIT (R274). -/
def execCbinit (h : Hdr) (cb : BitVec 3) (b c : GQ) (s : State) : Host.Outcome State Fault Refusal :=
  instr h s do
    let base ← readG b
    let w ← readG c
    let slot := (w.extractLsb' 0 21).toNat
    let cnt := (w.extractLsb' 32 7).toNat
    let busy ← asks fun s => s.cbBusy s.cctx s.ccl cb
    check (decide (base.toNat ≤ 0x5FFFFF) && base.toNat % 128 == 0 && w &&& ~~~0x7F001FFFFF == 0 && slot % 128 == 0 &&
      decide (128 ≤ slot ∧ slot ≤ 1048576 ∧ 1 ≤ cnt ∧ cnt ≤ 64) && decide (base.toNat + cnt * slot ≤ 0x600000) && !busy)
      (engineIssueFault 7)
    change fun s => s.setCbuf s.cctx s.ccl cb
      { base := base.toNat, slot, cnt, head := 0, tail := 0, free := cnt, fill := 0, resv := [] }

/-- CBWAIT (R276). -/
def execCbwait (h : Hdr) (a : GQ) (cb : BitVec 3) (c : Option GQ) (s : State) : Host.Outcome State Fault Refusal :=
  guarded h s <| runM s
    (do
      let i ← readG? c
      firstPush a
      let i := (i.getD 0).toNat
      let cnt ← asks fun s => match s.cbufAt s.cctx s.ccl cb with | some x => x.cnt | none => 0
      check (decide (i < cnt)) (engineIssueFault 9)
      pure i)
    fun i t => (t.issueHeld h (.cbwait a cb i)).wakeCbwait s.cctx s.ccl

/-- A release of the present stream's earlier local stores: it waits for their checks (R277, R281). -/
def localDone (tileOnly : Bool) : M Unit := do
  if ← asks fun s => s.act.checks.any fun p => p.stream == s.cur.stream && p.bytes.any fun b =>
      decide (2 ^ 55 ≤ b.1) && (!tileOnly || (tileOffset b.1).isSome) then stop (.hold 14)

/-- CBREL (R277). -/
def execCbrel (h : Hdr) (cb : BitVec 3) (k : BitVec 32) (s : State) : Host.Outcome State Fault Refusal :=
  instr h s do
    localDone true
    match ← asks fun s => s.cbufAt s.cctx s.ccl cb with
    | none => parkM (engineIssueFault 7)
    | some x =>
      check (decide (k.toNat ≤ x.fill)) (engineIssueFault 7)
      change fun s => (s.setCbuf s.cctx s.ccl cb
        { x with fill := x.fill - k.toNat, head := (x.head + k.toNat) % x.cnt, free := x.free + k.toNat }).engKickAll s.cctx s.ccl

/-- WAITC (R279): a number that has been reached does not hold. -/
def execWaitc (h : Hdr) (t : BitVec 2) (n : WaitSrc) (s : State) : Host.Outcome State Fault Refusal :=
  guarded h s <| runM s
    (match n with
      | .imm x => pure x.toNat
      | .reg c => do pure (← readG c).toNat)
    fun n u =>
      if n ≤ ((s.coreAt s.cctx s.ccore).tlcAt t.toNat).present then u.retire h else u.issueHeld h (.waitc t n)

/-- READC (R280). -/
def execReadc (h : Hdr) (f : ReadcForm) (a : GQ) (t : BitVec 2) (s : State) : Host.Outcome State Fault Refusal :=
  instr h s do
    let x ← asks fun s => (s.coreAt s.cctx s.ccore).tlcAt t.toNat
    writeG a (BitVec.ofNat 64 (match f with | .assigned => x.assigned | .present => x.present | .failed => x.failed))

/-- An arrival at a barrier; with the last one, every holder continues 6 cycles later (R281). -/
def State.arrive (s : State) (b : BitVec 2) (n : Nat) : State :=
  let k := ((s.clAt s.cctx s.ccl).barriers[b.toNat]?).getD {}
  let l := k.holders ++ [(s.cur.sid, s.cur.stream)]
  let set (k : Barrier) : State := s.modCl s.cctx s.ccl fun x => { x with barriers := vmod x.barriers b.toNat fun _ => k }
  if n ≤ l.length then
    (set { expect := 0, holders := [], opening := k.opening ++ l.map fun h => (s.cycle + 6, h) }).after 6
      (.barrierRelease s.cctx s.ccl b)
  else set { k with expect := n, holders := l }

/-- CBAR (R281). -/
def execCbar (h : Hdr) (bar : BitVec 2) (b : GQ) (s : State) : Host.Outcome State Fault Refusal :=
  guarded h s <| runM s
    (do
      let n := (← readG b).toNat
      let k ← asks fun s => ((s.clAt s.cctx s.ccl).barriers[bar.toNat]?).getD {}
      check (decide (1 ≤ n ∧ n ≤ 64) && (k.holders.isEmpty || k.expect == n)) (engineIssueFault 8)
      localDone false
      pure n)
    fun n t => (t.arrive bar n).issueHeld h (.barrier bar)

/-! ## CKPT (R217) -/

/-- The dirty blocks of a core's CLM, with those of the workspaces of its activations; the block that holds an activation
record always is. -/
def State.dirtyBlocks (s : State) (c core : Nat) : BitVec 512 :=
  (List.range 8).foldl (fun d i => match s.acts.look { ctx := c, core, slot := i } with
    | some a => d ||| ((a.dirtyWs ||| 0x2000).setWidth 512 <<< (16 * i))
    | none => d) (s.coreAt c core).dirty

/-- Clears the dirty bits of a core's CLM. -/
def State.cleanClm (s : State) (c core : Nat) : State :=
  let clean (x : SlotId × Act) : SlotId × Act := if x.1.ctx = c ∧ x.1.core = core then (x.1, { x.2 with dirtyWs := 0 }) else x
  ({ s with acts := s.acts.map clean } : State).modCore c core fun k => { k with dirty := 0 }

/-- The positions of the ones of a bit vector. -/
def onesOf {n : Nat} (x : BitVec n) : List Nat := (List.range n).filter fun i => x.getLsbD i

/-- CKPT (R217). -/
def execCkpt (h : Hdr) (ts : Bool) (a b : GQ) (s : State) : Host.Outcome State Fault Refusal :=
  instr h s do
    needPriv
    let x ← readG b
    roomG a
    check (!x.getLsbD 55) { code := 0x0008, reason := 4, info := x }
    check (x.toNat % 4096 == 0) { code := 0x0007, openInfo := true }
    let d ← asks fun s => if ts then onesOf (s.clAt s.cctx s.ccl).dirty else onesOf (s.dirtyBlocks s.cctx s.ccore)
    change fun s => if ts then s.modCl s.cctx s.ccl fun k => { k with dirty := 0 } else s.cleanClm s.cctx s.ccore
    enterCmd false a fun e => { e with dst := x, ckpt := some (ts, d) }

end Sys2Proof.Machine
end

