-- ==== Sys2Proof/Machine/Tile.lean ====
section
/-! DEFINITION. The matrix unit (R242-R263): swatches, regions, tile commands and MCFG, and the rows MATRIX_STEP and
TILE_COMMAND_COMPLETE. -/

namespace Sys2Proof.Machine

/-! ## Swatches (R245, R246) -/

/-- Twin-exponent format of a swatch's FMT. -/
def swTb (fmt : BitVec 3) : Option TBFmt :=
  if fmt = 3 then some .tb8 else if fmt = 4 then some .tb6 else if fmt = 5 then some .tb4 else none

/-- Alignment of BASE and PITCH. -/
def swAlign (fmt : BitVec 3) : Nat :=
  if fmt = 0 ∨ fmt = 1 then 2 else if fmt = 2 then 4 else if fmt = 6 then 128 else 8

/-- Bytes of a line of k elements. -/
def lineBytes (fmt : BitVec 3) (k : Nat) : Nat :=
  match swTb fmt with
  | some f => k / 32 * tbBytes f
  | none => if fmt = 2 then 4 * k else if fmt = 6 then k / 192 * 128 else if fmt = 7 then k / 8 else 2 * k

/-- Size of the tile store. -/
def tileSize : Nat := 0x600000

/-- The swatch of two words, when MCFG.sw admits it. -/
def swatchOf (w0 w1 : Word) : Option Swatch :=
  let fmt := w0.extractLsb' 24 3
  let x : Swatch := { base := (w0.extractLsb' 0 23).toNat, fmt, pitch := (w0.extractLsb' 32 16).toNat,
                      sbase := (w1.extractLsb' 0 23).toNat, spitch := (w1.extractLsb' 32 16).toNat }
  if w0 &&& ~~~0x0000FFFF077FFFFF = 0 ∧ w1 &&& ~~~0x0000FFFF007FFFFF = 0 ∧ x.base < tileSize ∧ x.sbase < tileSize ∧
      ((swTb fmt).isSome ∨ (x.sbase = 0 ∧ x.spitch = 0)) ∧ x.base % swAlign fmt = 0 ∧ x.pitch % swAlign fmt = 0 ∧
      x.sbase % 2 = 0 ∧ x.spitch % 2 = 0 then some x else none

/-- Regions of a swatch for k elements in a line, as first and last byte (R246). -/
def Swatch.regions (x : Swatch) (k : Nat) : List (Nat × Nat) :=
  (x.base, x.base + 63 * x.pitch + lineBytes x.fmt k - 1) ::
    (if (swTb x.fmt).isSome then [(x.sbase, x.sbase + 63 * x.spitch + 2 * (k / 32) - 1)] else [])

/-- Line 0 of a swatch of 64 elements, which is all that MEWISE reads (R262). -/
def Swatch.line0 (x : Swatch) : Nat × Nat := (x.base, x.base + lineBytes x.fmt 64 - 1)

/-- Regions that a command reads, which it registers (R254). -/
def TileOp.reads : TileOp → List (Nat × Nat)
  | .mma _ a b k | .mmas _ a b k => a.regions k ++ b.regions k
  | .mmasx _ a b m k => a.regions (k / 2) ++ m.regions k ++ b.regions k
  | .mload _ x => x.regions 64
  | .mxpose _ x => x.regions 64
  | .mewise _ _ _ _ (some v) => [v.line0]
  | _ => []

/-- Regions that a command writes. -/
def TileOp.writes : TileOp → List (Nat × Nat)
  | .mstore d _ _ => d.regions 64
  | .mxpose d _ => d.regions 64
  | _ => []

/-- Accumulator that a command writes. -/
def TileOp.dest : TileOp → Option Bool
  | .mma a .. | .mmas a .. | .mmasx a .. | .mload a _ | .mzero a | .mewise a .. => some a
  | .mstore .. | .mxpose .. => none

/-! ## Steps (R249) -/

/-- Elements of K in a full step, and elements in a cycle. -/
def TileOp.rate : TileOp → Nat × Nat
  | .mma _ a _ _ => if a.fmt = 5 then (512, 8) else if (swTb a.fmt).isSome then (256, 4) else (64, 1)
  | .mmas .. | .mmasx .. => (384, 8)
  | _ => (1, 1)

/-- Products of a k-group (R66). -/
def TileOp.group : TileOp → Nat
  | .mma _ a _ _ => if a.fmt = 5 then 8 else if (swTb a.fmt).isSome then 4 else 1
  | _ => 8

/-- Elements that the next step covers, and its cycles. -/
def TileCmd.next (t : TileCmd) : Nat × Nat :=
  match t.op with
  | .mma .. | .mmas .. | .mmasx .. =>
    let n := min t.op.rate.1 (t.op.steps - t.step)
    (n, (n + t.op.rate.2 - 1) / t.op.rate.2)
  | .mzero _ => (1, 4)
  | .mload .. | .mstore .. | .mxpose .. => (1, 32)
  | .mewise _ _ _ _ v => (1, if v.isSome then 20 else 16)

/-! ## Reading operands -/

/-- Bytes of the tile store. -/
def State.tileBytes (s : State) (c cl off n : Nat) : List Byte := s.readKeys (tileKey c cl off) n

/-- Elements k0 to k1 − 1 of line i of a swatch, decoded (R48, R56, R60). -/
def State.tileLine (s : State) (c cl : Nat) (x : Swatch) (i k0 k1 : Nat) : List FVal :=
  let o := x.base + i * x.pitch
  match swTb x.fmt with
  | some f => (List.range ((k1 - k0) / 32)).flatMap fun j =>
      let b := k0 / 32 + j
      let e := s.tileBytes c cl (x.sbase + i * x.spitch + 2 * b) 2
      tbDecode f (fieldLE e 0 1) (fieldLE e 1 1) (ofBytesLE (s.tileBytes c cl (o + tbBytes f * b) (tbBytes f)))
  | none =>
    if x.fmt = 6 then (List.range ((k1 - k0) / 192)).flatMap fun j =>
      sparseDecode (ofBytesLE (s.tileBytes c cl (o + 128 * (k0 / 192 + j)) 128))
    else
      let n := if x.fmt = 2 then 4 else 2
      let f := if x.fmt = 0 then fmtBF16 else if x.fmt = 1 then fmtF16 else fmtF32
      let bs := s.tileBytes c cl (o + n * k0) (n * (k1 - k0))
      (List.range (k1 - k0)).map fun k => f.decode (fieldLE bs (n * k) n)

/-- Dense elements of a line of MMASX: masks j, with the stored values that they place (R259). -/
def maskedLine : List Nat → List FVal → List FVal
  | [], _ => []
  | m :: t, v =>
    match maskSet m with
    | [lo, hi] =>
      ([0, 1, 2, 3].map fun i => if i = lo then v.getD 0 (.nan false) else if i = hi then v.getD 1 (.nan false) else .fin false 0 0) ++
        maskedLine t (v.drop 2)
    | _ => List.replicate 4 (.nan false) ++ maskedLine t (v.drop 2)

/-- Elements k0 to k1 − 1 of line i of an operand A of MMASX. -/
def State.maskLine (s : State) (c cl : Nat) (a m : Swatch) (i k0 k1 : Nat) : List FVal :=
  let masks := (List.range ((k1 - k0) / 4)).map fun j =>
    let q := k0 / 4 + j
    (s.mem.read (tileKey c cl (m.base + i * m.pitch + q / 2))).toNat >>> (4 * (q % 2)) % 16
  maskedLine masks (s.tileLine c cl a i (k0 / 2) (k1 / 2))

/-- Does a step read a poisoned byte: elements k0 to k1 − 1 of the lines of its operands (R256)? -/
def State.tilePoison (s : State) (c cl : Nat) (op : TileOp) (k0 k1 : Nat) : Bool :=
  if s.poison.isEmpty then false
  else
    let hit (lo n : Nat) : Bool := s.poison.any fun q =>
      decide (tileKey c cl lo / 16 ≤ q) && decide (q ≤ tileKey c cl (lo + n - 1) / 16) && decide (0 < n)
    let lines (x : Swatch) (k0 k1 : Nat) : Bool := (List.range 64).any fun i =>
      hit (x.base + i * x.pitch + lineBytes x.fmt k0) (lineBytes x.fmt k1 - lineBytes x.fmt k0) ||
      ((swTb x.fmt).isSome && hit (x.sbase + i * x.spitch + 2 * (k0 / 32)) (2 * (k1 / 32 - k0 / 32)))
    match op with
    | .mma _ a b _ | .mmas _ a b _ => lines a k0 k1 || lines b k0 k1
    | .mmasx _ a b m _ => lines a (k0 / 2) (k1 / 2) || lines m k0 k1 || lines b k0 k1
    | .mload _ x | .mxpose _ x => lines x 0 64
    | .mewise _ _ _ _ (some v) => hit v.base (lineBytes v.fmt 64)
    | _ => false

/-! ## What a step computes -/

/-- Accumulates products into one element, a k-group at a time (R66); by fuel. -/
def macGroups (g : Nat) : Nat → List (FVal × FVal) → Nat × BitVec 5 → Nat × BitVec 5
  | 0, _, r => r
  | _, [], r => r
  | f + 1, l, (acc, fl) =>
    let grp := l.take g
    let ps := grp.map fun p => mulV p.1 p.2
    let (v, f1) := sumV .rne (fmtF32.decode acc :: ps.map (·.1))
    let (bits, f2) := fmtF32.encode .rne v
    let f0 := ps.foldl (fun x p => x ||| p.2) (flagIf (grp.any fun p => p.1.isNan || p.2.isNan) flNV)
    macGroups g f (l.drop g) (bits, fl ||| f0 ||| f1 ||| f2)

/-- An accumulator: element n of row m at 64m + n. -/
abbrev Accum := Vector (BitVec 32) 4096

/-- Accumulates the lines of two operands. -/
def macAll (g : Nat) (acc : Accum) (a b : Array (List FVal)) : Accum × BitVec 5 :=
  let r : Vector (BitVec 32 × BitVec 5) 4096 := Vector.ofFn fun i : Fin 4096 =>
    let l := (a.getD (i.val / 64) []).zip (b.getD (i.val % 64) [])
    let (x, fl) := macGroups g l.length l (acc[i].toNat, 0)
    (BitVec.ofNat 32 x, fl)
  (r.map (·.1), r.foldl (fun fl x => fl ||| x.2) 0)

/-- The 64 lines that a function gives. -/
def lines64 (f : Nat → List FVal) : Array (List FVal) := ((List.range 64).map f).toArray

/-- Bytes with their tile offsets from `off` on. -/
def atTile (off : Nat) (bs : List Byte) : List (Nat × Byte) := bs.zipIdx.map fun x => (off + x.2, x.1)

/-- Writes bytes of the tile store; whole sectors clear their poison. -/
def State.putTile (s : State) (c cl : Nat) (l : List (Nat × Byte)) : State :=
  (l.foldl (fun s x => s.writeTile c cl x.1 x.2) s).clearPoison (l.map fun x => tileKey c cl x.1)

/-- Type of the elements of a BF16, FP16 or FP32 swatch. -/
def swType (fmt : BitVec 3) : NType := if fmt = 0 then .bf16 else if fmt = 1 then .f16 else .f32

/-- The bytes that MSTORE writes for line i (R260). -/
def storeLine (x : Swatch) (mode : Mode) (i : Nat) (row : List (BitVec 32)) : List (Nat × Byte) × BitVec 5 :=
  let o := x.base + i * x.pitch
  match swTb x.fmt with
  | some f =>
    let blk (j : Nat) : List (Nat × Byte) × BitVec 5 :=
      let (e0, e1, body, fl) := requantise f (((row.drop (32 * j)).take 32).map fun v => fmtF32.decode v.toNat)
      (atTile (o + tbBytes f * j) (bytesLE (tbBytes f) body) ++ atTile (x.sbase + i * x.spitch + 2 * j) [BitVec.ofNat 8 e0, BitVec.ofNat 8 e1], fl)
    let (l0, f0) := blk 0
    let (l1, f1) := blk 1
    (l0 ++ l1, f0 ||| f1)
  | none =>
    let n := if x.fmt = 2 then 4 else 2
    let r := row.map fun v => convert mode (swType x.fmt) .f32 v.toNat
    (atTile o (r.flatMap fun y => bytesLE n y.1), r.foldl (fun fl y => fl ||| y.2) 0)

/-- Row m of an accumulator. -/
def Accum.row (acc : Accum) (m : Nat) : List (BitVec 32) := (List.range 64).map fun n => (acc[64 * m + n]?).getD 0

/-- One element of MEWISE (R262). -/
def ewElem (op : Nat) (mode : Mode) (acc x : Nat) : Nat × BitVec 5 :=
  match op with
  | 0 | 4 => fop fmtF32 mode .mul 0 acc x
  | 2 => minmax fmtF32 true acc x
  | 3 => minmax fmtF32 false acc x
  | _ => fop fmtF32 mode .add 0 acc x

/-- The accumulator of a core. -/
def CoreCtx.accum (k : CoreCtx) (a : Bool) : Accum := if a then k.acc1 else k.acc0

/-- Sets an accumulator of a core. -/
def State.setAccum (s : State) (c core : Nat) (a : Bool) (v : Accum) : State :=
  s.modCore c core fun k => if a then { k with acc1 := v } else { k with acc0 := v }

/-- The effect of a step of a command over elements k0 to k1 − 1, with the flags it raises (R259-R262). -/
def State.doStep (s : State) (c core : Nat) (op : TileOp) (k0 k1 : Nat) : State × BitVec 5 :=
  let cl := nodeOf core
  let k := s.coreAt c core
  let mac (acc : Bool) (a b : Nat → List FVal) : State × BitVec 5 :=
    let (v, fl) := macAll op.group (k.accum acc) (lines64 a) (lines64 b)
    (s.setAccum c core acc v, fl)
  match op with
  | .mma acc a b _ | .mmas acc a b _ => mac acc (fun i => s.tileLine c cl a i k0 k1) fun i => s.tileLine c cl b i k0 k1
  | .mmasx acc a b m _ => mac acc (fun i => s.maskLine c cl a m i k0 k1) fun i => s.tileLine c cl b i k0 k1
  | .mzero acc => (s.setAccum c core acc (Vector.replicate 4096 0), 0)
  | .mload acc x =>
    let l := lines64 fun i => s.tileLine c cl x i 0 64
    let v : Accum := Vector.ofFn fun i : Fin 4096 => BitVec.ofNat 32 (toF32 ((l.getD (i.val / 64) []).getD (i.val % 64) (.nan false)))
    (s.setAccum c core acc v, flagIf (l.any fun r => r.any FVal.isNan) flNV)
  | .mstore d acc rm =>
    (List.range 64).foldl (fun (r : State × BitVec 5) m =>
      let (l, fl) := storeLine d (rmMode rm 0) m ((k.accum acc).row m)
      (r.1.putTile c cl l, r.2 ||| fl)) (s, 0)
  | .mxpose d x =>
    let n := if x.fmt = 2 then 4 else 2
    let src := (List.range 64).map fun m => s.tileBytes c cl (x.base + m * x.pitch) (64 * n)
    ((List.range 64).foldl (fun s j =>
      s.putTile c cl (atTile (d.base + j * d.pitch) (src.flatMap fun b => (b.drop (n * j)).take n))) s, 0)
  | .mewise acc o rm x v =>
    let ops : List FVal := match v with | some w => s.tileLine c cl w 0 0 64 | none => []
    let second (n : Nat) : Nat := match v with | some _ => toF32 (ops.getD n (.nan false)) | none => x.toNat
    let r : Vector (BitVec 32 × BitVec 5) 4096 := Vector.ofFn fun i : Fin 4096 =>
      let (y, fl) := ewElem o (rmMode rm 0) ((k.accum acc)[i]).toNat (second (i.val % 64))
      (BitVec.ofNat 32 y, fl)
    (s.setAccum c core acc (r.map (·.1)), r.foldl (fun fl y => fl ||| y.2) (flagIf (ops.any FVal.isNan) flNV))

/-! ## The sequencer (R250) -/

/-- Changes the command with a number. -/
def State.modTile (s : State) (c core n : Nat) (f : TileCmd → TileCmd) : State :=
  s.modCore c core fun k => { k with tile := k.tile.map fun t => if t.n = n then f t else t }

/-- Is a write of a command held by a range that an earlier command registered (R254)? -/
def State.destHeld (s : State) (c cl : Nat) (t : TileCmd) : Bool :=
  let lines (x : Swatch) : Bool := (List.range 64).any fun i =>
    let o := x.base + i * x.pitch
    s.rangeHolds c cl t.seq o (o + lineBytes x.fmt 64 - 1) ||
    ((swTb x.fmt).isSome && s.rangeHolds c cl t.seq (x.sbase + i * x.spitch) (x.sbase + i * x.spitch + 3))
  match t.op with
  | .mstore d .. => lines d
  | .mxpose d _ => lines d
  | _ => false

/-- The command of a core's queue whose next step can begin. -/
def State.tileReady (s : State) (c core : Nat) : Option TileCmd :=
  if s.halted c core then none
  else match headTile (s.coreAt c core).tile with
  | none => none
  | some t =>
    if t.leave && s.storesDone t.owner t.after true && decide (t.enter + 4 ≤ s.cycle) && !s.destHeld c (nodeOf core) t then some t else none

/-- Weight of a queue (R251). -/
def weight (mqw : BitVec 32) (q : Nat) : Nat := (mqw.extractLsb' (4 * q) 4).toNat

/-- The queue to serve and its credit (R250). -/
def State.chooseQueue (s : State) (c cl : Nat) : Option (Nat × Nat) :=
  let k := s.clHwAt cl
  let ready (q : Nat) : Bool := (s.tileReady c (8 * cl + q)).isSome
  let q := k.queue.toNat
  if ready q && decide (0 < k.credit) then some (q, k.credit)
  else
    let after := (List.range 8).map fun i => (q + 1 + i) % 8
    match after.find? fun i => ready i && decide (0 < weight k.mqw i) with
    | some i => some (i, weight k.mqw i)
    | none => (after.find? ready).map fun i => (i, 1)

/-- Tile-store bytes of a region that a domain may not access: the first one's offset (R258). -/
def State.refusedByte (s : State) (c core : Nat) (t : TileCmd) (need : Need) (r : Nat × Nat) : Option Nat :=
  let x := s.ctxAt c
  let k := s.clAt c (nodeOf core)
  (List.range (r.2 / 65536 + 1 - r.1 / 65536)).findSome? fun i =>
    let b := r.1 / 65536 + i
    let tag := (k.tags[b]?).getD 0
    if grants (x.right t.dom tag) need then none
    else
      let lo := max r.1 (65536 * b)
      let hi := min r.2 (65536 * b + 65535)
      (List.range (hi + 1 - lo)).findSome? fun j =>
        if x.allows t.dom t.windows (2 ^ 55 + 0x10000000 + lo + j) tag need then none else some (lo + j)

/-- The first byte of a command's regions that its domain may not access. -/
def State.refusedTile (s : State) (c core : Nat) (t : TileCmd) : Option Nat :=
  (t.op.reads.findSome? (s.refusedByte c core t .read)).or (t.op.writes.findSome? (s.refusedByte c core t .write))

/-- The write of an engine's command that a range held is performed, with the bytes of its cycle; a stopped one waits for the restore
(R254, R268). -/
def State.engFreed (s : State) (c core : Nat) (gth : Bool) : State :=
  match headCmd ((s.coreAt c core).engQ gth) with
  | some e =>
    if !e.held then s
    else
      let s := s.setCmd c core gth { e with held := false }
      if s.halted c core then s else s.engRun c core gth { e with held := false } 64
  | none => s

/-- Ranges have been released: held writes go on, also those of other clusters that the stash takes (R254, R267). -/
def State.rangesFreed (s : State) (c cl : Nat) : State :=
  let s := s.performHeld c cl
  ((s.coreCtx.filter fun k => k.1.1 == c).map (·.1.2)).foldl (fun s k =>
    (((s.engFreed c k false).engFreed c k true).engKick c k false).engKick c k true) s

/-- A command that has failed its check reaches its number once it is at the front of its queue. -/
def State.failedHead (s : State) (c core : Nat) : State :=
  match (s.coreAt c core).tile with
  | t :: _ => if !t.checked && decide (t.op.steps ≤ t.step) then s.now (.tileCommandComplete c core) else s
  | [] => s

/-- Starts the step that the sequencer chooses; a command whose rights are refused fails before its first step (R258). By fuel. -/
def startFuel : Nat → State → Nat → Nat → State
  | 0, s, _, _ => s
  | f + 1, s, c, cl =>
    match s.chooseQueue c cl with
    | none => s
    | some (q, credit) =>
      let core := 8 * cl + q
      match s.tileReady c core with
      | none => s
      | some t =>
        match if t.checked then none else s.refusedTile c core t with
        | some o =>
          let s := s.modTile c core t.n fun t => { t with step := t.op.steps, ranges := [] }
          let s := (s.failNo c core 0 t.n).engineFault c core (slotByte t.slot.toNat t.stream) t.dom t.aid 0 t.n 3
            (BitVec.ofNat 64 (2 ^ 55 + 0x10000000 + o))
          startFuel f ((s.rangesFreed c cl).failedHead c core) c cl
        | none =>
          let s := s.modTile c core t.n fun t => { t with checked := true }
          let s := s.modClHw cl fun k => { k with queue := BitVec.ofNat 3 q, credit := credit - 1, busy := s.cycle + t.next.2 }
          (s.after t.next.2 (.matrixStep c cl)).count c 0x000A

/-- The canonical NaN of every element of a destination (R256). -/
def State.nanDest (s : State) (c core : Nat) (op : TileOp) : State :=
  match op with
  | .mxpose d _ =>
    let n := if d.fmt = 2 then 4 else 2
    let nan := bytesLE n (ntypeFmt (swType d.fmt)).nanBits
    (List.range 64).foldl (fun s i => s.putTile c (nodeOf core) (atTile (d.base + i * d.pitch) ((List.range 64).flatMap fun _ => nan))) s
  | _ => match op.dest with
    | some a => s.setAccum c core a (Vector.replicate 4096 (BitVec.ofNat 32 fmtF32.nanBits))
    | none => s

/-- A queue is saved at a stop: its ranges are released, and its leave goes back (R253). -/
def State.saveQueue (s : State) (c core : Nat) : State :=
  let s := s.modCore c core fun k => { k with tile := k.tile.map fun t => { t with ranges := [], leave := t.leave && !t.op.needsLeave } }
  (s.giveLeave c core 0).rangesFreed c (nodeOf core)

/-- The step in progress ends (R249): its effect, and after the last one the release of the ranges. -/
def State.endStep (s : State) (c cl : Nat) : State :=
  let core := 8 * cl + (s.clHwAt cl).queue.toNat
  let s := s.modClHw cl fun k => { k with busy := 0 }
  match headTile (s.coreAt c core).tile with
  | none => s
  | some t =>
    let k1 := t.step + t.next.1
    let bad := t.bad || s.tilePoison c cl t.op t.step k1
    let (s, fl) := s.doStep c core t.op t.step k1
    let last := decide (t.op.steps ≤ k1)
    let s := s.modTile c core t.n fun t =>
      { t with step := k1, flags := t.flags ||| fl, bad, ranges := if last then [] else t.ranges }
    let s := if last && bad then s.nanDest c core t.op else s
    let s := if last then ((s.after 8 (.tileCommandComplete c core)).rangesFreed c cl).tileKick c core else s
    if (s.coreAt c core).stop.isSome then (s.saveQueue c core).now (.stopComplete c core) else s

/-- MATRIX_STEP (R249, R250): at a step boundary, the step in progress ends and the next one begins. -/
def execMatrixStep (c cl : Nat) (s : State) : Host.Outcome State Fault Refusal :=
  let b := (s.clHwAt cl).busy
  let s := if b ≠ 0 ∧ b ≤ s.cycle then s.endStep c cl else s
  .next (if (s.clHwAt cl).busy = 0 then startFuel 130 s c cl else s)

/-- TILE_COMMAND_COMPLETE (R249, R255, R256): the commands at the front of the queue with no step left reach their numbers. -/
def execTileCommandComplete (c core : Nat) (s : State) : Host.Outcome State Fault Refusal :=
  match (s.coreAt c core).tile with
  | [] => .next s
  | t :: _ =>
    if t.step < t.op.steps then .next s
    else
      let s := s.modCore c core fun k => { k with
        tile := k.tile.drop 1, mflg := k.mflg ||| (t.flags &&& ~~~flDZ), err := k.err || t.bad }
      let s := s.reach c core 0 t.n
      let s := if t.op.needsLeave then s.giveLeave c core 0 else s
      let s := if t.bad && !s.isSecond c core then
        s.sysNotice c core (sysAad core) (noticeBytes 0x0016 0 (core % 8) t.dom t.aid 0 0 (BitVec.ofNat 64 t.n)) else s
      let s := (s.tileKick c core).failedHead c core
      .next (if (s.coreAt c core).stop.isSome then s.now (.stopComplete c core) else s)

/-! ## Issue (R248, R258) -/

/-- A tile fault. -/
def tileFault (cause : Nat) (info : Word := 0) : Notice := { code := 0x0015, reason := cause, info }

/-- The swatch of a slot (cause 1). -/
def swatchM (i : BitVec 4) : M Swatch := do
  match ← asks fun s => ((s.coreAt s.cctx s.ccore).sw[i.toNat]?).getD none with
  | some x => pure x
  | none => parkM (tileFault 1)

/-- Regions within the tile store (cause 4): INFO is the first byte beyond it. -/
def regionsM (l : List (Nat × Nat)) : M Unit :=
  check (l.all fun r => decide (r.2 < tileSize)) (tileFault 4 (BitVec.ofNat 64 tileSize))

/-- A rounding mode as it stands at issue. -/
def concreteRm (rm : Rm) (rnd : BitVec 2) : Rm :=
  match rmMode rm rnd with
  | .rne => .rne | .rtz => .rtz | .rup => .rup | .rdn => .rdn

/-- A command enters its core's queue once there is room for it and its ranges (R248, R254). -/
def enterTile (op : TileOp) : M Unit := do
  let k ← asks fun s => s.coreAt s.cctx s.ccore
  if 16 ≤ k.tile.length ∨ 8 < (k.tile.map fun t => t.ranges.length).sum + op.reads.length then stop (.hold 6)
  let n ← fun s => .ok (s.assignNo s.cctx s.ccore 0)
  change fun s =>
    let t : TileCmd :=
      { n, op, slot := BitVec.ofNat 3 s.cur.sid.slot, stream := s.cur.stream, dom := s.cur.dom
        windows := s.act.openWindows s.cur.dom, aid := match s.cactor? with | some x => x.aid | none => 0
        owner := some s.cur.sid, after := s.act.nextStore, enter := s.cycle, leave := !op.needsLeave, step := 0
        ranges := op.reads, seq := (s.clAt s.cctx s.ccl).issued }
    let s := s.modCore s.cctx s.ccore fun k => { k with tile := k.tile ++ [t] }
    let s := s.modCl s.cctx s.ccl fun k => { k with issued := k.issued + 1 }
    let s := s.modAct fun x => { x with issued := true, cmds := x.cmds ++ [(0, n)] }
    (s.after 4 (.matrixStep s.cctx s.ccl)).tileKick s.cctx s.ccore

/-- K of a command: the whole of gb, whose bits 63:17 must be zero (R259). -/
def kM : KSrc → M Nat
  | .imm k => pure k.toNat
  | .reg b => do pure (← readG b).toNat

/-- Checks K (cause 3): a multiple of a unit from it to 65,536; INFO holds bits 16:0 (R258). -/
def checkK (k unit : Nat) : M Unit :=
  check (decide (unit ≤ k ∧ k ≤ 65536) && k % unit == 0) (tileFault 3 (BitVec.ofNat 64 (k % 2 ^ 17)))

/-- MMA (R259). -/
def execMma (h : Hdr) (acc : Bool) (k : KSrc) (swA swB : BitVec 4) (s : State) : Host.Outcome State Fault Refusal :=
  instr h s do
    let k ← kM k
    let a ← swatchM swA
    let b ← swatchM swB
    check (a.fmt == b.fmt && (a.fmt == 0 || a.fmt == 1 || (swTb a.fmt).isSome)) (tileFault 2)
    checkK k 32
    regionsM (TileOp.reads (.mma acc a b k))
    enterTile (.mma acc a b k)

/-- MMAS (R259). -/
def execMmas (h : Hdr) (acc : Bool) (k : KSrc) (swA swB : BitVec 4) (s : State) : Host.Outcome State Fault Refusal :=
  instr h s do
    let k ← kM k
    let a ← swatchM swA
    let b ← swatchM swB
    check (a.fmt == 6 && b.fmt == 3) (tileFault 2)
    checkK k 192
    regionsM (TileOp.reads (.mmas acc a b k))
    enterTile (.mmas acc a b k)

/-- MMASX (R259). -/
def execMmasx (h : Hdr) (acc : Bool) (k : GQ) (swA swB swM : BitVec 4) (s : State) : Host.Outcome State Fault Refusal :=
  instr h s do
    needPriv
    let k := (← readG k).toNat
    let a ← swatchM swA
    let b ← swatchM swB
    let m ← swatchM swM
    check (a.fmt == 3 && b.fmt == 3 && m.fmt == 7) (tileFault 2)
    checkK k 64
    regionsM (TileOp.reads (.mmasx acc a b m k))
    enterTile (.mmasx acc a b m k)

/-- MZERO (R260). -/
def execMzero (h : Hdr) (acc : Bool) (s : State) : Host.Outcome State Fault Refusal := instr h s (enterTile (.mzero acc))

/-- MLOAD (R260). -/
def execMload (h : Hdr) (acc : Bool) (sw : BitVec 4) (s : State) : Host.Outcome State Fault Refusal :=
  instr h s do
    let x ← swatchM sw
    check (x.fmt != 6 && x.fmt != 7) (tileFault 2)
    regionsM (x.regions 64)
    enterTile (.mload acc x)

/-- MSTORE (R260). -/
def execMstore (h : Hdr) (rm : Rm) (sw : BitVec 4) (acc : Bool) (s : State) : Host.Outcome State Fault Refusal :=
  instr h s do
    let x ← swatchM sw
    check (x.fmt != 6 && x.fmt != 7 && ((swTb x.fmt).isNone || rm == .dyn || rm == .rne)) (tileFault 2)
    regionsM (x.regions 64)
    let rnd ← asks fun s => s.act.rnd
    enterTile (.mstore x acc (concreteRm rm rnd))

/-- Do two regions overlap? -/
def overlap (a b : Nat × Nat) : Bool := decide (a.1 ≤ b.2) && decide (b.1 ≤ a.2)

/-- MXPOSE (R261). -/
def execMxpose (h : Hdr) (swD swS : BitVec 4) (s : State) : Host.Outcome State Fault Refusal :=
  instr h s do
    let d ← swatchM swD
    let x ← swatchM swS
    check (d.fmt == x.fmt && decide (x.fmt.toNat ≤ 2)) (tileFault 2)
    regionsM (d.regions 64 ++ x.regions 64)
    check (!(d.regions 64).any fun r => (x.regions 64).any fun q => overlap r q) (tileFault 5)
    enterTile (.mxpose d x)

/-- MEWISE with a scalar: its FP32 value at issue. -/
def ewScalar (h : Hdr) (acc : Bool) (op : Nat) (rm : Rm) (b : GQ) (s : State) : Host.Outcome State Fault Refusal :=
  instr h s do
    let x ← readG b
    let rnd ← asks fun s => s.act.rnd
    enterTile (.mewise acc op (concreteRm rm rnd) (x.setWidth 32) none)

/-- MEWISE with a vector: line 0 of a swatch. -/
def ewVector (h : Hdr) (acc : Bool) (op : Nat) (rm : Rm) (sw : BitVec 4) (s : State) : Host.Outcome State Fault Refusal :=
  instr h s do
    let v ← swatchM sw
    check (decide (v.fmt.toNat ≤ 2)) (tileFault 2)
    regionsM [v.line0]
    let rnd ← asks fun s => s.act.rnd
    enterTile (.mewise acc op (concreteRm rm rnd) 0 (some v))

/-- MEWISE (R262). -/
def execMewise (h : Hdr) (acc : Bool) (op : EwOp) (s : State) : Host.Outcome State Fault Refusal :=
  match op with
  | .mul rm b => ewScalar h acc 0 rm b s
  | .add rm b => ewScalar h acc 1 rm b s
  | .max b => ewScalar h acc 2 .rne b s
  | .min b => ewScalar h acc 3 .rne b s
  | .mulv rm sw => ewVector h acc 4 rm sw s
  | .addv rm sw => ewVector h acc 5 rm sw s

/-! ## MCFG (R263) -/

/-- MCFG.sw (R245, R263). -/
def execMcfgSw (h : Hdr) (sw : BitVec 4) (b c : GQ) (s : State) : Host.Outcome State Fault Refusal :=
  instr h s do
    let w0 ← readG b
    let w1 ← readG c
    match swatchOf w0 w1 with
    | none => parkM (tileFault 7)
    | some x => change fun s => s.modCore s.cctx s.ccore fun k => { k with sw := vmod k.sw sw.toNat fun _ => some x }

/-- Queue status (R263). -/
def CoreCtx.status (k : CoreCtx) : Word :=
  let lv := match headTile k.tile with | some t => !t.leave | none => false
  BitVec.ofNat 64 (k.mflg.toNat + (if k.err then 32 else 0) + k.tile.length <<< 8 + (k.tile.map fun t => t.ranges.length).sum <<< 16 +
    (if lv then 1 else 0) <<< 20)

/-- MCFG.st (R263). -/
def execMcfgSt (h : Hdr) (clr : Bool) (a : GQ) (s : State) : Host.Outcome State Fault Refusal :=
  instr h s do
    writeG a (← asks fun s => (s.coreAt s.cctx s.ccore).status)
    if clr then change fun s => s.modCore s.cctx s.ccore fun k => { k with mflg := 0, err := false }

end Sys2Proof.Machine
end

