-- ==== Sys2Proof/Machine/Mesh.lean ====
section
/-! DEFINITION. The mesh (R287-R293), stops on their way (R213, R232), the cluster cache's evictions (R265), the supply rails
of the home slices (R299) and sparing (R298): the rows PACKET_ROUTE, CACHE_EVICTION, RAIL_LOW, RAIL_HIGH and
PSEUDO_CHANNEL_SPARING. -/

namespace Sys2Proof.Machine

/-! ## A core that runs again -/

/-- Control nodes whose evaluation or expansion has waited for the context to run (R324). -/
def State.graphWake (s : State) (c : Nat) : State :=
  if s.graphStopped c then s
  else
    let s := (s.ctxAt c).nodes.foldl (fun s n => match n.st with
      | .evaluating none => s.now (.controlEvaluation c n.id)
      | _ => s) s
    s.graphExpand c

/-- A core admits activations of a context again: ranges are registered again, bobbins drain, and the units go on (R213, R232,
R253). -/
def State.resumeCore (s : State) (c core : Nat) : State :=
  let s := s.modCore c core fun k => { k with
    stop := none, stopped := false
    tile := k.tile.map fun t => if t.step < t.op.steps then { t with ranges := t.op.reads } else t }
  let s := ((s.engKick c core false).engKick c core true).tileKick c core
  let s := (List.range 4).foldl (fun s t => s.wakeWaitc c core t) s
  ((s.drainCore c core).closeBobbins c core).now (.activationStart c core)

/-! ## Packets (R287-R293) -/

/-- A packet dropped by a router: notice 0x0019 to SUPV, or to Pelson, which records it (R293). -/
def State.routeDrop (s : State) (c cl : Nat) (m : Msg) : State :=
  let s := s.msgTaken c m
  let pay := noticeBytes 0x0019 0 0 0 0 0 (BitVec.ofNat 96 (ofBytesLE ((msgBytes m).take 12))) (BitVec.ofNat 64 cl)
  if (s.ctxAt c).supv = 0 then s.tellPelson c (8 * cl) (noticeMsg 0 (sysAad (8 * cl)) pay) .record
  else s.inject c (8 * cl) (noticeMsg (s.ctxAt c).supv (sysAad (8 * cl)) pay)

/-- A packet moves one hop towards a cluster inside an interval, in 2 cycles (R290, R291). -/
def State.hop (s : State) (c cur goal dst svb svl : Nat) (p : Packet) : State :=
  let n := nextHop cur goal svb svl
  if n = cur then s else s.after 2 (.packetRoute c n dst p)

/-- PACKET_ROUTE (R290, R291, R293): a message is checked where it enters the mesh, and keeps to the interval that its partition
then has (DEDUCED, notes/assumptions/55.md); each hop takes 2 cycles, ejection 3, and the bridge to the I/O die 24 more (R334). -/
def execPacketRoute (c cur dst : Nat) (p : Packet) (s : State) : Host.Outcome State Fault Refusal :=
  let x := s.ctxAt c
  let goal := meshNode dst x.svb
  match p with
  | .message m none =>
    if !x.mayReach dst then .next (s.routeDrop c cur m)
    else if cur = goal then .next (s.after (3 + bridge dst) (.messageArrival c m))
    else .next (s.hop c cur goal dst x.svb x.svl (.message m (some (x.svb, x.svl))))
  | .message m (some (svb, svl)) =>
    if cur = meshNode dst svb then .next (s.after (3 + bridge dst) (.messageArrival c m))
    else .next (s.hop c cur (meshNode dst svb) dst svb svl p)
  | .stop issuer =>
    if cur = goal then .next ((List.range 8).foldl (fun s i => s.after 3 (.stop c (8 * cur + i) issuer)) s)
    else .next (s.hop c cur goal dst x.svb x.svl p)
  | .go true => .next (((List.range 8).foldl (fun s i => s.resumeCore c (8 * cur + i)) s).graphWake c)
  | .go false =>
    if cur = goal then .next (s.after 3 (.packetRoute c cur dst (.go true)))
    else .next (s.hop c cur goal dst x.svb x.svl p)

/-! ## Caches, rails and sparing -/

/-- CACHE_EVICTION (R264, R265). -/
def execCacheEviction (cluster line : Nat) (s : State) : Host.Outcome State Fault Refusal := .next (s.evict cluster line)

/-- RAIL_LOW (R299): ways 7 and 15 go out of service, written back and invalidated; stash bits stay (R297). -/
def execRailLow (cluster : Nat) (s : State) : Host.Outcome State Fault Refusal :=
  let out := (s.clHwAt cluster).slice.filter fun x => x.way == 7 || x.way == 15
  .next ((out.foldl (fun s x => s.dropSlice cluster x) s).modClHw cluster fun k => { k with dected := true })

/-- RAIL_HIGH (R299): the ways return to service, empty. -/
def execRailHigh (cluster : Nat) (s : State) : Host.Outcome State Fault Refusal :=
  .next (s.modClHw cluster fun k => { k with dected := false })

/-- PSEUDO_CHANNEL_SPARING (R298): no value that a program can read changes. -/
def execPseudoChannelSparing (stack chan : Nat) (spare : BitVec 2) (s : State) : Host.Outcome State Fault Refusal :=
  .next { s with spares := (stack, chan, spare) :: s.spares.filter fun x => x.1 ≠ stack ∨ x.2.1 ≠ chan }

end Sys2Proof.Machine
end

