-- ==== Sys2Proof/Machine/System.lean ====
section
/-! DEFINITION. System instructions: special registers (R21-R24, R155), TRAP and BRK (R156), WINMAP and RESUME (R157-R159),
KILL (R231), CSTOP (R232), TLBINV (R233), LOGMARK (R224). -/

namespace Sys2Proof.Machine

/-! ## Special registers -/

/-- Number of a special register (R21). -/
def sregNo : SReg → Nat
  | .wsp => 0 | .aid => 1 | .aad => 2 | .dom => 3 | .flg => 4 | .fen => 5 | .rnd => 6 | .cyc => 7 | .reft => 8 | .hused => 9
  | .svb => 16 | .svl => 17 | .mlen => 18 | .hbud => 19 | .logp => 20 | .sfqh => 21 | .mqw => 22 | .supv => 23
  | .sid => 32

/-- Is a register marked RWP (R21)? -/
def sregPriv : SReg → Bool
  | .mlen | .hbud | .logp | .sfqh | .mqw | .supv => true
  | _ => false

/-- The privilege check of SRD and SWR: the register's number in INFO (R22). -/
def needSreg (r : SReg) : M Unit := do
  let ok ← asks State.isPriv
  check (!sregPriv r || ok) { code := 0x0003, info := BitVec.ofNat 64 (sregNo r) }

/-- The value of a special register for the present instruction. -/
def State.sreg (s : State) : SReg → Word
  | .wsp => BitVec.ofNat 64 (2 ^ 55 + 4096 * s.cur.sid.slot)
  | .aid => match s.cactor? with | some a => a.aid.setWidth 64 | none => 0
  | .aad => (aadOf s.idCore s.act.mbx).setWidth 64
  | .dom => s.cur.dom.setWidth 64
  | .flg => s.act.flg.setWidth 64
  | .fen => s.act.fen.setWidth 64
  | .rnd => s.act.rnd.setWidth 64
  | .cyc => BitVec.ofNat 64 s.cycle
  | .reft => BitVec.ofNat 64 s.refTicks
  | .hused => BitVec.ofNat 64 (s.act.hused % 2 ^ 32)
  | .svb => BitVec.ofNat 64 (s.ctxAt s.cctx).svb
  | .svl => BitVec.ofNat 64 (s.ctxAt s.cctx).svl
  | .mlen => (s.ctxAt s.cctx).mlen.setWidth 64
  | .hbud => (s.ctxAt s.cctx).hbud.setWidth 64
  | .logp => (s.hwAt s.ccore).logp
  | .sfqh => (s.ctxAt s.cctx).sfqh
  | .mqw => (s.clHwAt s.ccl).mqw.setWidth 64
  | .supv => (s.ctxAt s.cctx).supv.setWidth 64
  | .sid => s.sid.setWidth 64

/-- SRD (R155). -/
def execSrd (h : Hdr) (a : GQ) (r : SReg) (s : State) : Host.Outcome State Fault Refusal :=
  instr h s do
    needSreg r
    writeG a (← asks fun s => s.sreg r)

/-- SWR of FLG, FEN and RND; of a register marked RO, no effect (R22, R155). -/
def execSwr (h : Hdr) (r : SReg) (b : Src2) (s : State) : Host.Outcome State Fault Refusal :=
  instr h s do
    needSreg r
    let v ← readSrc2 b
    match r with
    | .flg => changeAct fun a => { a with flg := v.setWidth 5 }
    | .fen => changeAct fun a => { a with fen := v.setWidth 5 }
    | .rnd => changeAct fun a => { a with rnd := v.setWidth 2 }
    | _ => pure ()

/-- An SWR of a privileged register: check, operand, effect. -/
def swrPriv (h : Hdr) (r : SReg) (b : Src2) (f : Word → State → State) (s : State) : Host.Outcome State Fault Refusal :=
  instr h s do
    needSreg r
    let v ← readSrc2 b
    change (f v)

/-- SWR SUPV (R167): a value with V = 0 makes it 0. -/
def execSwrSupv (h : Hdr) (b : Src2) (s : State) : Host.Outcome State Fault Refusal :=
  swrPriv h .supv b (fun v s => s.modCtx s.cctx fun x => { x with supv := if v.getLsbD 31 then v.setWidth 32 else 0 }) s

/-- SWR SFQH (R218). -/
def execSwrSfqh (h : Hdr) (b : Src2) (s : State) : Host.Outcome State Fault Refusal :=
  swrPriv h .sfqh b (fun v s =>
    if v.extractLsb' 55 9 = 0 ∧ v.extractLsb' 0 5 = 0 then s.modCtx s.cctx fun x => { x with sfqh := v, sfqhDom := s.cur.dom } else s) s

/-- SWR HBUD (R210). -/
def execSwrHbud (h : Hdr) (b : Src2) (s : State) : Host.Outcome State Fault Refusal :=
  swrPriv h .hbud b (fun v s => s.modCtx s.cctx fun x =>
    { x with hbud := BitVec.ofNat 19 (max 1024 (min 262144 (v.toNat % 2 ^ 19))) }) s

/-- SWR MLEN (R167). -/
def execSwrMlen (h : Hdr) (b : Src2) (s : State) : Host.Outcome State Fault Refusal :=
  swrPriv h .mlen b (fun v s =>
    let n := v.toNat % 8
    if 1 ≤ n ∧ n ≤ 4 then s.modCtx s.cctx fun x => { x with mlen := BitVec.ofNat 3 n } else s) s

/-- SWR MQW (R251): the cluster's one register. -/
def execSwrMqw (h : Hdr) (b : Src2) (s : State) : Host.Outcome State Fault Refusal :=
  swrPriv h .mqw b (fun v s => s.modClHw s.ccl fun k => { k with mqw := v.setWidth 32 }) s

/-- SWR LOGP (R223): SIZE above 8 leaves it; its must-be-zero fields keep zero. The ring then drains. -/
def execSwrLogp (h : Hdr) (b : Src2) (s : State) : Host.Outcome State Fault Refusal :=
  swrPriv h .logp b (fun v s =>
    if 8 < v.toNat % 16 then s
    else (s.modHw s.ccore fun k => { k with logp := v &&& 0x00FFFFFFFFFFF00F }).drain s.ccore) s

/-! ## TRAP and BRK (R156) -/

/-- Completes, and then parks with a code. -/
def trapWith (h : Hdr) (code : Nat) (info : BitVec 16) (toDebug : Bool) (s : State) : Host.Outcome State Fault Refusal :=
  guarded h s (.next ((s.retire h).parkAt s.pc { code, info := info.setWidth 64, toDebug }))

/-- TRAP (R156). -/
def execTrap (h : Hdr) (code : BitVec 16) (s : State) : Host.Outcome State Fault Refusal := trapWith h 0x000A code false s

/-- BRK (R156, R227). -/
def execBrk (h : Hdr) (code : BitVec 16) (s : State) : Host.Outcome State Fault Refusal := trapWith h 0x000B code true s

/-! ## Parked activations (R157-R159) -/

/-- Parks unless the issuer is privileged, or its actor owns the mailbox named by SUPV (R157, R231). -/
def needAuthority : M Unit := do
  check (← asks fun s => s.isPriv || s.ownsSupv s.cctx s.idCore s.act.actor) privFault

/-- An AAD in a register, under causes 1 and 2 of R181. -/
def targetAad (w : Word) : M (BitVec 32) := do
  let d ← needAad w
  check (← asks fun s => (s.ctxAt s.cctx).mayReach (nodeOf (aadCore d))) (sendFault 2 w)
  pure d

/-- The slot of a parked activation of the actor that an AAD names. -/
def State.parkedAt (s : State) (d : BitVec 32) (slot : Nat) : Option SlotId :=
  let t : SlotId := { ctx := s.cctx, core := aadCore d, slot }
  match s.actAt t with
  | some a => if a.park && a.actor == aadActor d then some t else none
  | none => none

/-- Under lockstitch the primary finds a value and its secondary takes it, in issue order (R350). -/
def seamOnce (body : M Word) : M Word := do
  let bs ← seamPass do
    let w ← body
    pure (bytesLE 8 w.toNat)
  pure (BitVec.ofNat 64 (ofBytesLE bs))

/-- Operands of WINMAP and RESUME: AAD and slot. -/
def targetM (b c : GQ) : M (BitVec 32 × Nat) := do
  needAuthority
  let w ← readG b
  let x ← readG c
  let d ← targetAad w
  pure (d, x.toNat % 8)

/-- WINMAP (R157). -/
def execWinmap (h : Hdr) (a b c : GQ) (s : State) : Host.Outcome State Fault Refusal :=
  instr h s do
    let (d, slot) ← targetM b c
    let v ← seamOnce do
      match ← asks fun s => s.parkedAt d slot with
      | some _ => pure 0x0080000020000000
      | none => pure 0
    change fun s =>
      let t : SlotId := { ctx := s.cctx, core := aadCore d, slot }
      let t := if s.isCopy then (s.copyOf t).getD t else t
      s.modAct fun x => { x with win := if v = 0 then none else some t }
    writeG a v

/-- A parked activation continues: its streams from PC and APC, none of them matched again at once (R159, R226); windows
onto it close. -/
def State.resumeOne (s : State) (t : SlotId) : State :=
  let go (x : StreamSt) : StreamSt :=
    { x with skipBp := true, fetched := none, refused := none, wait := match x.wait with | .ending | .draining _ => .ready | w => w }
  let s := s.modActAt t fun a => { a with park := false, main := go a.main, acc := go a.acc }
  let shut (x : Act) : Act := if x.win = some t then { x with win := none } else x
  { s with
    acts := s.acts.map fun (x : SlotId × Act) => (x.1, shut x.2)
    seams := s.seams.map fun x => if x.primary = t then { x with values := x.values.filter (·.2 != []) } else x }

/-- RESUME (R159); under lockstitch both copies continue. -/
def execResume (h : Hdr) (a b c : GQ) (s : State) : Host.Outcome State Fault Refusal :=
  instr h s do
    let (d, slot) ← targetM b c
    let v ← seamOnce do
      match ← asks fun s => s.parkedAt d slot with
      | some t =>
        change fun s => match s.copyOf t with
          | some u => (s.resumeOne t).resumeOne u
          | none => s.resumeOne t
        pure 1
      | none => pure 0
    writeG a v

/-! ## KILL (R231) -/

/-- Kills activations; their messages are discarded, and the graph nodes they serve fail (R177, R322). -/
def State.killAll (s : State) : List SlotId → State
  | [] => s
  | t :: l =>
    match s.actAt t with
    | none => State.killAll s l
    | some a => State.killAll ((s.killBoth t).failOf t.ctx a 2) l

/-- Ends an actor at once, on both cores of a pair; or marks it to end with the issuer. -/
def State.endOrMark (s : State) (core no : Nat) : State :=
  if core = s.idCore ∧ no = s.act.actor then
    match s.actorAt s.cctx core no with
    | some x => { s with actors := s.actors.put (s.cctx, core, no) { x with dying := true } }
    | none => s
  else
    let s1 := s.endActor s.cctx core no
    match s.mate s.cctx core with
    | some k => { s1 with actors := s1.actors.del (s.cctx, k, no) }
    | none => s1

/-- Ends actors and every activation of theirs but the issuer: the counts of killed and ended (R231). -/
def State.killActors (s : State) (l : List (Nat × Nat)) : Word × State :=
  let targets := (s.acts.filter fun x => x.1.ctx == s.cctx && x.1 != s.cur.sid && l.contains (x.1.core, x.2.actor)).map (·.1)
  let s := s.killAll targets
  let s := l.foldl (fun s x => s.endOrMark x.1 x.2) s
  (BitVec.ofNat 64 (targets.length + l.length * 2 ^ 32), s)

/-- Resident actors of the context, on primary cores, that a test admits. -/
def State.actorsWith (s : State) (f : Nat × Nat → Actor → Bool) : List (Nat × Nat) :=
  let x := s.ctxAt s.cctx
  (s.actors.filter fun a => a.1.1 == s.cctx && f a.1.2 a.2 &&
    !(x.lockstitch && decide (x.svb + x.svl / 2 ≤ nodeOf a.1.2.1) && decide (nodeOf a.1.2.1 < 512))).map fun a => a.1.2

/-- A computation of a value that changes the state. -/
def changeGet {α : Type} (f : State → α × State) : M α := fun s => .ok (f s)

/-- KILL.act (R231). -/
def execKillAct (h : Hdr) (a b c : GQ) (s : State) : Host.Outcome State Fault Refusal :=
  instr h s do
    let (d, slot) ← targetM b c
    roomG a
    let v ← seamOnce (changeGet fun s =>
      let t : SlotId := { ctx := s.cctx, core := aadCore d, slot }
      match s.actAt t with
      | some x => if x.actor = aadActor d ∧ t ≠ s.cur.sid then (1, s.killAll [t]) else (0, s)
      | none => (0, s))
    writeG a v

/-- KILL.actor (R231). -/
def execKillActor (h : Hdr) (a b : GQ) (s : State) : Host.Outcome State Fault Refusal :=
  instr h s do
    needAuthority
    let d ← targetAad (← readG b)
    roomG a
    let v ← seamOnce (changeGet fun s => s.killActors (s.actorsWith fun k _ => k == (aadCore d, aadActor d)))
    writeG a v

/-- KILL.grp (R231). -/
def execKillGrp (h : Hdr) (a b : GQ) (s : State) : Host.Outcome State Fault Refusal :=
  instr h s do
    needAuthority
    let g ← readG b
    roomG a
    let v ← seamOnce (changeGet fun s => s.killActors (s.actorsWith fun _ x => x.group.setWidth 64 == g))
    writeG a v

/-! ## CSTOP (R232) -/

/-- Sends a packet from a node to every cluster of an interval. -/
def State.toClusters (s : State) (c src first n : Nat) (p : Packet) : State :=
  (List.range n).foldl (fun s i => s.after (4 + bridge src) (.packetRoute c (meshNode src (s.ctxAt c).svb) (first + i) p)) s

/-- An interval of clusters that lies in the partition; an empty one is none. -/
def intervalM (b c : GQ) : M (Option (Nat × Nat)) := do
  needPriv
  let first ← readG b
  let n ← readG c
  if n = 0 then pure none
  else
    let x ← asks fun s => s.ctxAt s.cctx
    check (decide (x.svb ≤ first.toNat) && decide (first.toNat + n.toNat ≤ x.svb + x.svl))
      { code := 0x000C, reason := 2, info := n.setWidth 32 ++ first.setWidth 32 }
    pure (some (first.toNat, n.toNat))

/-- CSTOP and CSTOP.go: the stream goes on when every core has acknowledged the packet. -/
def cstopWith (h : Hdr) (b c : GQ) (p : BitVec 32 → Packet) (s : State) : Host.Outcome State Fault Refusal :=
  guarded h s <| runM s
    (do
      match ← intervalM b c with
      | none => pure 0
      | some (first, n) =>
        changeNi fun s => s.toClusters s.cctx s.ccl first n (p s.returnAad)
        asks fun s => ((List.range n).map fun i => 2 * (s.ctxAt s.cctx).meshDelay s.ccl (first + i)).foldl max 0)
    fun d t => ((t.retire h).delayNext s.cur.stream s.cycle d).modAct fun a =>
      a.setStr s.cur.stream { a.str s.cur.stream with acks := true }

/-- CSTOP (R232). -/
def execCstop (h : Hdr) (b c : GQ) (s : State) : Host.Outcome State Fault Refusal := cstopWith h b c (fun aad => .stop aad) s

/-- CSTOP.go (R232). -/
def execCstopGo (h : Hdr) (b c : GQ) (s : State) : Host.Outcome State Fault Refusal := cstopWith h b c (fun _ => .go false) s

/-! ## TLBINV (R233) -/

/-- Does an entry fall under TLBINV: of the context, and for the page of an address, or any? -/
def tlbHit (c : Nat) (va : Option Nat) (e : TlbEntry) : Bool :=
  match va with | none => e.ctx == c | some a => e.maps c a

/-- Drops entries from the TLB of a core. -/
def State.dropCoreTlb (s : State) (c core : Nat) (va : Option Nat) : State :=
  s.modHw core fun k => { k with tlb := k.tlb.filter fun e => !tlbHit c va e }

/-- Drops entries from the TLB of a cluster. -/
def State.dropClusterTlb (s : State) (c cl : Nat) (va : Option Nat) : State :=
  s.modClHw cl fun k => { k with tlb := k.tlb.filter fun e => !tlbHit c va e }

/-- Drops entries from the TLBs of a cluster and of its cores. -/
def State.dropTlbs (s : State) (c cl : Nat) (va : Option Nat) : State :=
  (List.range 8).foldl (fun s i => s.dropCoreTlb c (8 * cl + i) va) (s.dropClusterTlb c cl va)

/-- Clusters that a scope reaches, of those that hold any translation. -/
def State.tlbClusters (s : State) (sc : Scope) : List Nat :=
  let x := s.ctxAt s.cctx
  let all := ((s.clHw.map (·.1)) ++ s.coreHw.map fun k => nodeOf k.1).eraseDups.filter x.holdsCluster
  match sc with
  | .die => all.filter fun i => i / 256 == s.ccl / 256
  | .pkg => all
  | _ => [s.ccl]

/-- Does a walk lead to the page of an address: its granule is one of that page's, as the tables have it (R306)? -/
def State.walksPage (s : State) (a : Nat) (w : Walk) : Bool :=
  match (s.walkTable w.ctx a).1 with
  | .leaf e => e.maps w.ctx (w.granule * 65536)
  | .bad .. => w.granule == a / 65536

/-- Is a store under check checked under an entry that a TLBINV drops (R233)? One that waits for a translation is not. -/
def State.checkedUnder (s : State) (c : Nat) (va : Option Nat) (t : SlotId) (p : PStore) : Bool :=
  !p.held && p.waits.isNone && (p.addr.toNat :: p.bytes.map (·.1)).any fun x => decide (x < 2 ^ 55) &&
    match s.xlat t.ctx t.core x with
    | some e => tlbHit c va e
    | none => p.found.isSome

/-- Is such a store under check anywhere in the context's partition? -/
def State.checksLeft (s : State) (va : Option Nat) : Bool :=
  s.acts.any fun x => x.1.ctx == s.cctx && x.2.checks.any fun p => s.checkedUnder s.cctx va x.1 p

/-- Drops translations within a scope, after the walks in progress for them, and at .pkg after the checks of the stores already checked
under them (R233, R312). -/
def tlbinvM (sc : Scope) (va : Option Nat) : M Unit := do
  let cls ← asks fun s => s.tlbClusters sc
  let walking ← asks fun s => cls.any fun cl => (s.clHwAt cl).walks.any fun w =>
    w.ctx == s.cctx && w.seq.isNone && (match va with | none => true | some a => s.walksPage a w)
  if walking then stop (.hold 3)
  if sc = .pkg && (← asks fun s => s.checksLeft va) then stop (.hold 3)
  change fun s =>
    match sc with
    | .core => (s.dropCoreTlb s.cctx s.ccore va).dropClusterTlb s.cctx s.ccl va
    | _ => cls.foldl (fun s cl => s.dropTlbs s.cctx cl va) s

/-- TLBINV.page (R233). -/
def execTlbinvPage (h : Hdr) (sc : Scope) (b : GQ) (s : State) : Host.Outcome State Fault Refusal :=
  instr h s do
    needPriv
    let a ← readG b
    if a.getLsbD 55 then pure () else tlbinvM sc (some a.toNat)

/-- TLBINV.all (R233). -/
def execTlbinvAll (h : Hdr) (sc : Scope) (s : State) : Host.Outcome State Fault Refusal :=
  instr h s do
    needPriv
    tlbinvM sc none

/-! ## LOGMARK (R224) -/

/-- LOGMARK: a mark with the logged state; with .f the ring is drained at once. -/
def execLogmark (h : Hdr) (f : Bool) (v : MarkSrc) (s : State) : Host.Outcome State Fault Refusal :=
  instr h s do
    let x : Nat ← match v with
      | .imm n => pure n.toNat
      | .reg b => do pure ((← readG b).toNat % 2 ^ 24)
    change fun s =>
      let s := s.pushRecord s.ccore (logRecord (s.hwAt s.ccore).span.1 62 x)
      if f then s.drainAll s.ccore else s

end Sys2Proof.Machine
end

