-- ==== Sys2Proof/Machine/Contexts.lean ====
section
/-! DEFINITION. Budget kills (R212), stops and their end (R213-R215), time slices and the restore of a context (R192, R230,
R338), breakpoints (R225), the activity log's spans (R221, R222) and counters (R228-R230, R342): the rows BUDGET_KILL, STOP,
STOP_COMPLETE, CONTEXT_RESTORE, TIME_SLICE_EXPIRY, BREAKPOINT_UPDATE, SPAN_END, SPAN_EXTENSION and COUNTER_WINDOW_READ. -/

namespace Sys2Proof.Machine

/-! ## The budget (R212) -/

/-- BUDGET_KILL (R212): the message is discarded; notice 0x0013, and a node of the activation fails (R322). -/
def execBudgetKill (t : SlotId) (s : State) : Host.Outcome State Fault Refusal :=
  let t := match s.seams.find? (fun x => x.secondary == t) with | some x => x.primary | none => t
  match s.acts.look t with
  | none => .next s
  | some a =>
    let aid := match s.actorAt t.ctx t.core a.actor with | some x => x.aid | none => 0
    let pay := noticeBytes 0x0013 0 (slotByte t.slot .main) a.main.fromDom aid a.main.pc
      (BitVec.ofNat 96 (ofBytesLE ((msgBytes a.msg.m).take 12))) (BitVec.ofNat 64 a.budget)
    let own := s.ownsSupv t.ctx t.core a.actor
    let s := (s.killBoth t).failOf t.ctx a 2
    .next (if own then s.tellPelson t.ctx t.core (noticeMsg 0 (aadOf t.core a.mbx) pay) .terminate
      else s.sysNotice t.ctx t.core (aadOf t.core a.mbx) pay)

/-! ## Counters (R228) -/

/-- Folds the counts of a counter into its descriptor entry; OVF is set on a wrap. -/
def Counter.fold (k : Counter) : Counter :=
  let n := k.count.toNat + k.pending
  { k with count := BitVec.ofNat 64 n, pending := 0, ovf := k.ovf || decide (2 ^ 64 ≤ n) }

/-- Folds every counter of a context (R228). -/
def State.foldCounters (s : State) (c : Nat) : State := s.modCtx c fun x => { x with counters := x.counters.map Counter.fold }

/-- COUNTER_WINDOW_READ (R342): the counts are folded before the read. -/
def execCounterWindowRead (c : Nat) (i : BitVec 4) (s : State) : Host.Outcome State Fault Refusal :=
  .next (s.modCtx c fun x => { x with counters := vmod x.counters i.toNat Counter.fold })

/-- Is an event implemented on this stepping (R229)? 0 is off. -/
def eventKnown (e : BitVec 16) : Bool := decide (e.toNat ≤ 11) || e == 0x0080 || e == 0x0081

/-! ## Stops (R213) -/

/-- Is a chunk of one of a core's engine queues in progress? -/
def State.chunkOf (s : State) (c core : Nat) (gth : Bool) : Bool := s.agenda.any fun e => e.2 == Instr.engineChunk c core gth

/-- Is a chunk of either in progress? -/
def State.chunkOn (s : State) (c core : Nat) : Bool := s.chunkOf c core false || s.chunkOf c core true

/-- Is a step of a core's matrix queue in progress? -/
def State.stepOn (s : State) (c core : Nat) : Bool :=
  let k := s.clHwAt (nodeOf core)
  k.busy ≠ 0 && k.queue.toNat == core % 8 && s.agenda.any fun e => match e.2 with
    | .matrixStep d cl => d == c && cl == nodeOf core
    | _ => false

/-- A stop reaches a core while a chunk of a CKPT of its CLM moves: the chunk ends at the next block boundary (R213). -/
def State.cutCkpt (s : State) (c core : Nat) : State :=
  let chunk := Instr.engineChunk c core false
  match headCmd (s.coreAt c core).copyQ, s.agenda.find? fun e => e.2 == chunk with
  | some e, some (due, _) =>
    (match e.ckpt with
      | some (false, _) =>
        if e.cut.isSome then s else
        let n := min 4096 (e.total - e.pos)
        let from_ := due - max 1 ((n + 63) / 64)
        let done := min n (64 * (s.cycle - from_))
        let b := (e.pos + done + 255) / 256 * 256 - e.pos
        ({ s.setCmd c core false { e with cut := some (e.pos + b) } with agenda := s.agenda.filter fun e => e.2 != chunk } : State).after
          (from_ + (b + 63) / 64 - s.cycle) chunk
      | _ => s)
  | _, _ => s

/-- Has a core on which a stop has arrived nothing left to do (R213, R214)? -/
def State.stopDue (s : State) (c core : Nat) : Bool :=
  let k := s.coreAt c core
  k.stop.isSome && !k.stopped && !s.chunkOn c core && !s.stepOn c core &&
  s.acts.all fun x => x.1.ctx != c || x.1.core != core || x.2.park || s.faultWaiting x.1 x.2

/-- STOP (R213): a stop reaches a core. Commands of the engines are saved at once, but for one whose chunk is in progress. Of two stops
that reach a core before the first is complete, the core keeps the later one's issuer and cycle (DESIGN CHOICE,
notes/assumptions/81.md). -/
def execStop (c core : Nat) (issuer : BitVec 32) (s : State) : Host.Outcome State Fault Refusal :=
  let s := s.modCore c core fun k => { k with stop := some (issuer, s.cycle), stopped := false }
  let s := if s.chunkOf c core false then s.cutCkpt c core else (s.endCkpts c core).saveEngine c core false
  let s := if s.chunkOf c core true then s else s.saveEngine c core true
  let s := if s.stepOn c core then s else s.saveQueue c core
  .next (s.now (.stopComplete c core))

/-- STOP_COMPLETE (R213, R223, R228, R266): the core has stopped; notice 0x0014 to the stop's issuer. -/
def execStopComplete (c core : Nat) (s : State) : Host.Outcome State Fault Refusal :=
  match s.stopDue c core, (s.coreAt c core).stop with
  | true, some (issuer, t0) =>
    let s := (s.saveQueue c core).foldCounters c
    let s := (s.stashFlush c (nodeOf core)).drainAll core
    let s := s.modCore c core fun k => { k with stopped := true }
    let note := noticeMsg issuer (sysAad core)
      (noticeBytes 0x0014 0 0 0 0 ((aadOf core 0).setWidth 64) 0 (BitVec.ofNat 64 (s.cycle - t0)))
    .next (if issuer = 0 then s.tellPelson c core note .stopped else s.inject c core note)
  | _, _ => .next s

/-! ## Time slices and restores (R338) -/

/-- TIME_SLICE_EXPIRY (R338): Pelson stops the context on every core of its partition. -/
def execTimeSliceExpiry (c : Nat) (s : State) : Host.Outcome State Fault Refusal :=
  let x := s.ctxAt c
  .next (if x.running then s.toClusters c 528 x.svb x.svl (.stop 0) else s)

/-- Cores on which a context has anything. -/
def State.coresOf (s : State) (c : Nat) : List Nat :=
  (((s.coreCtx.filter fun k => k.1.1 == c).map (·.1.2)) ++ ((s.actors.filter fun k => k.1.1 == c).map (·.1.2.1)) ++
    ((s.mbxs.filter fun k => k.1.1 == c).map (·.1.2.1)) ++ ((s.acts.filter fun k => k.1.ctx == c).map (·.1.core))).eraseDups

/-- A counter at the start of its context (R230): UNAV where its event is not implemented. -/
def Counter.start (k : Counter) : Counter := { k with unav := !eventKnown k.event }

/-- A context starts on the cores of its partition: rights are loaded (R192), counters checked (R230), parked and waiting
activations go on as they were saved (R214), the notices of a resize are sent (R330), and what came for the fault queue
meanwhile takes effect (R312). -/
def State.startContext (s : State) (c : Nat) : State :=
  let x := s.ctxAt c
  let s := s.modCtx c fun x => { x with
    running := true, used := 0, live := x.rights, counters := x.counters.map Counter.start, fqHeld := [], moved := [] }
  let s := (s.coresOf c).foldl (fun s k => s.resumeCore c k) s
  let s := x.fqHeld.foldl (fun s f => s.now (if f.2 then .faultCompletion c f.1 else .faultRefusal c f.1)) s
  let s := x.moved.foldl (fun s p => s.sysNotice c 4224 (sysAad 4224) p) s
  ((((s.checkNodes c).retryDones c).retryReports c)).graphWake c

/-- Restores a context, if it may run: at most one context of a partition does (R9), a terminated one is not restored (R343), and
a restore waits for the end of a live update (R355). -/
def State.restoreNow (s : State) (c : Nat) : State :=
  let x := s.ctxAt c
  let other := s.ctxs.any fun y => y.2.running && y.1 != c && decide (y.2.svb < x.svb + x.svl ∧ x.svb < y.2.svb + y.2.svl)
  if x.running || x.terminated || other then s
  else if s.update.isSome then s.modCtx c fun x => { x with waitsUpdate := true }
  else s.startContext c

/-- CONTEXT_RESTORE (R192, R214, R253, R338). -/
def execContextRestore (c : Nat) (s : State) : Host.Outcome State Fault Refusal := .next (s.restoreNow c)

/-- BREAKPOINT_UPDATE (R225). -/
def execBreakpointUpdate (c : Nat) (n : BitVec 3) (aid : BitVec 48) (flags : BitVec 4) (index : BitVec 64) (s : State) :
    Host.Outcome State Fault Refusal :=
  .next (s.modCtx c fun x => { x with bps := vmod x.bps n.toNat fun _ => { aid, flags, index } })

/-! ## Spans (R221, R222) -/

/-- SPAN_END: the record of the span, and the new span begins at the first cycle of its classification. -/
def execSpanEnd (_c core : Nat) (state : BitVec 2) (cause : BitVec 6) (len : Nat) (s : State) :
    Host.Outcome State Fault Refusal :=
  .next ((s.pushRecord core (logRecord state cause len)).modHw core fun k => { k with
    span := k.cand, cand := (k.cand.1, 0, 0), runSlots := k.candSlots, candSlots := 0 })

/-- SPAN_EXTENSION: the span continues. -/
def execSpanExtension (_c core : Nat) (s : State) : Host.Outcome State Fault Refusal :=
  .next ((s.pushRecord core (logRecord (s.hwAt core).span.1 63 spanMax)).modHw core fun k => { k with
    span := (k.span.1, k.span.2.1, k.span.2.2 - spanMax) })

end Sys2Proof.Machine
end

