-- ==== Sys2Proof/Machine/Memory.lean ====
section
/-! DEFINITION. Scalar memory instructions, atomics, fences and cache instructions of one activation (R142-R152). -/

namespace Sys2Proof.Machine

/-- Bytes of a size. -/
def sizeBytes (sz : Size) : Nat := sz.bits / 8

/-- A loaded value of n bytes, extended to a register (R68). -/
def extendBytes (u : Bool) (n : Nat) (bs : List Byte) : Word := extend u (BitVec.ofNat (8 * n) (ofBytesLE bs))

/-- An acquire at .die or wider moves the staleness point of weak loads (R140, R143). -/
def acquireM (sc : Scope) : M Unit := change fun s => if scopeWide sc then s.modAct fun a => { a with stale := s.cycle } else s

/-- LD (R142). -/
def execLd (h : Hdr) (sz : Size) (u strong : Bool) (a : GQ) (m : MemOp) (s : State) : Host.Outcome State Fault Refusal :=
  instr h s do
    let x ← memAddr m
    roomG a
    if strong then alignM x (sizeBytes sz)
    let bs ← loadM x (sizeBytes sz) strong
    writeG a (extendBytes u (sizeBytes sz) bs)

/-- ST (R142); its data is read before its address (DESIGN CHOICE, notes/assumptions/11.md). -/
def execSt (h : Hdr) (sz : Size) (strong : Bool) (a : GQ) (m : MemOp) (s : State) : Host.Outcome State Fault Refusal :=
  instr h s do
    let v ← readG a
    let x ← memAddr m
    if strong then alignM x (sizeBytes sz)
    storeM (.plain strong none) x (storeBytes x (bytesLE (sizeBytes sz) v.toNat)) true

/-- LDACQ (R143). -/
def execLdacq (h : Hdr) (sc : Scope) (sz : Size) (u : Bool) (a : GQ) (m : MemOp) (s : State) :
    Host.Outcome State Fault Refusal :=
  instr h s do
    let x ← memAddr m
    roomG a
    alignM x (sizeBytes sz)
    let bs ← loadM x (sizeBytes sz) true
    writeG a (extendBytes u (sizeBytes sz) bs)
    acquireM sc

/-- STREL (R143). -/
def execStrel (h : Hdr) (sc : Scope) (sz : Size) (a : GQ) (m : MemOp) (s : State) : Host.Outcome State Fault Refusal :=
  instr h s do
    let v ← readG a
    let x ← memAddr m
    alignM x (sizeBytes sz)
    storeM (.plain true (some sc)) x (storeBytes x (bytesLE (sizeBytes sz) v.toNat)) true

/-! ## Atomics (R145-R147) -/

/-- New value and flags of AMO on n bits: from the old value and the operand. -/
def amoValue (n : Nat) (op : AmoOp) (old b : Nat) : Nat × BitVec 5 :=
  let x := BitVec.ofNat n old
  let y := BitVec.ofNat n b
  match op with
  | .swap => (y.toNat, 0)
  | .add => ((x + y).toNat, 0)
  | .and => ((x &&& y).toNat, 0)
  | .or => ((x ||| y).toNat, 0)
  | .xor => ((x ^^^ y).toNat, 0)
  | .min u => (if (if u then y.ult x else y.slt x) then y.toNat else x.toNat, 0)
  | .max u => (if (if u then x.ult y else x.slt y) then y.toNat else x.toNat, 0)
  | .fadd => fop fmtF32 .rne .add 0 x.toNat y.toNat

/-- Is an ordering a release, with its scope? -/
def relOf : AmoOrd → Option Scope
  | .rel s => some s
  | .ar s => some s
  | _ => none

/-- Is an ordering an acquire, with its scope? -/
def acqOf : AmoOrd → Option Scope
  | .acq s => some s
  | .ar s => some s
  | _ => none

/-- Does an atomic overlap a store that the activation holds or has under check (R141, R147)? -/
def State.overlapsHeld (s : State) (l : List (Nat × Place)) : Bool :=
  l.any fun x => match x.2 with
    | .glob p _ => s.pendingGlobal x.1 p != Pending.none
    | .clm _ | .tile _ => pendingLocal s.act x.1 != Pending.none
    | _ => false

/-- Reads a byte of an atomic at its home. -/
def atomicRead (a : Nat) : Place → M Byte
  | .reg w => loadPlace a true (.reg w)
  | .win t w => loadPlace a true (.win t w)
  | .clm off => fun s =>
    if s.poison.contains (clmKey s.cctx s.ccore off / 16) then .error (.poison [])
    else .ok (s.mem.read (clmKey s.cctx s.ccore off), s)
  | .tile off => fun s =>
    if s.poison.contains (tileKey s.cctx s.ccl off / 16) then .error (.poison [])
    else .ok (s.mem.read (tileKey s.cctx s.ccl off), s)
  | .glob phys e => fun s =>
    let (b, bad, t) := (s.touchTlb s.cctx s.ccore a).globalRead s.cctx s.ccore e.key a phys true 0
    if bad then .error (.poison [a]) else .ok (b, t)

/-- Writes a byte of an atomic at its home. -/
def State.atomicWrite (s : State) (a : Nat) (b : Byte) : Place → State
  | .reg w => s.modAct fun x => x.wsWrite w b
  | .win t w => s.winStore t w b
  | .clm off => (s.logClm off).writeClm s.cctx s.ccore off b
  | .tile off => s.writeTile s.cctx s.ccl off b
  | .glob phys e => s.globalWrite s.cctx s.ccore e.key a phys true false b

/-- Writes the bytes of an atomic. -/
def State.atomicWrites : State → List ((Nat × Place) × Byte) → State
  | s, [] => s
  | s, ((a, p), b) :: t => State.atomicWrites (s.atomicWrite a b p) t

/-- An atomic on n bytes at an address: the old value, and what `new` gives beside the value stored, if one is (R147).
Checks are precise; held stores that it overlaps, and those before a release, leave first; a release also waits for the activation's
earlier local stores (R143). Under lockstitch a 513th entry of the tack log waits for the seam check (R351). -/
def atomicM (x : Word) (n : Nat) (ord : AmoOrd) (new : Nat → Option Nat × BitVec 5) : M (Nat × BitVec 5) := do
  alignM x n
  let l ← placesM x n .both
  let global := anyGlobal l
  let other ← asks fun s => s.overlapsHeld l
  if !global && other then stop (.hold 14)
  if ← asks fun s => l.any fun y => match y.2 with
      | .tile off => s.rangeHolds s.cctx s.ccl (s.clAt s.cctx s.ccl).issued off off
      | .glob p _ => s.stashHeld s.cctx s.ccl (s.clAt s.cctx s.ccl).issued y.1 || s.awayHeld s.cctx s.ccl s.cycle y.1 p
      | _ => false then stop (.hold 14)
  if (relOf ord).isSome && !(← asks fun s => s.act.localDone) then stop (.hold 14)
  if ← asks fun s => s.seam?.isSome && s.tackFull (clmOffsets (l.map fun y => (y.1, 0))) then
    if ← asks State.commitWaits then stop (.hold 14) else stop .seam
  if global then
    if other || (relOf ord).isSome then commitM
    change fun s =>
      let s := match relOf ord with
        | some sc => s.releaseWide s.cctx s.ccore sc
        | none => s
      s.modAct fun a => { a with issued := true }
  let bs ← seamLoad l <| pagesOn (l.map (·.1)) do
    let bs ← l.mapM fun y => atomicRead y.1 y.2
    match (new (ofBytesLE bs)).1 with
    | some v => change fun s => s.atomicWrites (l.zip (bytesLE n v))
    | none => pure ()
    pure bs
  match acqOf ord with
  | some sc => acquireM sc
  | none => pure ()
  pure (ofBytesLE bs, (new (ofBytesLE bs)).2)

/-- Bytes of an atomic. -/
def amoBytes (dw : Bool) : Nat := if dw then 8 else 4

/-- Zero-extended result: the unsigned forms and .fadd (R145). -/
def amoZext : AmoOp → Bool
  | .min u => u
  | .max u => u
  | .fadd => true
  | _ => false

/-- AMO (R145). -/
def execAmo (h : Hdr) (op : AmoOp) (dw : Bool) (ord : AmoOrd) (loc : Bool) (a b c : GQ) (disp : BitVec 24) (s : State) :
    Host.Outcome State Fault Refusal :=
  instrFp h s do
    let base ← readG b
    let y ← readG c
    roomG a
    let n := amoBytes dw
    let (old, fl) ← atomicM (withLocal loc (base + disp.signExtend 64)) n ord fun old =>
      let (v, fl) := amoValue (8 * n) op old y.toNat
      (some v, fl)
    writeG a (extend (amoZext op) (BitVec.ofNat (8 * n) old))
    pure fl

/-- CAS (R146). -/
def execCas (h : Hdr) (dw : Bool) (ord : AmoOrd) (loc : Bool) (a : BitVec 5) (b c : GQ) (disp : BitVec 24) (s : State) :
    Host.Outcome State Fault Refusal :=
  instr h s do
    let want ← readReg a
    let base ← readG b
    let y ← readG c
    let n := amoBytes dw
    let (old, _) ← atomicM (withLocal loc (base + disp.signExtend 64)) n ord fun old =>
      (if old = want.toNat % 2 ^ (8 * n) then some (y.toNat % 2 ^ (8 * n)) else none, 0)
    writeReg a (extend false (BitVec.ofNat (8 * n) old))

/-! ## Fences and caches (R148-R152) -/

/-- FENCE (R148): a marker in the outbound buffer, for the kinds that order stores, once the earlier local stores of the stream have
been performed; loads are performed when they issue. -/
def execFence (h : Hdr) (k : FenceKind) (sc : Scope) (s : State) : Host.Outcome State Fault Refusal :=
  instr h s do
    if k ≠ .ld then
      if !(← asks fun s => s.act.localDoneOf s.cur.stream) then stop (.hold 14)
      pushOutM (.fence k sc)

/-- The length of CFLUSH or CINV: gc as unsigned, or 1. -/
def rangeLen : Option Word → Nat
  | none => 1
  | some w => w.toNat

/-- CFLUSH (R149): it enters checking as a store does. -/
def execCflush (h : Hdr) (sc : Scope) (_sz : Size) (m : MemOp) (s : State) : Host.Outcome State Fault Refusal :=
  instr h s do
    let b ← readG m.base
    let n ← readG? m.index
    let x := withLocal m.loc (b + m.disp.signExtend 64)
    enterStore (.flush sc (rangeLen n)) x [] false

/-- CINV (R150): acts at once; the copies of the range leave the cluster cache and the L1s at every scope, which R140 asks
for and R265 permits; it needs the right to read a line, which R150 does not say (DESIGN CHOICE, notes/assumptions/9.md). With
`.i`, the instruction caches of the core and of its cluster drop the range as well. -/
def execCinv (h : Hdr) (i : Bool) (_sc : Scope) (_sz : Size) (m : MemOp) (s : State) : Host.Outcome State Fault Refusal :=
  instr h s do
    let b ← readG m.base
    let n ← readG? m.index
    let x := withLocal m.loc (b + m.disp.signExtend 64)
    let l := rangeAddrs x.toNat (rangeLen n)
    probeM (l.getD [])
    change fun s =>
      let l := s.rangeLines s.cctx s.ccore (s.act.str s.cur.stream).given s.cur.dom (s.act.openWindows s.cur.dom) .read l
      let s := (l.of ((s.clHwAt s.ccl).lines.map (·.line))).foldl (fun s line => s.evict s.ccl line) s
      if i then s.dropCode s.ccore l.has else s

/-- PREF (R151): fills the line at a level; a copy that is held already is left as it is. -/
def State.prefetch (s : State) (lv : PrefLevel) (a : Nat) : State :=
  let c := s.cctx
  if 2 ^ 55 ≤ a then s
  else
    match s.xlatOr (s.act.str s.cur.stream).given c s.ccore a with
    | none => s
    | some e =>
      if e.r && (s.ctxAt c).allows s.cur.dom (s.act.openWindows s.cur.dom) a e.dom .read then
        let line := e.phys a / 128
        if (s.stashOf c s.ccl a).isSome then s.stashFill c s.ccl e.key a (e.phys a)
        else
          match lv with
          | .home => s.homeAccess c e.key (128 * line) 0xFF
          | _ =>
            let s := if (s.lineAt s.ccl line).isSome then s else s.fillLine c s.ccl e.key line
            if lv = .l1 then s.modHw s.ccore fun k => { k with l1 := (line :: k.l1.filter fun l => l ≠ line).take l1Lines } else s
      else s

/-- PREF (R151). -/
def execPref (h : Hdr) (l : PrefLevel) (m : MemOp) (s : State) : Host.Outcome State Fault Refusal :=
  instr h s do
    let x ← memAddr m
    probeM [x.toNat]
    change fun s => s.prefetch l x.toNat

/-- SDRAIN (R152): held until every store issued before it has been checked; where one fails, the activation parks behind it. -/
def execSdrain (h : Hdr) (s : State) : Host.Outcome State Fault Refusal :=
  guarded h s <|
    if s.act.checks.all fun p => p.held then .next (s.retire h)
    else .next (s.issueHeld h (.draining s.act.nextStore))

end Sys2Proof.Machine
end

