-- ==== Sys2Proof/Machine/Directional.lean ====
section
/-! DEFINITION. Directional instructions (R121-R134) and the renormalisation of D16 vectors (R61-R63). Roots, powers and angles
are compared exactly where their values can lie on a rounding boundary, and enclosed as in Special.lean otherwise
(DESIGN CHOICE, notes/assumptions/15.md). -/

namespace Sys2Proof.Machine

/-! ## D16 vectors (R61, R62) -/

/-- A D16 vector: lanes as signed integers, and the norm code; `none` is the zero vector. -/
structure DVec where
  lanes : List Int
  norm : Option Int
  deriving DecidableEq, Repr

/-- The zero vector. -/
def dzero : DVec := { lanes := List.replicate 32 0, norm := none }

/-- The lanes of a d register as they stand. -/
def Act.dLanes (a : Act) (i : BitVec 4) : List Int := (a.d[i.toNat]).toList.map BitVec.toInt

/-- A d register with its norm; the code 0x8000 marks the zero vector (R121). -/
def Act.getD (a : Act) (i : BitVec 4) : DVec :=
  if a.n[i.toNat] = 0x8000 then dzero else { lanes := a.dLanes i, norm := some (a.n[i.toNat]).toInt }

/-- Lanes and norm as bits. -/
def dvecLanes (v : DVec) : DLanes := Vector.ofFn fun i : Fin 32 => BitVec.ofInt 16 (v.lanes.getD i.val 0)
def dvecNorm (v : DVec) : BitVec 16 := match v.norm with | none => 0x8000 | some n => BitVec.ofInt 16 n

/-- Writes a d register and its norm (R19, R122). -/
def Act.setD (a : Act) (i : BitVec 4) (v : DVec) : Act :=
  { a with d := a.d.set i.toNat (dvecLanes v), n := a.n.set i.toNat (dvecNorm v)
           dirtyWs := a.dirtyWs ||| BitVec.twoPow 16 (9 + i.toNat / 4) ||| 0x2000 }

/-- Sum of squares of the lanes. -/
def sumSq (l : List Int) : Nat := (l.map fun x => x.natAbs * x.natAbs).sum

/-- Does S lie in the band of R62? -/
def inBand (s : Nat) : Bool := decide (268369920 ≤ s) && decide (s ≤ 268500992)

/-! ## Exact roundings -/

/-- Nearest integer to p / q, ties to even. -/
def rneDiv (p : Int) (q : Nat) : Int :=
  let n := p / q
  let r := p % q
  if 2 * r < q then n else if (q : Int) < 2 * r then n + 1 else if n % 2 = 0 then n else n + 1

/-- Nearest integer to √(p / q), ties to even. -/
def rneSqrt (p q : Nat) : Nat :=
  let n := isqrt (p / q)
  let mid := (2 * n + 1) * (2 * n + 1) * q
  if 4 * p < mid then n else if mid < 4 * p then n + 1 else if n % 2 = 0 then n else n + 1

/-- The two candidates of an enclosed rounding: one where they agree. -/
def decided {α : Type} [DecidableEq α] (code : Nat) (a b : α) : α := if a = b then a else if Config.undecided code then a else b

/-- Rounds (-1)^neg times an enclosed value in units of 2^e to a format. -/
def roundEncl (code : Nat) (f : BinFmt) (mode : Mode) (neg : Bool) (x : Encl) (e : Int) : Nat × BitVec 5 :=
  decided code (f.round mode neg x.lo e true) (f.round mode neg (x.hi - 1) e true)

/-- 2^(r/n) for r below n, in 512 fraction bits; 1 exactly for r = 0. -/
def enRoot2 (r n : Nat) : Encl :=
  if r = 0 then { lo := fxOne, hi := fxOne } else enExp 120 (enDivN { lo := fxLn2 * r, hi := (fxLn2 + 1) * r } n)

/-- Rounds x × 2^(k/256) × 2^e to a format (R125, R130); an integer power is exact. An x of 0 gives +0 in every mode: R130 and R131 do
not say whether R51's −0 of RDN applies to an exact dot product (DESIGN CHOICE, notes/assumptions/73.md). -/
def roundPow (code : Nat) (f : BinFmt) (mode : Mode) (x : Int) (k e : Int) : Nat × BitVec 5 :=
  let neg := decide (x < 0)
  let n := k / 256
  let r := (k % 256).toNat
  if x = 0 then (0, 0)
  else if r = 0 then f.round mode neg x.natAbs (e + n)
  else
    let c := enRoot2 r 256
    roundEncl code f mode neg { lo := x.natAbs * c.lo, hi := x.natAbs * c.hi } (e + n - 512)

/-! ## Renormalisation (R63) -/

/-- The correction step: lane h is replaced so that S comes as close to 2^28 as it can. -/
def correctLanes (l : List Int) : List Int :=
  let s := sumSq l
  if inBand s then l
  else
    let top := l.foldl (fun t x => max t x.natAbs) 0
    let h := (l.findIdx? fun x => x.natAbs == top).getD 0
    let x := l.getD h 0
    let r := 2 ^ 28 - (s - x.natAbs * x.natAbs)
    let n := isqrt r
    let m : Int := if (n + 1) * (n + 1) - r < r - n * n then n + 1 else n
    l.set h (if x < 0 then -m else m)

/-- The norm code before saturation: rne (ln/D + 256 × (e − 14) + 128 × log2 T), for T = t × 2^2e. -/
def normCode (t : Nat) (e ln : Int) (D : Nat) : Int :=
  let b := bitLen t - 1
  let base : Int := ln + D * (256 * (e - 14) + 128 * b)
  if t = 2 ^ b then rneDiv base D
  else
    let l := enLog2 t
    let unit : Int := D * fxOne
    let at_ (x : Nat) : Int := (2 * (base * fxOne + 128 * D * x) + unit) / (2 * unit)
    decided t (at_ l.lo) (at_ (l.hi - 1))

/-- Lanes of a renormalised vector with T ≠ 0. -/
def normLanes (a : List Int) (t : Nat) : List Int :=
  correctLanes (a.map fun x =>
    let m : Int := rneSqrt (x.natAbs * x.natAbs * 2 ^ 28) t
    if x < 0 then -m else m)

/-- Renormalises lanes a_j × 2^e with log2 length ln / (256 × D). -/
def renorm (a : List Int) (e ln : Int) (D : Nat := 1) : DVec × BitVec 5 :=
  let t := sumSq a
  if t = 0 then (dzero, 0)
  else
    let n := normCode t e ln D
    if 32767 < n then ({ lanes := normLanes a t, norm := some 32767 }, flOF ||| flNX)
    else if n < -32767 then (dzero, flUF ||| flNX)
    else ({ lanes := normLanes a t, norm := some n }, 0)

/-! ## The instructions -/

/-- A directional instruction that renormalises: from the present activation's registers to a d destination. -/
def dirOp (h : Hdr) (a : BitVec 4) (g : Act → DVec × BitVec 5) (s : State) : Host.Outcome State Fault Refusal :=
  instrFp h s do
    let x ← asks State.act
    let (v, fl) := g x
    changeAct fun y => y.setD a v
    pure fl

/-- DNORM.set (R124): the norm step is replaced, and raises no flag. -/
def setNorm (v : DVec) (c : BitVec 16) : DVec :=
  let t := sumSq v.lanes
  if t = 0 ∨ c = 0x8000 then dzero else { lanes := normLanes v.lanes t, norm := some c.toInt }

/-- DNORM (R124). -/
def execDnorm (h : Hdr) (_rne : Bool) (a b : BitVec 4) (f : DnormSet) (s : State) : Host.Outcome State Fault Refusal :=
  match f with
  | .keep => dirOp h a (fun x => renorm (x.getD b).lanes 0 ((x.getD b).norm.getD 0)) s
  | .imm c => dirOp h a (fun x => (setNorm (x.getD b) c, 0)) s
  | .reg c => instr h s do
      let w ← readG c
      changeAct fun x => x.setD a (setNorm (x.getD b) (w.setWidth 16))

/-- 32 values to D16 (R125). -/
def toD16 (l : List FVal) : DVec × BitVec 5 :=
  if l.any fun v => v.isNan || v.isInf then (dzero, flNV)
  else
    let e := minExp l
    renorm (l.map fun v => if v.isZero then 0 else v.atExp e) (e + 14) 0

/-- D16 to a format: element j (R125). -/
def fromD16 (f : BinFmt) (mode : Mode) (v : DVec) (j : Nat) : Nat × BitVec 5 :=
  match v.norm with
  | none => (0, 0)
  | some n => let x := v.lanes.getD j 0; roundPow (x.natAbs * 65536 + n.natAbs) f mode x n (-14)

/-- DCVT (R125). -/
def execDcvt (h : Hdr) (f : DcvtForm) (s : State) : Host.Outcome State Fault Refusal :=
  instrFp h s do
    match f with
    | .fromBf16 _ a b => do
      let x ← readV b
      let (v, fl) := toD16 ((List.range 32).map fun i => fmtBF16.decode (elem 16 x i))
      changeAct fun y => y.setD a v
      pure fl
    | .fromF32 _ a b c => do
      let x ← readV b
      let y ← readV c
      let (v, fl) := toD16 ((List.range 32).map fun i => fmtF32.decode (if i < 16 then lane x i else lane y (i - 16)).toNat)
      changeAct fun y => y.setD a v
      pure fl
    | .toBf16 rm a b => do
      let mode ← modeM rm
      let v ← asks fun s => s.act.getD b
      let (r, fl) := elemsF 16 0xFFFF (fromD16 fmtBF16 mode v)
      writeV a r
      pure fl
    | .toF32 rm a b => do
      let mode ← modeM rm
      let v ← asks fun s => s.act.getD b
      let (r0, f0) := elemsF 32 0xFFFF (fromD16 fmtF32 mode v)
      let (r1, f1) := elemsF 32 0xFFFF fun j => fromD16 fmtF32 mode v (16 + j)
      writeV (.v (a ++ (0 : BitVec 1))) r0
      writeV (.v (a ++ (1 : BitVec 1))) r1
      pure (f0 ||| f1)

/-- The dot product of the lanes. -/
def dotLanes (x y : List Int) : Int := ((x.zip y).map fun p => p.1 * p.2).sum

/-- DDOT (R130). -/
def execDdot (h : Hdr) (dot : Bool) (rm : Rm) (a : GQ) (b c : BitVec 4) (s : State) : Host.Outcome State Fault Refusal :=
  instrFp h s do
    let mode ← modeM rm
    let x ← asks State.act
    let (r, fl) :=
      if dot then
        match (x.getD b).norm, (x.getD c).norm with
        | some n, some k =>
          let p := dotLanes (x.getD b).lanes (x.getD c).lanes
          roundPow p.natAbs fmtF32 mode p (n + k) (-28)
        | _, _ => (0, 0)
      else roundPow 0 fmtF32 mode (dotLanes (x.dLanes b) (x.dLanes c)) 0 (-28)
    writeG a (BitVec.ofNat 64 r)
    pure fl

/-- DSCALE (R126). -/
def execDscale (h : Hdr) (a b : BitVec 4) (c : Src2) (s : State) : Host.Outcome State Fault Refusal :=
  instrFp h s do
    let w ← readSrc2 c
    let v ← asks fun s => s.act.getD b
    let (r, fl) : DVec × BitVec 5 := match v.norm with
      | none => (dzero, 0)
      | some n =>
        let k := n + w.toInt
        if 32767 < k then ({ v with norm := some 32767 }, flOF ||| flNX)
        else if k < -32767 then (dzero, flUF ||| flNX)
        else ({ v with norm := some k }, 0)
    changeAct fun y => y.setD a r
    pure fl

/-- DNEG (R126); a lane of −32,768 gives 32,767. -/
def execDneg (h : Hdr) (a b : BitVec 4) (s : State) : Host.Outcome State Fault Refusal :=
  instr h s (changeAct fun x =>
    let v := x.getD b
    x.setD a { v with lanes := v.lanes.map fun y => min 32767 (-y) })

/-- DMOVN (R126). -/
def execDmovn (h : Hdr) (f : DmovnForm) (s : State) : Host.Outcome State Fault Refusal :=
  instr h s do
    match f with
    | .dd a b => changeAct fun x => x.setD a (x.getD b)
    | .gd a b => do
      let v ← asks fun s => s.act.getD b
      writeG a (BitVec.ofInt 64 (v.norm.getD (-32768)))
    | .gf a b => do
      let v ← asks fun s => s.act.getD b
      writeG a (BitVec.ofNat 64 (match v.norm with
        | none => 0xFF800000
        | some n => (fmtF32.round .rne (decide (n < 0)) n.natAbs (-8)).1))

/-! ## Sums (R127, R128) -/

/-- x^256. -/
def pow256 (x : Nat) : Nat := (List.range 8).foldl (fun p _ => p * p) x

/-- Largest n for which n = 0 or (2n − 1)^256 < X, by bits. -/
def rootBits : Nat → Nat → Nat → Nat
  | 0, _, r => r
  | k + 1, X, r => rootBits k X (let t := r + 2 ^ k; if pow256 (2 * t - 1) < X then t else r)

/-- rne (2^(-d/256) × 2^30), exactly. -/
def weight30 (d : Nat) : Nat := if 256 * 31 ≤ d then 0 else rootBits 31 (2 ^ (256 * 31 - d)) 0

/-- Sum of two vectors (R127). -/
def addD (sub : Bool) (x y : DVec) : DVec × BitVec 5 :=
  let go (m : Int) (wb wc : Nat) : DVec × BitVec 5 :=
    renorm ((x.lanes.zip y.lanes).map fun p => p.1 * wb + (if sub then -1 else 1) * p.2 * wc) (-30) m
  match x.norm, y.norm with
  | none, none => (dzero, 0)
  | some n, none => go n (2 ^ 30) 0
  | none, some k => go k 0 (2 ^ 30)
  | some n, some k => let m := max n k; go m (weight30 (m - n).toNat) (weight30 (m - k).toNat)

/-- DADD (R127). -/
def execDadd (h : Hdr) (sub _rne : Bool) (a b c : BitVec 4) (s : State) : Host.Outcome State Fault Refusal :=
  dirOp h a (fun x => addD sub (x.getD b) (x.getD c)) s

/-- Mixture of two vectors (R128). -/
def lerpD (t : Nat) (x y : DVec) : DVec × BitVec 5 :=
  if t = 0 then (x, 0)
  else if t = 65536 then (y, 0)
  else
    match x.norm.or y.norm with
    | none => (dzero, 0)
    | some o =>
      let n := x.norm.getD o
      let k := y.norm.getD o
      renorm ((x.lanes.zip y.lanes).map fun p => p.1 * (65536 - t : Nat) + p.2 * t) (-16)
        (n * (65536 - t : Nat) + k * t) 65536

/-- DLERP (R128). -/
def execDlerp (h : Hdr) (_rne : Bool) (a b c : BitVec 4) (t : BitVec 17) (s : State) : Host.Outcome State Fault Refusal :=
  dirOp h a (fun x => lerpD t.toNat (x.getD b) (x.getD c)) s

/-! ## Rotation (R129) -/

/-- Nearest multiple of 2^-30 to an enclosed value, which is never on a boundary. -/
def near30 (code : Nat) (x : Encl) : Int :=
  decided code (((x.lo * 2 ^ 31 + fxOne) / (2 * fxOne) : Nat) : Int) (((x.hi * 2 ^ 31 + fxOne) / (2 * fxOne) : Nat) : Int)

/-- cos and sin, in units of 2^-30, of an angle of v quarter turns of 512 fraction bits, known up to `w` units. -/
def turn30 (code v w : Nat) : Int × Int :=
  let quarter := v / fxOne % 4
  let f := v % fxOne
  let (c, s) : Int × Int :=
    if f = 0 ∧ w = 0 then (2 ^ 30, 0)
    else
      let fold := decide (fxOne ≤ 2 * f)
      let g : Encl := if fold then { lo := fxOne - f - w, hi := fxOne - f } else { lo := f, hi := f + w }
      let a := enDivN (enMul g enPi) 2
      let sn := near30 code (enSin a)
      let cs := near30 code (enCos a)
      if fold then (sn, cs) else (cs, sn)
  if quarter = 0 then (c, s) else if quarter = 1 then (-s, c) else if quarter = 2 then (-c, -s) else (s, -c)

/-- cos and sin of π × p × 2^(-k/16). -/
def rotAngle (p k : Nat) : Int × Int :=
  if k % 16 = 0 then turn30 0 ((2 * p * fxOne) >>> (k / 16)) 0
  else
    let c := enRoot2 (16 - k % 16) 16
    let n := k / 16 + 1
    turn30 (p * 1024 + k) ((2 * p * c.lo) >>> n) (2 * p * (c.hi - c.lo) + 1)

/-- Rotation of the lane pairs. -/
def rotD (p e sh : Nat) (v : DVec) : DVec × BitVec 5 :=
  match v.norm with
  | none => (v, 0)
  | some n =>
    if p = 0 then (v, 0)
    else
      renorm ((List.range 16).flatMap fun i =>
        let (c, s) := rotAngle p (16 * sh + i * e)
        let x := v.lanes.getD (2 * i) 0
        let y := v.lanes.getD (2 * i + 1) 0
        [x * c - y * s, x * s + y * c]) (-30) n

/-- DROT (R129). -/
def execDrot (h : Hdr) (_rne : Bool) (a b : BitVec 4) (c : GQ) (e sh : BitVec 5) (s : State) :
    Host.Outcome State Fault Refusal :=
  instrFp h s do
    let w ← readG c
    let v ← asks fun s => s.act.getD b
    let (r, fl) := rotD (w.toNat % 2 ^ 32) e.toNat sh.toNat v
    changeAct fun y => y.setD a r
    pure fl

/-! ## DSIM8 (R131) -/

/-- One score of two halves: norms of the halves of query and key (none where zero), dot products of their lanes. -/
structure Score where
  q0 : Option Int
  q1 : Option Int
  k0 : Option Int
  k1 : Option Int
  p0 : Int
  p1 : Int
  deriving DecidableEq, Repr

/-- 2^((n − top)/256) in 512 fraction bits, for n of at most top. -/
def enScale (top : Int) : Option Int → Encl
  | none => { lo := 0, hi := 0 }
  | some n =>
    let d := n - top
    let c := enRoot2 (d % 256).toNat 256
    let sh := (-(d / 256)).toNat
    if d % 256 = 0 then { lo := fxOne >>> sh, hi := fxOne >>> sh } else { lo := c.lo >>> sh, hi := (c.hi >>> sh) + 1 }

/-- Larger of two norms. -/
def topNorm (a b : Option Int) : Int :=
  match a, b with
  | some x, some y => max x y
  | some x, none => x
  | none, some y => y
  | none, none => 0

/-- Do terms c × 2^(k/256) sum to zero? The powers with different k modulo 256 are independent over the rationals. -/
def zeroSum (l : List (Int × Int)) : Bool :=
  let low := l.foldl (fun m x => min m (x.2 / 256)) 0
  (List.range 256).all fun r =>
    ((l.filter fun x => x.2 % 256 == (r : Int)).map fun x => x.1 * 2 ^ (x.2 / 256 - low).toNat).sum == 0

/-- A term c × 2^(k/256) of a product of two powers, where both halves are there. -/
def term2 (c : Int) (a b : Option Int) (m : Int) : List (Int × Int) :=
  match a, b with
  | some x, some y => [(c, m * (x + y))]
  | _, _ => []

/-- Is the score exactly b × 2^z / 2^28, for b ≥ 0, up to its sign: b² × 2^2z × (α0² + α1²)(β0² + β1²) = (Σ α β P)²? -/
def scoreIs (x : Score) (b : Nat) (z : Int) : Bool :=
  let c : Int := b * b
  let lhs := (term2 c x.q0 x.k0 2 ++ term2 c x.q0 x.k1 2 ++ term2 c x.q1 x.k0 2 ++ term2 c x.q1 x.k1 2).map
    fun t => (t.1, t.2 + 512 * z)
  let mid := match x.q0, x.k0, x.q1, x.k1 with
    | some a, some b, some c, some d => [(-(2 * x.p0 * x.p1), a + b + c + d)]
    | _, _, _, _ => []
  zeroSum (lhs ++ term2 (-(x.p0 * x.p0)) x.q0 x.k0 2 ++ term2 (-(x.p1 * x.p1)) x.q1 x.k1 2 ++ mid)

/-- Is the sum of α β P zero? -/
def scoreZero (x : Score) : Bool := zeroSum (term2 x.p0 x.q0 x.k0 1 ++ term2 x.p1 x.q1 x.k1 1)

/-- Enclosure of the sum of α β P, in 1,024 fraction bits. -/
def scoreSum (x : Score) : Int × Int :=
  let a := enScale (topNorm x.q0 x.q1)
  let b := enScale (topNorm x.k0 x.k1)
  let t (p : Int) (u v : Encl) : Int × Int :=
    if 0 ≤ p then (p * (u.lo * v.lo : Nat), p * (u.hi * v.hi : Nat)) else (p * (u.hi * v.hi : Nat), p * (u.lo * v.lo : Nat))
  let l := t x.p0 (a x.q0) (b x.k0)
  let r := t x.p1 (a x.q1) (b x.k1)
  (l.1 + r.1, l.2 + r.2)

/-- Enclosure of √((α0² + α1²)(β0² + β1²)), in 1,024 fraction bits. -/
def scoreDen (x : Score) : Encl :=
  let a := enScale (topNorm x.q0 x.q1)
  let b := enScale (topNorm x.k0 x.k1)
  let sq (u v : Encl) : Encl := { lo := u.lo * u.lo + v.lo * v.lo, hi := u.hi * u.hi + v.hi * v.hi }
  let p := sq (a x.q0) (a x.q1)
  let q := sq (b x.k0) (b x.k1)
  { lo := isqrt (p.lo * q.lo), hi := isqrt (p.hi * q.hi) + 1 }

/-- A score in FP32. -/
def scoreF32 (mode : Mode) (x : Score) : Nat × BitVec 5 :=
  if (x.q0.isNone && x.q1.isNone) || (x.k0.isNone && x.k1.isNone) || scoreZero x then (0, 0)
  else
    let (lo, hi) := scoreSum x
    let d := scoreDen x
    let code := (x.p0 * 2 ^ 64 + x.p1).natAbs
    let neg := if 0 ≤ lo then false else if hi ≤ 0 then true else Config.undecided code
    let (m, n) : Nat × Nat := if neg then ((-hi).toNat, (-lo).toNat) else (lo.toNat, hi.toNat)
    let v : Encl := { lo := m <<< 600 / d.hi, hi := n <<< 600 / d.lo + 1 }
    let e : Int := -628
    let q := max (e + bitLen v.lo - 24) fmtF32.qmin - 1
    let (b, _) := roundTo .rne false v.lo e q false
    if scoreIs x b (q + 28) then fmtF32.round mode neg b q else roundEncl code fmtF32 mode neg v e

/-- The lanes of a half of a key, from the bytes of the block. -/
def keyLanes (bs : List Byte) (off : Nat) : List Int :=
  (List.range 32).map fun j => (BitVec.ofNat 16 (fieldLE bs (off + 2 * j) 2)).toInt

/-- The norm of a half of a key. -/
def keyNorm (bs : List Byte) (off : Nat) : Option Int :=
  let n := BitVec.ofNat 16 (fieldLE bs off 2)
  if n = 0x8000 then none else some n.toInt

/-- DSIM8 (R131). -/
def execDsim8 (h : Hdr) (rm : Rm) (strong : Bool) (a : VQ) (q : DsimQuery) (c : GQ) (disp : BitVec 32) (s : State) :
    Host.Outcome State Fault Refusal :=
  instrFp h s do
    let mode ← modeM rm
    let w ← readG c
    roomV a
    let k := w + disp.signExtend 64
    alignM k 2
    let x ← asks State.act
    match q with
    | .w1 b => do
      let bs ← loadM k 528 strong
      let (v, fl) := elemsF 32 0xFF fun i =>
        roundPow 0 fmtF32 mode (dotLanes (x.dLanes b) (keyLanes bs (64 * i))) 0 (-28)
      writeV a v
      pure fl
    | .w2 b => do
      let bs ← loadM k 1056 strong
      let b0 : BitVec 4 := b ++ (0 : BitVec 1)
      let b1 : BitVec 4 := b ++ (1 : BitVec 1)
      let (v, fl) := elemsF 32 0xFF fun i =>
        scoreF32 mode { q0 := (x.getD b0).norm, q1 := (x.getD b1).norm
                        k0 := keyNorm bs (1024 + 4 * i), k1 := keyNorm bs (1026 + 4 * i)
                        p0 := dotLanes (x.dLanes b0) (keyLanes bs (128 * i))
                        p1 := dotLanes (x.dLanes b1) (keyLanes bs (128 * i + 64)) }
      writeV a v
      pure fl

/-! ## Memory (R132) and tests (R133) -/

/-- Addresses of the lanes and of the norm; both are multiples of 2. -/
def dAddrs (b : GQ) (c : Option GQ) (disp : BitVec 32) : M (Word × Word) := do
  let w ← readG b
  let n ← readG? c
  let x := w + disp.signExtend 64
  let y := n.getD (x + 64)
  check (x.toNat % 2 == 0 && y.toNat % 2 == 0) { code := 0x0007, openInfo := true }
  pure (x, y)

/-- DLD (R132); the lower part is checked first, so that the fault names the lowest byte. -/
def execDld (h : Hdr) (strong : Bool) (a : BitVec 4) (b : GQ) (c : Option GQ) (disp : BitVec 32) (s : State) :
    Host.Outcome State Fault Refusal :=
  instrFp h s do
    let (x, y) ← dAddrs b c disp
    let low := decide (y.toNat < x.toNat)
    let l1 ← if low then placesM y 2 .read else placesM x 64 .read
    let l2 ← pagesOn [if low then y.toNat else x.toNat] (if low then placesM x 64 .read else placesM y 2 .read)
    let bs ← seamLoad (l1 ++ l2) (loadPlaces strong (l1 ++ l2))
    let lanes := keyLanes bs (if low then 2 else 0)
    let (v, fl) : DVec × BitVec 5 := match keyNorm bs (if low then 0 else 64) with
      | none => (dzero, 0)
      | some n => if inBand (sumSq lanes) then ({ lanes, norm := some n }, 0) else renorm lanes 0 n
    changeAct fun y => y.setD a v
    pure fl

/-- DST (R132): the register as it stands. Where the norm lies within the lanes' bytes, it is stored last (DESIGN CHOICE,
notes/assumptions/77.md). -/
def execDst (h : Hdr) (strong : Bool) (a : BitVec 4) (b : GQ) (c : Option GQ) (disp : BitVec 32) (s : State) :
    Host.Outcome State Fault Refusal :=
  instr h s do
    let (x, y) ← dAddrs b c disp
    let r ← asks State.act
    let lanes := storeBytes x ((r.d[a.toNat]).toList.flatMap fun l => bytesLE 2 l.toNat)
    let norm := storeBytes y (bytesLE 2 (r.n[a.toNat]).toNat)
    if y.toNat < x.toNat then storeM (.plain strong none) y (norm ++ lanes) false
    else storeM (.plain strong none) x (lanes ++ norm) false

/-- DTEST (R133). -/
def execDtest (h : Hdr) (p : BitVec 3) (b : BitVec 4) (cond : DtestCond) (s : State) : Host.Outcome State Fault Refusal :=
  instr h s (changeAct fun x =>
    let n := x.n[b.toNat]
    x.setP p (match cond with
      | .zero => n == 0x8000
      | .sat => n == 0x7FFF
      | .gt imm => n != 0x8000 && decide ((imm.extractLsb' 0 16).toInt < n.toInt)))

end Sys2Proof.Machine
end

