-- ==== Sys2Proof/Machine/Pelson.lean ====
section
/-! DEFINITION. What Pelson, the loader and a guest write into descriptors and windows (R4, R191, R301, R315, R319, R335,
R337, R340, R342), the creation of a context (R216, R328), the reset of the device (R4), and memory keys (R344): the rows
REGISTER_WRITE, CONTEXT_CREATION, RESET and KEY_RETIRE. -/

namespace Sys2Proof.Machine

/-! ## Format windows (R301) -/

/-- First and last byte of a window's scale region; `none` without one. -/
def FormatWin.scales (w : FormatWin) : Option (Nat × Nat) :=
  if w.fmt = 2 ∨ w.fmt = 3 ∨ w.fmt = 4 then
    some (w.sbase, w.sbase + 2 * ((w.fin - w.base + blockBytes w.fmt - 1) / blockBytes w.fmt))
  else none

/-- Do two half-open ranges overlap? -/
def meets (a b : Nat × Nat) : Bool := decide (a.1 < b.2) && decide (b.1 < a.2)

/-- Is a descriptor rejected by itself? -/
def fwinMalformed (x : Ctx) (d : Word × Word × Word × Word) : Bool :=
  let w := fwinOf d
  let tb := w.fmt == 2 || w.fmt == 3 || w.fmt == 4
  d.1.extractLsb' 4 8 != 0 || d.1.extractLsb' 46 18 != 0 || d.2.1.extractLsb' 0 12 != 0 || d.2.1.extractLsb' 46 18 != 0 ||
  d.2.2.1.extractLsb' 46 18 != 0 || d.2.2.2 != 0 || decide (5 < w.fmt) || decide (w.fin ≤ w.base) ||
  (w.fmt == 3 && (w.fin - w.base) % 12288 != 0) || w.sbase % 2 == 1 || (!tb && w.sbase != 0) ||
  !x.inPart w.base (w.fin - w.base) ||
  (match w.scales with | some r => !x.inPart r.1 (r.2 - r.1) | none => false)

/-- Does a window overlap another one in service, or the scale region of any window, its own included? -/
def fwinOverlaps (x : Ctx) (i : Nat) (d : Word × Word × Word × Word) : Bool :=
  let w := fwinOf d
  let own := match w.scales with | some r => meets (w.base, w.fin) r | none => false
  own || (x.fwin.toList.zipIdx.any fun y =>
    let v := fwinOf y.1
    y.2 != i && y.1.1.getLsbD 0 && (meets (w.base, w.fin) (v.base, v.fin) ||
      (match v.scales with | some r => meets (w.base, w.fin) r | none => false)))

/-- A descriptor as the window holds it: the bits that must be zero are read-only and read as zero (R4). -/
def fwinStored (d : Word × Word × Word × Word) : Word × Word × Word × Word :=
  (d.1 &&& 0x3FFFFFFFF00F, d.2.1 &&& 0x3FFFFFFFF000, d.2.2.1 &&& 0x3FFFFFFFFFFF, 0)

/-- Pelson writes a window; a rejected one stays out of service. -/
def Ctx.setWindow (x : Ctx) (i : Nat) (d : Word × Word × Word × Word) : Ctx :=
  let ok := !d.1.getLsbD 0 || !(fwinMalformed x d || fwinOverlaps x i d)
  let e := fwinStored d
  { x with fwin := vmod x.fwin i fun _ => if ok then e else (e.1 &&& ~~~1, e.2) }

/-! ## Stashes (R266) -/

/-- Gives a cluster a stash, or takes it away with size 0; the old one is written back. -/
def State.setStash (s : State) (c cl base size tile : Nat) : State :=
  let s := s.stashFlush c cl
  let ok := size % 65536 == 0 && decide (65536 ≤ size ∧ size ≤ 3 * 2 ^ 20 ∧ tile % 65536 = 0 ∧ tile + size ≤ 6 * 2 ^ 20)
  s.modCl c cl fun k => { k with stash := if ok then some { base, size, tile, lines := [] } else none }

/-! ## Memory keys (R344) -/

/-- Retires a key slot: refused while any context's table names it. -/
def State.retireKey (s : State) (k : Nat) : State :=
  if s.ctxs.any fun x => x.2.keys.contains k then s else { s with keysHeld := s.keysHeld.filter fun x => x ≠ k }

/-! ## What a guest reads in its windows (R342, R343; for the submit window see `SubFrame.byte`) -/

/-- The 16 bytes of a counter (R228). -/
def Counter.bytes (k : Counter) : List Byte :=
  bytesLE 2 k.event.toNat ++ [(BitVec.ofBool k.ovf ++ BitVec.ofBool k.shared ++ BitVec.ofBool k.unav ++ BitVec.ofBool k.en).setWidth 8] ++
  bytesLE 5 0 ++ bytesLE 8 k.count.toNat

/-- A byte of the counter window: entry i at byte 16i. -/
def Ctx.counterByte (x : Ctx) (off : Nat) : Byte :=
  match x.counters[off / 16]? with
  | some k => k.bytes.getD (off % 16) 0
  | none => 0

/-- A byte of the fault-notice window: WOFF, and record r at 64 + 64 * (r mod 63). -/
def Ctx.noticeByte (x : Ctx) (off : Nat) : Byte :=
  if off < 64 then (bytesLE 8 x.noticeOff).getD off 0
  else match x.notices[(off - 64) / 64]? with
  | some l => l.getD (off % 64) 0
  | none => 0

/-! ## REGISTER_WRITE (R4) -/

/-- Pelson writes an entry of the counters of a context, or a guest does (R228, R230, R342). -/
def Counter.setEvent (k : Counter) (ev : BitVec 16) (en : Bool) : Counter :=
  { k.fold with event := ev, en, unav := !eventKnown ev, shared := ev == 0x0080 || ev == 0x0081 }

/-- A byte of a submit frame: DESC is stored, a write to BELL submits, the others are read-only (R340). -/
def State.frameByte (s : State) (c : Nat) (f : BitVec 4) (off : Nat) (v : Byte) : State :=
  if off < 192 then s.modCtx c fun x => { x with frames := vmod x.frames f.toNat fun w => { w with desc := w.desc.set! off v } }
  else if off < 200 then s.now (.submitDoorbell c f)
  else s

/-- A byte that Pelson stores into memory (R330, R341): at its home in the partition that has it; there is none at or above 2^39
(R295). -/
def State.outsideByte (s : State) (a : Nat) (v : Byte) : State :=
  match s.ctxs.find? fun x => x.2.inPart a 1 with
  | some (c, _) => s.homeWrite c (s.physKey c a) a false v
  | none => if a < 2 ^ 39 then s.writeKey a v else s

/-- A byte that a guest stores at a guest-physical address: in the range that is mapped onto its partition's memory (R339). -/
def State.guestByte (s : State) (c a : Nat) (v : Byte) : State :=
  let x := s.ctxAt c
  let p := x.svb * 2 ^ 30 + a - x.guestBase
  if decide (x.guestBase ≤ a ∧ a < x.guestBase + x.guestSize) && x.inPart p 1 then s.homeWrite c (s.physKey c p) p false v else s

/-- Changes the mailbox that an AAD names. -/
def State.modBox (s : State) (c : Nat) (aad : BitVec 32) (f : Mailbox → Mailbox) : State :=
  s.modMbx c (aadCore aad) (aadMbx aad) f

/-- What a write of a field of a descriptor or window does; that memory is exhausted is one of Pelson's (R311, R343; DEDUCED,
notes/assumptions/68.md), the boot ROM patch and the debug lock are set from outside, the lock for good (R345; DESIGN CHOICE,
notes/assumptions/79.md), and so is what puts the module to sleep (R14; DESIGN CHOICE, notes/assumptions/75.md). -/
def State.writeDesc (s : State) : Desc → State
  | .root c a => s.modCtx c fun x => { x with root := a.toNat }
  | .rights c a t v => s.modCtx c fun x => { x with rights := vmod x.rights (64 * a.toNat + t.toNat) fun _ => v &&& 0x0F }
  | .grant c v => s.modCtx c fun x => { x with grant := v &&& 0x3FFFF }
  | .keyTable c l => s.modCtx c fun x => { x with keys := l.take 16 }
  | .lockstitch c on => s.modCtx c fun x => { x with lockstitch := on && x.svl % 2 == 0 && decide (4 ≤ x.svl) }
  | .worker c i v => s.modCtx c fun x => { x with workers := vmod x.workers i.toNat fun w => { w with entry := v &&& 0x1FFFFFFFFFF } }
  | .quota c n =>
    let x := s.ctxAt c
    if 1 ≤ n ∧ n ≤ 4096 ∧ n ≤ s.quotaRoom c x.die x.svb then (s.modCtx c fun x => { x with quota := n }).graphExpand c else s
  | .slice c n => if 65536 ≤ n ∧ n ≤ 2 ^ 32 then s.modCtx c fun x => { x with slice := n } else s
  | .faultQueue c a => s.modCtx c fun x => { x with fqBase := a }
  | .tileTag c cl b t => s.modCl c cl fun k => { k with tags := vmod k.tags b fun _ => t }
  | .formatWindow c w a b d e => s.modCtx c fun x => x.setWindow w.toNat (a, b, d, e)
  | .stash c cl base size tile => s.setStash c cl base.toNat size tile
  | .counterEvent c i ev en => s.modCtx c fun x => { x with counters := vmod x.counters i.toNat fun k => k.setEvent ev en }
  | .counterCount c i n => s.modCtx c fun x => { x with counters := vmod x.counters i.toNat fun k => { k with count := n, pending := 0 } }
  | .frameByte c f off v => s.frameByte c f off v
  | .guestDom c d => s.modCtx c fun x => { x with guestDom := d }
  | .debugOwner c core no o =>
    match s.actorAt c core no with
    | some a => { s with actors := s.actors.put (c, core, no) { a with owner := o } }
    | none => s
  | .portBind p c job rccc => { s with ports := vmod s.ports p.toNat fun x => { x with ctx := c, job, rccc, digest := 0 } }
  | .fabricId f => { s with fid := f }
  | .keyHeld k on =>
    if !on then s.retireKey k.toNat
    else if s.keysHeld.contains k.toNat then s
    else { s with keysHeld := s.keysHeld ++ [k.toNat] }
  | .governor die b =>
    let i := if die then 1 else 0
    ({ s with gov := vmod s.gov i fun g => { g with budget := some b } } : State).grantAll i
  | .powerCap w => if s.sid.getLsbD 8 then s else { s with powerCap := min w 1900 }
  | .memory a v => s.outsideByte a v
  | .poison q on =>
    let l := s.poison.filter fun x => x ≠ q
    { s with poison := if on then l ++ [q] else l }
  | .measure i v => { s with spdm := { s.spdm with meas := if i = 0 then s.spdm.meas else vmod s.spdm.meas (i - 1) fun _ => v } }
  | .record c aad ring => s.modBox c aad fun x => { x with ring_ := ring, recorded := 0 }
  | .boxOwner aad on =>
    let l := s.owners.filter fun x => x ≠ aad
    { s with owners := if on then l ++ [aad] else l }
  | .exhausted c => s.terminate c 1
  | .replay c aad l => s.modBox c aad fun x => { x with replay := if x.bobbin.isSome then some (0, l) else none }
  | .asleep => if s.power = .booted then { s with power := .asleep } else s
  | .correctedError stack chan => { s with corrected := s.corrected.put (stack, chan) ((s.corrected.look (stack, chan)).getD 0 + 1) }
  | .guestMemory c base size => s.modCtx c fun x => { x with guestBase := base, guestSize := size }
  | .guestByte c a v => s.guestByte c a v
  | .fuses patch lock => { s with patch, debugLock := s.debugLock || lock }

/-- REGISTER_WRITE (R4). -/
def execRegisterWrite (d : Desc) (s : State) : Host.Outcome State Fault Refusal := .next (s.writeDesc d)

/-! ## Creation and reset -/

/-- Are two intervals of clusters disjoint? -/
def apart (a b : Nat × Nat) : Bool := decide (a.1 + a.2 ≤ b.1) || decide (b.1 + b.2 ≤ a.1)

/-- Are two intervals of clusters the same, or disjoint? -/
def sameOrApart (a b : Nat × Nat) : Bool := a == b || apart a b

/-- Is an interval a partition beside those of the contexts but some (R328)? -/
def State.partitionOk (s : State) (but : List Nat) (svb svl : Nat) : Bool :=
  let others := ((s.ctxs.filter fun y => !y.2.terminated && !but.contains y.1).map fun y => (y.2.svb, y.2.svl)).eraseDups
  decide (1 ≤ svl ∧ svb + svl ≤ 512) && others.all (fun o => sameOrApart (svb, svl) o) &&
  decide (((svb, svl) :: others).eraseDups.length ≤ 32)

/-- CONTEXT_CREATION (R216, R315, R328): a context with nothing placed, every dirty bit set, not running. An interval that breaks R328, or
for which the graph unit has no entry left, creates nothing (DESIGN CHOICE, notes/assumptions/76.md). -/
def execContextCreation (c svb svl : Nat) (s : State) : Host.Outcome State Fault Refusal :=
  let room := s.quotaRoom c (svb / 256) svb
  if s.partitionOk [c] svb svl && room != 0 then
    .next { s with
      ctxs := (s.ctxs.del c) ++ [(c, { svb, svl, quota := min 4096 room })]
      acts := s.acts.filter fun x => x.1.ctx ≠ c
      actors := s.actors.filter fun x => x.1.1 ≠ c
      mbxs := s.mbxs.filter fun x => x.1.1 ≠ c
      coreCtx := s.coreCtx.filter fun x => x.1.1 ≠ c
      clCtx := s.clCtx.filter fun x => x.1.1 ≠ c
      seams := s.seams.filter fun x => x.primary.ctx ≠ c }
  else .next s

/-- A port after a reset of the device: its flows begin anew, under numbers that no peer has seen (DESIGN CHOICE,
notes/assumptions/42.md). -/
def Port.afterReset (x : Port) : Port := { boots := x.boots + (x.epochs.map (·.2)).sum + 1 }

/-- The machine after a warm reset (R4): every register at its reset value; the fuses, the flash and the choice of its slot stay (R336,
R346, R348), and so do the counter of free values and the numbers of the ports' flows. The manual does not say what a reset leaves
of memory, CLM and tile stores, of poison and of the keys of sectors, nor of a sparing (R298) and of a slice's DEC-TED (R299): all of
these are as at power-on here (DESIGN CHOICE, notes/assumptions/75.md). -/
def State.warm (s : State) : State :=
  { State.reset with
    sid := s.sid, slotA := s.slotA, slotB := s.slotB, bootB := s.bootB, svn := s.svn, patch := s.patch, debugLock := s.debugLock, free := s.free, ports := s.ports.map Port.afterReset }

/-- RESET (R4). -/
def execReset (s : State) : Host.Outcome State Fault Refusal := .next s.warm

/-- KEY_RETIRE (R344). -/
def execKeyRetire (slot : BitVec 9) (s : State) : Host.Outcome State Fault Refusal := .next (s.retireKey slot.toNat)

end Sys2Proof.Machine
end

