-- ==== Sys2Proof/Machine/Resize.lean ====
section
/-! DEFINITION. Resizing a partition (R330): the row PARTITION_RESIZE. Where Pelson puts what has to move is its choice; the
model's is notes/assumptions/40.md. -/

namespace Sys2Proof.Machine

/-! ## Words of memory -/

/-- The next multiple of n at or above x. -/
def alignUp (x n : Nat) : Nat := (x + n - 1) / n * n

/-- Reads the 8 bytes of a word. -/
def Memory.readWord (m : Memory) (p : Nat) : Word := BitVec.ofNat 64 (ofBytesLE ((List.range 8).map fun k => m.read (p + k)))

/-- Writes the 8 bytes of a word. -/
def Memory.writeWord (m : Memory) (p : Nat) (w : Word) : Memory :=
  (bytesLE 8 w.toNat).zipIdx.foldl (fun m b => m.write (p + b.2) b.1) m

/-- Moves every address to the place that a function gives it; what it gives no place is dropped. -/
def Memory.moveAll (m : Memory) (f : Nat → Option Nat) : Memory :=
  m.foldl (fun q x => match f x.1 with | some p => q.write p x.2 | none => q) []

/-- The place of an address where [lo, hi) moves to begin at `dest`. -/
def shifted (lo hi dest p : Nat) : Option Nat :=
  if lo ≤ p ∧ p < hi then some (p - lo + dest)
  else if dest ≤ p ∧ p < dest + (hi - lo) then none
  else some p

/-! ## Where the memory of a partition goes (R330, R295) -/

/-- A move of a partition's memory: its old range, its new base and size, and the blocks that do not keep their offset, as old
offset, size and new offset. -/
structure Move where
  lo : Nat
  hi : Nat
  dest : Nat
  size : Nat
  blocks : List (Nat × Nat × Nat)
  deriving DecidableEq, Repr

/-- The place of an address after a move. -/
def Move.place (m : Move) (p : Nat) : Option Nat :=
  let o := p - m.lo
  let covered (o : Nat) : Bool := m.blocks.any fun b => decide (b.2.2 ≤ o ∧ o < b.2.2 + b.2.1)
  if m.lo ≤ p ∧ p < m.hi then
    match m.blocks.find? fun b => decide (b.1 ≤ o ∧ o < b.1 + b.2.1) with
    | some b => some (m.dest + b.2.2 + (o - b.1))
    | none => if o < m.size && !covered o then some (m.dest + o) else none
  else if m.dest ≤ p ∧ (p < m.dest + min m.size (m.hi - m.lo) ∨ covered (p - m.dest)) then none
  else some p

/-- A valid entry of a page table: its address and word, and the size of the page or table that it names. -/
structure Pte where
  at_ : Nat
  word : Word
  size : Nat
  deriving DecidableEq, Repr

/-- The valid entries of a table and of the tables below it that name memory of [lo, hi) (R307). -/
def Memory.ptes (m : Memory) (lo hi : Nat) : List (Nat × Nat × Nat) → Nat → List Pte
  | [], _ => []
  | (lv, sh, n) :: t, tbl =>
    (List.range n).flatMap fun i =>
      let w := m.readWord (tbl + 8 * i)
      let size := if w.getLsbD 1 then 2 ^ sh else 8 * (match t with | [] => 1 | (_, _, k) :: _ => k)
      if !w.getLsbD 0 || pteMalformed lv size w || decide (pteAddr w < lo) || decide (hi < pteAddr w + size) then []
      else { at_ := tbl + 8 * i, word := w, size } :: if w.getLsbD 1 then [] else Memory.ptes m lo hi t (pteAddr w)

/-- An entry with its ADDR moved. -/
def movedPte (m : Move) (w : Word) : Word :=
  (w &&& ~~~0x3FFFFFFFFF00) ||| (BitVec.ofNat 64 ((m.place (pteAddr w)).getD (pteAddr w)) &&& 0x3FFFFFFFFF00)

/-- The entries of the page tables of a context that lie in its partition. -/
def State.ptes (s : State) (c lo hi : Nat) : List Pte :=
  let r := (s.ctxAt c).root
  if lo ≤ r ∧ r + 65536 ≤ hi then s.mem.ptes lo hi walkLevels r else []

/-- A piece of a partition's memory that moves as a whole: offset, size, and the alignment that its place keeps. -/
structure Piece where
  at_ : Nat
  size : Nat
  align : Nat
  deriving DecidableEq, Repr

/-- The pages and tables of contexts. -/
def State.livePieces (s : State) (l : List Nat) (lo hi : Nat) : List Piece :=
  l.flatMap fun c =>
    let r := (s.ctxAt c).root
    (if lo ≤ r ∧ r + 65536 ≤ hi then [{ at_ := r - lo, size := 65536, align := 65536 }] else []) ++
    (s.ptes c lo hi).map fun e => { at_ := pteAddr e.word - lo, size := e.size, align := e.size }

/-- Memory that contexts name by physical addresses: format windows and their scale regions, fault queues, rings of recorded
mailboxes. -/
def State.namedPieces (s : State) (l : List Nat) (lo hi : Nat) : List Piece :=
  let inside (a n align : Nat) : List Piece := if lo ≤ a ∧ a < hi then [{ at_ := a - lo, size := n, align }] else []
  l.flatMap fun c =>
    let x := s.ctxAt c
    (x.fwin.toList.filter fun d => d.1.getLsbD 0).flatMap (fun d =>
      let w := fwinOf d
      inside w.base (w.fin - w.base) 4096 ++ match w.scales with | some r => inside r.1 (r.2 - r.1) 2 | none => []) ++
    inside x.fqBase (32 * fqSize) 32 ++
    (s.mbxs.filter fun y => y.1.1 == c).flatMap fun y => match y.2.ring_ with | some r => inside r.1 r.2 8 | none => []

/-- Do two pieces overlap? -/
def Piece.meets (a b : Piece) : Bool := decide (a.at_ < b.at_ + b.size) && decide (b.at_ < a.at_ + a.size)

/-- Two pieces that overlap, as one. -/
def Piece.join (a b : Piece) : Piece :=
  let lo := min a.at_ b.at_
  { at_ := lo, size := max (a.at_ + a.size) (b.at_ + b.size) - lo, align := max a.align b.align }

/-- Adds a piece to pieces that are apart: it joins those that it overlaps. -/
def addPiece (l : List Piece) (b : Piece) : List Piece := (l.filter fun a => a.meets b).foldl Piece.join b :: l.filter fun a => !a.meets b

/-- The first place from a on that has the alignment of a piece. -/
def Piece.from (b : Piece) (a : Nat) : Nat := a + (b.at_ % b.align + b.align - a % b.align) % b.align

/-- The lowest offset at which a piece fits beside those in use. -/
def firstFit (b : Piece) (limit : Nat) (used : List (Nat × Nat)) : Option Nat :=
  let ok (a : Nat) : Bool := decide (a + b.size ≤ limit) && used.all fun u => decide (a + b.size ≤ u.1) || decide (u.1 + u.2 ≤ a)
  (b.from 0 :: used.map fun u => b.from (u.1 + u.2)).foldl (fun r a =>
    if ok a then (match r with | some b => some (min a b) | none => some a) else r) none

/-- Places pieces one after another; `none` where there is no room. -/
def placePieces (limit : Nat) : List (Nat × Nat) → List Piece → Option (List (Nat × Nat × Nat))
  | _, [] => some []
  | used, b :: t => (firstFit b limit used).bind fun a =>
    (placePieces limit ((a, b.size) :: used) t).map fun r => (b.at_, b.size, a) :: r

/-- How the memory of a partition moves to a new base and size; `none` where what it holds does not fit. -/
def State.planMove (s : State) (l : List Nat) (lo hi dest size : Nat) : Option Move :=
  let fits (b : Piece) : Bool := decide (b.at_ + b.size ≤ size)
  let all := (s.livePieces l lo hi ++ s.namedPieces l lo hi).foldl addPiece []
  (placePieces size ((all.filter fits).map fun b => (b.at_, b.size)) (all.filter fun b => !fits b)).map fun blocks =>
    { lo, hi, dest, size, blocks }

/-- The new place of an address of the old range; others stay. -/
def Move.here (m : Move) (a : Nat) : Nat := if m.lo ≤ a ∧ a < m.hi then (m.place a).getD a else a

/-- A window of a partition that has moved (R330). -/
def movedWindow (m : Move) (d : Word × Word × Word × Word) : Word × Word × Word × Word :=
  if d.1.getLsbD 0 then
    let w := fwinOf d
    (d.1.extractLsb' 46 18 ++ BitVec.ofNat 34 (m.here w.base / 4096) ++ d.1.extractLsb' 0 12,
     d.2.1.extractLsb' 46 18 ++ BitVec.ofNat 34 ((m.here w.base + (w.fin - w.base)) / 4096) ++ d.2.1.extractLsb' 0 12,
     if w.scales.isSome then d.2.2.1.extractLsb' 46 18 ++ BitVec.ofNat 46 (m.here w.sbase) else d.2.2.1, d.2.2.2)
  else d

/-- The lines of a CFLUSH after a move. -/
def FlushSet.moved (x : FlushSet) (m : Move) : FlushSet :=
  match x with
  | .lines l => .lines (l.map fun n => m.here (128 * n) / 128)
  | .every => .every

/-- An entry of an outbound buffer after a move. -/
def OutEntry.moved (e : OutEntry) (m : Move) : OutEntry :=
  match e with
  | .store id va ph strong rel size => .store id va (ph.map fun l => l.map fun x => (m.here x.1, x.2)) strong rel size
  | .flush id sc lines => .flush id sc (lines.map fun l => l.moved m)
  | e => e

/-- What a check has found, after a move. -/
def Checked.moved (x : Checked) (m : Move) : Checked :=
  match x with
  | .pass l => .pass (l.map fun y => (m.here y.1, y.2))
  | x => x

/-- An activation after a move: where its stores go, and no translation that a walk has given. -/
def Act.relocated (a : Act) (m : Move) : Act :=
  { a with outb := a.outb.map fun e => e.moved m, checks := a.checks.map fun p => { p with found := p.found.map fun x => x.moved m }
           main := { a.main with given := none }, acc := { a.acc with given := none } }

/-- Moves the memory of a partition: bytes, keys, poison, entries of page tables, roots, windows, fault queues, rings, and what
activations and engine commands hold of physical addresses. -/
def State.moveMemory (s : State) (l : List Nat) (m : Move) : State :=
  let words := (l.flatMap fun c => s.ptes c m.lo m.hi).map fun e => (e.at_, movedPte m e.word)
  let s := { s with
    mem := words.foldl (fun q w => match m.place w.1 with | some p => q.writeWord p w.2 | none => q) (s.mem.moveAll m.place)
    sectorKeys := s.sectorKeys.filterMap fun (k : Nat × BitVec 9) => (m.place (16 * k.1)).map fun p => (p / 16, k.2)
    poison := s.poison.filterMap fun q => (m.place (16 * q)).map fun p => p / 16
    mbxs := s.mbxs.map fun (y : (Nat × Nat × BitVec 6) × Mailbox) =>
      if l.contains y.1.1 then (y.1, { y.2 with ring_ := y.2.ring_.map fun r => (m.here r.1, r.2) }) else y
    acts := s.acts.map fun (y : SlotId × Act) => if l.contains y.1.ctx then (y.1, y.2.relocated m) else y
    coreCtx := s.coreCtx.map fun (y : (Nat × Nat) × CoreCtx) =>
      let anew (e : EngCmd) : EngCmd := { e with given := none }
      if l.contains y.1.1 then (y.1, { y.2 with copyQ := y.2.copyQ.map anew, gatherQ := y.2.gatherQ.map anew }) else y }
  l.foldl (fun s c => s.modCtx c fun x =>
    { x with root := m.here x.root, fqBase := m.here x.fqBase, fwin := x.fwin.map (movedWindow m) }) s

/-! ## Caches -/

/-- Everything that a cluster has written back of a context: its stash and its cluster cache. -/
def State.flushCluster (s : State) (c cl : Nat) : State := (s.stashFlush c cl).writeBackAll cl

/-- Drops what a cluster caches, its home slice cleaned, and its translations of a context. -/
def State.emptyCluster (s : State) (c cl : Nat) : State :=
  let s := (s.clHwAt cl).slice.foldl (fun s y => s.dropSlice cl y) s
  let s := s.modClHw cl fun k => { k with lines := [], icache := [], stashBits := [] }
  (List.range 8).foldl (fun s i => s.modHw (8 * cl + i) fun k => { k with l1 := [], icache := [] }) (s.dropTlbs c cl none)

/-! ## Cores move -/

/-- Has a core of a context anything but actors that no activation serves? -/
def State.coreBusy (s : State) (c core : Nat) : Bool :=
  let k := s.coreAt c core
  s.acts.any (fun x => x.1.ctx == c && x.1.core == core) || !k.copyQ.isEmpty || !k.gatherQ.isEmpty || !k.inject.isEmpty ||
  !k.releases.isEmpty || !k.closing.isEmpty

/-- Has a context an actor on a core, or anything else that goes on there? -/
def State.occupied (s : State) (c core : Nat) : Bool :=
  s.actors.any (fun x => x.1.1 == c && x.1.2.1 == core) || s.coreBusy c core

/-- Where a stream, or a store, waits for a translation that its cluster has given up, it asks for it anew. -/
def StreamSt.again (x : StreamSt) : StreamSt :=
  match x.wait with
  | .walk _ | .fault _ _ | .probe _ => { x with wait := .ready }
  | _ => x

/-- A mailbox of an actor whose number on its core is now n. -/
def mbxUnder (n : Nat) (m : BitVec 6) : BitVec 6 := BitVec.ofNat 6 (4 * n + m.toNat % 4)

/-- A stream of an actor whose number on its core is now n. -/
def StreamSt.under (x : StreamSt) (n : Nat) : StreamSt :=
  match x.wait with
  | .closing m => { x with wait := .closing (mbxUnder n m) }
  | _ => x

/-- An activation on a core that has moved. -/
def Act.migrated (a : Act) (sid : SlotId → SlotId) (n : Nat) : Act :=
  { a with actor := n, mbx := mbxUnder n a.mbx, win := a.win.map sid, main := a.main.again.under n, acc := a.acc.again.under n
           checks := a.checks.map fun p => { p with waits := none }, dirtyWs := BitVec.allOnes 16 }

/-- An event of a core that has moved. -/
def movedEvent (sid : SlotId → SlotId) (c k k2 : Nat) : Instr → Instr
  | .outboundRelease t => .outboundRelease (sid t)
  | .storeCheck t n => .storeCheck (sid t) n
  | .budgetKill t => .budgetKill (sid t)
  | .uncorrectableErrorKill t => .uncorrectableErrorKill (sid t)
  | .waitcComplete t x => .waitcComplete (sid t) x
  | .cbwaitComplete t x => .cbwaitComplete (sid t) x
  | .streamFetch t g => .streamFetch (sid t) g
  | .nodeAccept d l m cl dom ws (.stream t x) => .nodeAccept d l m cl dom ws (.stream (sid t) x)
  | .delayedInjection d j m => if d = c ∧ j = k then .delayedInjection c k2 m else .delayedInjection d j m
  | .releaseDone d j => if d = c ∧ j = k then .releaseDone c k2 else .releaseDone d j
  | i => i

/-- Notice 0x001D of an actor that has migrated: core and number before and after. -/
def movedNote (a : Actor) (k n k2 n2 : Nat) : List Byte :=
  noticeBytes 0x001D 1 0 0 a.aid 0 0 (aadOf k (BitVec.ofNat 6 (4 * n)) ++ aadOf k2 (BitVec.ofNat 6 (4 * n2)))

/-- An actor has migrated: its notice waits for the restart, and where it is the supervisor, SUPV names its new place (R330; DESIGN CHOICE,
notes/assumptions/40.md). -/
def State.actorMoved (s : State) (c : Nat) (a : Actor) (k n k2 n2 : Nat) : State :=
  let own := s.ownsSupv c k n
  s.modCtx c fun x => { x with
    moved := x.moved ++ [movedNote a k n k2 n2]
    supv := if own then aadOf k2 (mbxUnder n2 (aadMbx x.supv)) else x.supv }

/-- A node that waits for operations of a core that has moved. -/
def Node.follow (n : Node) (k k2 : Nat) : Node :=
  match n.st with
  | .ending w l => { n with st := .ending w (l.map fun y => if y.1 = k then (k2, y.2) else y) }
  | _ => n

/-- A store-fault record of a core that has moved. -/
def FaultReport.follow (r : FaultReport) (k k2 : Nat) : FaultReport := if r.core = k then { r with core := k2 } else r

/-- The timeline counters of a core once it has moved: all commands of its tile queue and all its releases are over. -/
def CoreCtx.movedTlc (x : CoreCtx) : Vector Tlc 4 :=
  (x.tlc.set 0 { x.tlc[0] with present := x.tlc[0].assigned }).set 3 { x.tlc[3] with present := x.tlc[3].assigned }

/-- An engine command of a core that has moved: it asks for its translations anew. -/
def EngCmd.migrated (e : EngCmd) (sid : SlotId → SlotId) : EngCmd := { e with waits := none, owner := e.owner.map sid }

/-- What a core keeps for a context once it has moved: not what R330 discards, every dirty bit set, its tile commands over with the
tile store, and the releases whose messages are still in the mesh as well (notes/assumptions/40.md). -/
def CoreCtx.moved (x : CoreCtx) (sid : SlotId → SlotId) : CoreCtx :=
  let d : CoreCtx := {}
  { x with sw := d.sw, acc0 := d.acc0, acc1 := d.acc1, tile := [], dirty := BitVec.allOnes 512, releases := []
           tlc := x.movedTlc, copyQ := x.copyQ.map (·.migrated sid), gatherQ := x.gatherQ.map (·.migrated sid) }

/-- The actors of a core migrate to another (R164, R330): with their activations, mailboxes, bobbins, CLM and counters. -/
def State.moveCore (s : State) (c k k2 : Nat) : State :=
  let sid (t : SlotId) : SlotId := if t.ctx = c ∧ t.core = k then { t with core := k2 } else t
  let gone := s.actors.filter fun a => a.1.1 == c && a.1.2.1 == k
  let mine := (s.acts.filter fun a => a.1.ctx == c && a.1.core == k).map fun a => sid a.1
  let key := clmKey c k 0
  let s := { s with
    mem := s.mem.moveAll (shifted key (key + 131072) (clmKey c k2 0))
    poison := s.poison.filterMap fun q => (shifted key (key + 131072) (clmKey c k2 0) (16 * q)).map fun p => p / 16
    agenda := s.agenda.map fun (e : Nat × Instr) => (e.1, movedEvent sid c k k2 e.2)
    acts := s.acts.map fun (a : SlotId × Act) => if a.1.ctx = c ∧ a.1.core = k then (sid a.1, a.2.migrated sid a.2.actor) else (a.1, { a.2 with win := a.2.win.map sid })
    actors := s.actors.map fun (a : (Nat × Nat × Nat) × Actor) => (if a.1.1 = c ∧ a.1.2.1 = k then (c, k2, a.1.2.2) else a.1, a.2)
    mbxs := s.mbxs.map fun (a : (Nat × Nat × BitVec 6) × Mailbox) => (if a.1.1 = c ∧ a.1.2.1 = k then (c, k2, a.1.2.2) else a.1, a.2)
    coreCtx := (s.coreCtx.del (c, k)).put (c, k2) ((s.coreAt c k).moved sid)
    seams := s.seams.map fun (z : Seam) => { z with primary := sid z.primary, secondary := sid z.secondary } }
  let s := s.modCtx c fun x => { x with nodes := x.nodes.map (·.follow k k2), reports := x.reports.map (·.follow k k2) }
  let s := gone.foldl (fun s a => s.actorMoved c a.2 k a.1.2.2 k2 a.1.2.2) s
  mine.foldl (fun s t => s.recheck t) s

/-- The local pages of an actor. -/
def Actor.pages (a : Actor) : List Nat :=
  let p := (a.stateBase.toNat - 2 ^ 55) / 4096
  (List.range (max 1 ((a.stk.toNat - 2 ^ 55 + 4095) / 4096 - p))).map fun i => p + i

/-- Is a local page of a core an actor's? -/
def State.pageTaken (s : State) (c core p : Nat) : Bool :=
  s.actors.any fun x => x.1.1 == c && x.1.2.1 == core && x.2.pages.contains p

/-- Depths of the queue mailboxes of an actor. -/
def State.actorDepth (s : State) (c core n : Nat) : Nat :=
  ((s.mbxs.filter fun x => x.1.1 == c && x.1.2.1 == core && x.1.2.2.toNat / 4 == n && x.2.kind == .queue).map fun x => x.2.depth).sum

/-- The activations of an actor. -/
def State.slotsOf (s : State) (c k n : Nat) : List SlotId :=
  (s.acts.filter fun x => x.1.ctx == c && x.1.core == k && x.2.actor == n).map (·.1)

/-- Can two counters be one, so that on each side as many operations are over as before? -/
def Tlc.joins (a b : Tlc) : Bool :=
  (a.present == a.assigned || decide (b.assigned ≤ a.present)) && (b.present == b.assigned || decide (a.assigned ≤ b.present))

/-- Two counters that are one from now on. -/
def joinTlc (a b : Tlc) : Tlc :=
  { assigned := max a.assigned b.assigned, present := max a.present b.present, failed := max a.failed b.failed }

/-- Can a core take over the activations of another, and the commands that they wait for? -/
def CoreCtx.joins (y x : CoreCtx) : Bool := (List.finRange 4).all fun i => y.tlc[i].joins x.movedTlc[i]

/-- The number under which an actor migrates to a core: its own where that is free, else the lowest that is. -/
def State.newNumber (s : State) (c n k2 : Nat) : Option Nat :=
  (n :: List.range 16).find? fun i =>
    (s.actorAt c k2 i).isNone && (s.coreAt c k2).closing.all fun y => y.mbx.toNat / 4 != i

/-- The number under which an actor can migrate alone to a core: its pages, which are attributes that it keeps (R164), and the slots of
its activations, which it keeps too (R214), are free there, and its mailboxes are within the limits of R168. -/
def State.roomFor (s : State) (c k n : Nat) (a : Actor) (k2 : Nat) : Option Nat :=
  if a.pages.all (fun p => !s.pageTaken c k2 p) && ((s.slotsOf c k n).all fun t => (s.acts.look { t with core := k2 }).isNone) &&
     decide (((List.range 16).map fun i => s.actorDepth c k2 i).sum + s.actorDepth c k n ≤ 96) &&
     decide (s.reserveUsed c k2 + s.reserveUsed c k ≤ 32)
  then s.newNumber c n k2
  else none

/-- An actor migrates alone to a core under a number, with its activations and what is to be sent for it (R164, R330). -/
def State.moveActor (s : State) (c k n : Nat) (a : Actor) (k2 n2 : Nat) : State :=
  let own (m : BitVec 6) : Bool := m.toNat / 4 == n
  let mine := s.slotsOf c k n
  let sid (t : SlotId) : SlotId := if mine.contains t then { t with core := k2 } else t
  let x := s.coreAt c k
  let out (m : Msg) : Bool := aadActor m.src == n
  let s := (a.pages ++ mine.map (·.slot)).foldl (fun s p =>
    let key := clmKey c k (4096 * p)
    let go := shifted key (key + 4096) (clmKey c k2 (4096 * p))
    ({ s with mem := s.mem.moveAll go, poison := s.poison.filterMap fun q => (go (16 * q)).map fun p => p / 16 } : State).modCore c k2
      fun y => { y with tags := vmod y.tags p fun t => (x.tags[p]?).getD t }) s
  let s := s.modCore c k2 fun y => { y with
    dirty := BitVec.allOnes 512, inject := y.inject ++ x.inject.filter fun m => out m.1
    closing := y.closing ++ (x.closing.filter fun z => own z.mbx).map fun z => { z with mbx := mbxUnder n2 z.mbx }
    tlc := if mine.isEmpty then y.tlc else Vector.ofFn fun i => joinTlc y.tlc[i] x.movedTlc[i] }
  let s := s.modCore c k fun y => { y with
    inject := y.inject.filter fun m => !out m.1, closing := y.closing.filter fun z => !own z.mbx
    copyQ := y.copyQ.map (·.migrated sid), gatherQ := y.gatherQ.map (·.migrated sid) }
  let s := { s with
    agenda := s.agenda.map fun (e : Nat × Instr) => (e.1, match e.2 with
      | .delayedInjection d j m => .delayedInjection d (if d = c ∧ j = k ∧ out m then k2 else j) m
      | i => movedEvent sid c k k i)
    acts := s.acts.map fun (y : SlotId × Act) =>
      if mine.contains y.1 then (sid y.1, y.2.migrated sid n2) else (y.1, { y.2 with win := y.2.win.map sid })
    seams := s.seams.map fun (z : Seam) => { z with primary := sid z.primary, secondary := sid z.secondary }
    actors := s.actors.map fun (y : (Nat × Nat × Nat) × Actor) => (if y.1 = (c, k, n) then (c, k2, n2) else y.1, y.2)
    mbxs := (s.mbxs.filter fun (y : (Nat × Nat × BitVec 6) × Mailbox) => !(y.1.1 == c && y.1.2.1 == k2 && y.1.2.2.toNat / 4 == n2)).map
      fun (y : (Nat × Nat × BitVec 6) × Mailbox) =>
        (if y.1.1 = c ∧ y.1.2.1 = k ∧ own y.1.2.2 then (c, k2, mbxUnder n2 y.1.2.2) else y.1, y.2) }
  mine.foldl (fun s t => s.recheck (sid t)) (s.actorMoved c a k n k2 n2)

/-- Moves the actors of a core one by one, those that activations serve to cores of `ok`. -/
def State.moveActors (s : State) (c k : Nat) (into ok : List Nat) : List (Nat × Actor) → Option State
  | [] => some s
  | (n, a) :: t =>
    let l := if (s.slotsOf c k n).isEmpty then into else into.filter ok.contains
    (l.findSome? fun k2 => (s.roomFor c k n a k2).map fun n2 => (k2, n2)).bind fun y =>
      State.moveActors (s.moveActor c k n a y.1 y.2) c k into ok t

/-- What is left of a core whose actors have migrated one by one goes to one core: engine commands, messages to be sent, bobbins that
are closing, and store-fault records. -/
def State.moveRest (s : State) (c k k2 : Nat) : State :=
  let x := s.coreAt c k
  let queued := !x.copyQ.isEmpty || !x.gatherQ.isEmpty
  let s := s.modCore c k2 fun y => { y with
    copyQ := y.copyQ ++ x.copyQ.map (·.migrated id), gatherQ := y.gatherQ ++ x.gatherQ.map (·.migrated id)
    inject := y.inject ++ x.inject, closing := y.closing ++ x.closing
    tlc := if queued then Vector.ofFn fun i => joinTlc y.tlc[i] x.movedTlc[i] else y.tlc }
  ({ s with agenda := s.agenda.map fun (e : Nat × Instr) => (e.1, movedEvent id c k k2 e.2) } : State).modCtx c fun y =>
    { y with reports := y.reports.map (·.follow k k2) }

/-- Nodes no longer wait for the operations of a core, which are over. -/
def Node.without (n : Node) (k : Nat) : Node :=
  match n.st with
  | .ending w l => { n with st := .ending w (l.filter fun y => y.1 ≠ k) }
  | _ => n

/-- Moves the actors of a core one by one: where an engine has commands of the core, those that activations serve go to one core and
the commands with them; else to any cores that can join its counters. -/
def State.scatterCore (s : State) (c k : Nat) (into : List Nat) : Option State :=
  let x := s.coreAt c k
  let ok := into.filter fun k2 => (s.coreAt c k2).joins x
  let actors := (s.actors.filter fun a => a.1.1 == c && a.1.2.1 == k).map fun a => (a.1.2.2, a.2)
  if x.copyQ.isEmpty && x.gatherQ.isEmpty then
    (s.moveActors c k into ok actors).map fun s =>
      (s.moveRest c k (into.head?.getD k)).modCtx c fun x => { x with nodes := x.nodes.map (·.without k) }
  else ok.findSome? fun k2 =>
    (s.moveActors c k into [k2] actors).map fun s =>
      (s.moveRest c k k2).modCtx c fun x => { x with nodes := x.nodes.map (·.follow k k2) }

/-- Moves what is on the cores that leave, in order: a core together to the first free one of `into`, or where there is none, its actors
one by one to cores that have room; `none` where there is no place for them. -/
def State.moveCores (s : State) (c : Nat) (into : List Nat) : List Nat → Option State
  | [] => some s
  | k :: t =>
    let s1 : Option State := match into.find? fun k2 => !s.occupied c k2 with
      | some k2 => some (s.moveCore c k k2)
      | none => s.scatterCore c k into
    s1.bind fun s => State.moveCores s c into t

/-- Forgets the bytes and the poison of a range of local memory. -/
def State.clearKeys (s : State) (lo hi : Nat) : State :=
  let gone (a : Nat) : Bool := decide (lo ≤ a) && decide (a < hi)
  { s with mem := s.mem.filter fun x => !gone x.1, poison := s.poison.filter fun q => !gone (16 * q) }

/-- A cluster of a context is discarded, or joins empty with every dirty bit set (R216, R330). -/
def State.clearCluster (s : State) (c cl : Nat) : State :=
  ({ s with clCtx := s.clCtx.del (c, cl) } : State).clearKeys (tileKey c cl 0) (tileKey c cl 0x600000)

/-- A core of a context is discarded, or joins empty. -/
def State.clearCore (s : State) (c core : Nat) : State :=
  ({ s with coreCtx := s.coreCtx.del (c, core) } : State).clearKeys (clmKey c core 0) (clmKey c core 131072)

/-- A cluster and its cores. -/
def State.clearAll (s : State) (c cl : Nat) : State :=
  (List.range 8).foldl (fun s k => s.clearCore c (8 * cl + k)) (s.clearCluster c cl)

/-- A cluster that leaves: its walks for the context are given up with its caches. -/
def State.leaveCluster (s : State) (c cl : Nat) : State :=
  (s.clearAll c cl).modClHw cl fun k => { k with walks := k.walks.filter fun w => w.ctx ≠ c }

/-! ## Lockstitch (R349, R350) -/

/-- Copies the bytes of [lo, hi) to begin at `to`. -/
def Memory.copyRange (m : Memory) (lo hi dest : Nat) : Memory :=
  (m.filter fun x => decide (lo ≤ x.1) && decide (x.1 < hi)).foldl (fun m x => m.write (x.1 - lo + dest) x.2)
    (m.filter fun x => !(decide (dest ≤ x.1) && decide (x.1 < dest + (hi - lo))))

/-- Clusters of an interval that hold actors: the first half under lockstitch (R349). -/
def Ctx.primaries (x : Ctx) (svl : Nat) : Nat := if x.lockstitch then svl / 2 else svl

/-- Takes the secondary copies of a context in lockstitch away. -/
def State.dropSeconds (s : State) (c : Nat) : State :=
  let x := s.ctxAt c
  let second (core : Nat) : Bool := x.lockstitch && decide (x.svb + x.svl / 2 ≤ nodeOf core) && x.holdsCluster (nodeOf core)
  { s with acts := s.acts.filter fun a => a.1.ctx ≠ c ∨ !second a.1.core
           actors := s.actors.filter fun a => a.1.1 ≠ c ∨ !second a.1.2.1
           coreCtx := s.coreCtx.filter fun k => k.1.1 ≠ c ∨ !second k.1.2 }

/-- Gives every core and cluster of the primary half its copy in the secondary half (R349, R350). -/
def State.copySeconds (s : State) (c : Nat) : State :=
  let x := s.ctxAt c
  let h := x.svl / 2
  if !x.lockstitch then s
  else
    let sid (t : SlotId) : SlotId := { t with core := t.core + 8 * h }
    let s := (List.range h).foldl (fun s i =>
      let cl := x.svb + i
      let s := { s with
        mem := s.mem.copyRange (tileKey c cl 0) (tileKey c cl 0x600000) (tileKey c (cl + h) 0)
        clCtx := s.clCtx.put (c, cl + h) (s.clAt c cl) }
      (List.range 8).foldl (fun s j =>
        let k := 8 * cl + j
        { s with
          mem := s.mem.copyRange (clmKey c k 0) (clmKey c k 131072) (clmKey c (k + 8 * h) 0)
          coreCtx := s.coreCtx.put (c, k + 8 * h) { s.coreAt c k with releases := [], inject := [], seqs := [] } }) s) s
    { s with
      acts := s.acts ++ (s.acts.filter fun a => a.1.ctx == c).map fun (a : SlotId × Act) => (sid a.1, { a.2 with win := a.2.win.map sid })
      actors := s.actors ++ (s.actors.filter fun a => a.1.1 == c && decide (nodeOf a.1.2.1 < 512)).map
        fun (a : (Nat × Nat × Nat) × Actor) => ((c, a.1.2.1 + 8 * h, a.1.2.2), a.2)
      seams := s.seams.map fun (z : Seam) => if z.primary.ctx = c then { z with secondary := sid z.primary } else z }

/-! ## The resize -/

/-- Clusters of the first of two intervals that are not in the second. -/
def beyond (b l b2 l2 : Nat) : List Nat := ((List.range l).map fun i => b + i).filter fun i => decide (i < b2 ∨ b2 + l2 ≤ i)

/-- The cluster of an interval next to a cluster (R330). -/
def nearest (svb svl cl : Nat) : Nat := if 512 ≤ cl then cl else max svb (min cl (svb + svl - 1))

/-- A node whose cluster leaves has its accesses made by the next cluster of the interval; one that waits there asks again (R329). -/
def Node.within (n : Node) (svb svl : Nat) : Node :=
  let cl := nearest svb svl n.cluster
  if cl = n.cluster then n
  else { n with cluster := cl, st := match n.st with | .evaluating _ => .evaluating none | t => t }

/-- What a context waits to write, by clusters of its new interval (R329). -/
def Ctx.within (x : Ctx) : Ctx :=
  { x with nodes := x.nodes.map (·.within x.svb x.svl)
           dones := x.dones.map fun d => { d with cluster := nearest x.svb x.svl d.cluster }
           fqOut := x.fqOut.map fun e => { e with cluster := nearest x.svb x.svl e.cluster }
           reports := x.reports.map fun r => { r with core := 8 * nearest x.svb x.svl (nodeOf r.core) + r.core % 8 } }

/-- The acceptance of a node under way, by a cluster of the new interval of its context (R329). -/
def acceptWithin (c svb svl : Nat) : Instr → Instr
  | .nodeAccept d l m cl dom ws a => .nodeAccept d l m (if d = c then nearest svb svl cl else cl) dom ws a
  | i => i

/-- One context of the partition moves to the new interval; the partition's memory has moved already. -/
def State.resizeContext (s : State) (c svb svl : Nat) : Option State :=
  let x := s.ctxAt c
  let p := x.primaries svl
  let s := s.dropSeconds c
  let s := (beyond svb svl x.svb x.svl).foldl (fun s i => s.clearAll c i) s
  let cores := ((beyond x.svb (x.primaries x.svl) svb p).flatMap fun i => (List.range 8).map fun k => 8 * i + k).filter fun k => s.occupied c k
  let into := (List.range (8 * p)).map fun i => 8 * svb + i
  (s.moveCores c into (cores.filter (s.coreBusy c) ++ cores.filter fun k => !s.coreBusy c k)).map fun s =>
    let leaving := beyond x.svb x.svl svb svl
    let s := leaving.foldl (fun s i => s.leaveCluster c i) s
    let s : State := { s with agenda := s.agenda.map fun (e : Nat × Instr) => (e.1, acceptWithin c svb svl e.2) }
    (s.modCtx c fun x => { x with
      svb, svl
      moved := x.moved ++ leaving.map fun i => noticeBytes 0x001D 2 0 0 0 0 0 (BitVec.ofNat 64 i) }.within).copySeconds c

/-- Moves the contexts of a partition one after another. -/
def State.resizeAll (s : State) (svb svl : Nat) : List Nat → Option State
  | [] => some s
  | c :: t => (s.resizeContext c svb svl).bind fun s => State.resizeAll s svb svl t

/-- A quota that the die of the new interval cannot hold becomes what it can (R315). -/
def State.fitQuotas (s : State) (l : List Nat) : State :=
  l.foldl (fun s c =>
    let x := s.ctxAt c
    s.modCtx c fun y => { y with quota := min y.quota (s.quotaRoom c x.die x.svb) }) s

/-- Is a resize one that R315, R328 and R349 allow, while no context of the partition runs (R330)? The new interval is disjoint from those
of the other partitions. -/
def State.resizable (s : State) (c svb svl : Nat) : Bool :=
  let l := s.siblings c
  l.all (fun k => !(s.ctxAt k).running) && s.partitionOk l svb svl &&
  (s.ctxs.all fun y => y.2.terminated || l.contains y.1 || apart (svb, svl) (y.2.svb, y.2.svl)) && s.quotaRoom c (svb / 256) (s.ctxAt c).svb != 0 &&
  l.all fun k => !(s.ctxAt k).lockstitch || (svl % 2 == 0 && decide (4 ≤ svl))

/-- The partition of a context with its new interval; `none` where what it holds has no place there. -/
def State.resized (s : State) (c svb svl : Nat) : Option State :=
  let x := s.ctxAt c
  let l := s.siblings c
  let cls := (List.range x.svl).map fun i => x.svb + i
  let s := cls.foldl (fun s cl => l.foldl (fun s k => s.flushCluster k cl) s) s
  let s := cls.foldl (fun s cl => l.foldl (fun s k => s.emptyCluster k cl) s) s
  (s.planMove l (x.svb * 2 ^ 30) ((x.svb + x.svl) * 2 ^ 30) (svb * 2 ^ 30) (svl * 2 ^ 30)).bind fun m =>
    ((s.moveMemory l m).resizeAll svb svl l).map fun s => s.fitQuotas l

/-- PARTITION_RESIZE (R328, R330); one that is not allowed, or for which there is no place, is not carried out (DESIGN CHOICE,
notes/assumptions/76.md). -/
def execPartitionResize (c svb svl : Nat) (s : State) : Host.Outcome State Fault Refusal :=
  if s.resizable c svb svl then .next ((s.resized c svb svl).getD s) else .next s

end Sys2Proof.Machine
end

