-- ==== Sys2Proof/Machine/Launch.lean ====
section
/-! DEFINITION. The loader (R188, R235-R239, R375): the row LAUNCH. It maps sections, grants entries, places actors and
releases the launch messages; a launch that breaks a limit is rejected whole. -/

namespace Sys2Proof.Machine

/-! ## Page tables (R236, R306, R307) -/

/-- Makes n bytes read as nothing was written there. -/
def Memory.clear (m : Memory) (p n : Nat) : Memory := m.filter fun x => !(decide (p ≤ x.1) && decide (x.1 < p + n))

/-- Enters a leaf of 64 KiB for an address, adding tables from `next` on. -/
def Memory.mapPage (va : Nat) (leaf : Word) : List (Nat × Nat × Nat) → Memory × Nat → Nat → Memory × Nat
  | [], r, _ => r
  | [(_, sh, n)], (m, next), tbl => (m.writeWord (tbl + 8 * (va >>> sh % n)) leaf, next)
  | (_, sh, n) :: (lv, sh2, n2) :: t, (m, next), tbl =>
    let p := tbl + 8 * (va >>> sh % n)
    let w := m.readWord p
    if w.getLsbD 0 && !w.getLsbD 1 then Memory.mapPage va leaf ((lv, sh2, n2) :: t) (m, next) (pteAddr w)
    else
      let q := alignUp next (8 * n2)
      Memory.mapPage va leaf ((lv, sh2, n2) :: t) ((m.clear q (8 * n2)).writeWord p (BitVec.ofNat 64 (q + 1)), q + 8 * n2) q

/-- The leaf of a section's page (R307). -/
def leafWord (phys : Nat) (perm : BitVec 3) (dom : BitVec 6) (key : BitVec 9) : Word :=
  BitVec.ofNat 64 (phys + 3 + perm.toNat * 4) ||| (dom.setWidth 64 <<< 48) ||| (key.setWidth 64 <<< 54)

/-- R, W and X of a section's pages (R236, R239). -/
def kindPerm : SectionKind → BitVec 3
  | .code => 0b101
  | .data => 0b011
  | .ro => 0b001

/-- Number of the 64 KiB pages that hold a byte of a section at an address. -/
def sectionPages (x : SectionMap) (va : Nat) : Nat := if x.bytes.isEmpty then 0 else (va % 65536 + x.bytes.length + 65535) / 65536

/-- The addresses of sections: one that has none takes the 64 KiB boundary behind all that have an address or come before it (R236;
which boundary: DESIGN CHOICE, notes/assumptions/41.md). -/
def sectionPlaces : Nat → List SectionMap → List (Nat × SectionMap)
  | _, [] => []
  | top, x :: t => match x.va with
    | some a => (a.toNat, x) :: sectionPlaces top t
    | none => (top, x) :: sectionPlaces (top + 65536 * max 1 (sectionPages x top)) t

/-- The sections of a plan with their addresses. -/
def planPlaces (p : LaunchPlan) : List (Nat × SectionMap) :=
  sectionPlaces (p.sections.foldl (fun top x => match x.va with
    | some a => max top (alignUp (a.toNat + x.bytes.length) 65536)
    | none => top) 65536) p.sections

/-- Do sections keep to their limits: addresses that are multiples of 4,096, pages in the partition's memory, and no page with bytes of
two sections (R160, R236)? -/
def placesOk (x : Ctx) : List (Nat × SectionMap) → Bool
  | [] => true
  | (a, y) :: t =>
    let n := sectionPages y a
    decide (a % 4096 = 0 ∧ a + y.bytes.length ≤ 2 ^ 55 ∧ y.phys % 65536 = 0) && x.inPart y.phys (65536 * n) &&
    (t.all fun z => decide (a / 65536 + n ≤ z.1 / 65536) || decide (z.1 / 65536 + sectionPages z.2 z.1 ≤ a / 65536) || n == 0 || sectionPages z.2 z.1 == 0) &&
    placesOk x t

/-! ## Values of labels (R372) -/

/-- Bytes with n of them, from an offset on, replaced by a number's. -/
def putField (bs : List Byte) (off n x : Nat) : List Byte := bs.take off ++ bytesLE n x ++ bs.drop (off + n)

/-- A list with one element changed. -/
def modNth {α : Type} (l : List α) (i : Nat) (f : α → α) : List α := l.zipIdx.map fun x => if x.2 = i then f x.1 else x.1

/-- Puts the value of a label where a plan uses it. -/
def putLabel (p : LaunchPlan) (v : Nat) : LabelPlace → LaunchPlan
  | .part i off n => { p with sections := modNth p.sections i fun x => { x with bytes := putField x.bytes off n v } }
  | .state i off n => { p with actors := modNth p.actors i fun d => { d with state := putField d.state off n v } }
  | .payload i off n => { p with msgs := modNth p.msgs i fun m => { m with payload := putField m.payload off n v } }
  | .handler i h => { p with actors := modNth p.actors i fun d => { d with
      handlers := modNth d.handlers h fun x => (x.1, x.2.1, BitVec.ofNat 64 v, x.2.2.2) } }

/-- The loader supplies the values of labels: the address of each label's section and its offset there (R236, R372). -/
def resolveLabels (p : LaunchPlan) : LaunchPlan :=
  let places := planPlaces p
  p.labels.foldl (fun q u => putLabel q (((places[u.section_]?).elim 0 fun y => y.1 + u.offset) >>> u.shift) u.place) p

/-- Are a label and the place of its use within the plan's sections, states, payloads and handlers? -/
def labelOk (p : LaunchPlan) (u : LabelUse) : Bool :=
  decide (u.section_ < p.sections.length) && decide (u.shift < 64) &&
  (match u.place with
    | .part i off n => (p.sections[i]?).any fun x => decide (off + n ≤ x.bytes.length)
    | .state i off n => (p.actors[i]?).any fun d => decide (off + n ≤ d.state.length)
    | .payload i off n => (p.msgs[i]?).any fun m => decide (off + n ≤ m.payload.length)
    | .handler i h => (p.actors[i]?).any fun d => decide (h < d.handlers.length))

/-! ## Mapping sections (R236) -/

/-- What the caches of a cluster hold of physical memory from p on goes, as the loader gives it new contents. -/
def State.forget (s : State) (cl p n : Nat) : State :=
  let gone (l : Nat) : Bool := decide (p ≤ 128 * l) && decide (128 * l < p + n)
  let s := s.modClHw cl fun k => { k with
    lines := k.lines.filter fun x => !gone x.line, icache := k.icache.filter fun x => !gone x.line
    slice := k.slice.filter fun x => !gone x.line, stashBits := k.stashBits.filter fun x => !gone x.1 }
  (List.range 8).foldl (fun s i => s.modHw (8 * cl + i) fun k => { k with
    l1 := k.l1.filter fun l => !gone l, icache := k.icache.filter fun x => !gone x.line }) s

/-- Maps the pages of a section, from `tables` on, and writes its bytes; the rest of its pages is zero (R236). -/
def State.mapSection (s : State) (c root : Nat) (key : BitVec 9) (next va : Nat) (x : SectionMap) : State × Nat :=
  let n := sectionPages x va
  let size := 65536 * n
  let gone (q : Nat) : Bool := decide (x.phys ≤ 16 * q) && decide (16 * q < x.phys + size)
  let (m, next) := (List.range n).foldl (fun r i =>
    Memory.mapPage (va / 65536 * 65536 + 65536 * i) (leafWord (x.phys + 65536 * i) (kindPerm x.kind) x.dom key) walkLevels r root)
    (s.mem.clear x.phys size, next)
  let s := { s with
    mem := m, sectorKeys := s.sectorKeys.filter fun k => !gone k.1, poison := s.poison.filter fun q => !gone q }
  let s := (s.clHw.map (·.1)).foldl (fun s cl => s.forget cl x.phys size) s
  (x.bytes.zipIdx.foldl (fun s b => s.homeWrite c key (x.phys + va % 65536 + b.2) true b.1) s, next)

/-! ## Placing actors (R375) -/

/-- Bytes of the stack area. -/
def declStack (d : ActorDecl) : Nat := if d.parallel then 8 * d.stksz else d.stksz

/-- Pages that an actor needs: at least one. -/
def declPages (d : ActorDecl) : Nat := max 1 ((alignUp d.state.length 128 + declStack d + 4095) / 4096)

/-- The core number of a placement. -/
def declCore (d : ActorDecl) : Nat := 8 * d.node + d.core

/-- The first of n free pages in a row, of pages 11 to 31. -/
def State.freePages (s : State) (c core n : Nat) : Option Nat :=
  ((List.range 21).map fun i => 11 + i).find? fun p =>
    decide (p + n ≤ 32) && (List.range n).all fun i => !s.pageTaken c core (p + i)

/-- The lowest free actor number of a core; a gateway core has no actor 15 (R358). -/
def State.freeActor (s : State) (c core : Nat) : Option Nat :=
  (List.range (if nodeOf core < 512 then 16 else 15)).find? fun i => (s.actorAt c core i).isNone

/-- Is the place of an actor one of the context's: a primary cluster of its partition, or a gateway core it may use (R9, R349)? -/
def Ctx.placeOk (x : Ctx) (d : ActorDecl) : Bool :=
  if d.node < 512 then
    decide (x.svb ≤ d.node) && decide (d.node < x.svb + x.primaries x.svl) && decide (d.core < 8)
  else decide (d.node < 528) && x.mayReach d.node && decide (d.core < 4)

/-- Are the mailboxes and handlers of an actor within the limits of R168 and R183? -/
def declOk (d : ActorDecl) : Bool :=
  decide (d.stksz % 128 = 0 ∧ 128 ≤ d.stksz ∧ d.stksz ≤ 32768) &&
  (d.mailboxes.all fun x => decide (x.1 < 4) &&
    (match x.2.1 with
      | some (depth, _, prio) => decide (1 ≤ depth ∧ depth ≤ 64 ∧ prio < 4)
      | none => true) &&
    (x.2.2.2 == 0 || decide (x.2.2.1 % 4096 = 0 ∧ x.2.2.2 % 4096 = 0 ∧ x.2.2.2 ≤ 2 ^ 30 ∧ x.2.2.1 + x.2.2.2 ≤ 2 ^ 55))) &&
  d.handlers.all fun x => decide (x.1 < 4 ∧ x.2.1 < 16) && codeAligned x.2.2.1

/-- A mailbox as the loader sets it. -/
def declMailbox (x : Option (Nat × Bool × Nat) × Nat × Nat) : Mailbox :=
  let bobbin : Option Bobbin := if x.2.2 = 0 then none
    else some { base := BitVec.ofNat 64 x.2.1, entries := x.2.2 / 256, head := 0 }
  match x.1 with
  | some (depth, spill, prio) => { kind := .queue, depth, spill, prio := BitVec.ofNat 2 prio, bobbin }
  | none => { kind := .combining, bobbin }

/-- Places an actor in pages of a core: state, tags, attributes, mailboxes. -/
def State.placeAt (s : State) (c core no page : Nat) (d : ActorDecl) : State :=
  let base := 4096 * page
  let actor : Actor :=
    { aid := d.aid, group := d.group, parallel := d.parallel, priv := d.priv, stateBase := BitVec.ofNat 64 (2 ^ 55 + base)
      stk := BitVec.ofNat 64 (2 ^ 55 + base + alignUp d.state.length 128 + declStack d), stksz := d.stksz, ret := 0
      hdom := d.hdom, owner := 0
      handlers := d.handlers.map fun h => ((BitVec.ofNat 2 h.1, BitVec.ofNat 4 h.2.1), (h.2.2.1, h.2.2.2)) }
  let s := s.writeClmBytes c core base d.state
  let s := s.modCore c core fun k => { k with tags := (List.range (declPages d)).foldl (fun t i => vmod t (page + i) fun _ => d.hdom) k.tags }
  { s with actors := s.actors.put (c, core, no) actor }

/-- Places an actor, and its copy under lockstitch: the AAD of its mailbox 0, and the state; `none` where a limit is broken. -/
def State.placeActor (s : State) (c : Nat) (d : ActorDecl) : Option (BitVec 32 × State) :=
  let core := declCore d
  if !(s.ctxAt c).placeOk d || !declOk d then none
  else match s.freeActor c core, s.freePages c core (declPages d) with
  | some no, some page =>
    let s := s.placeAt c core no page d
    let s := d.mailboxes.foldl (fun s (x : Nat × Option (Nat × Bool × Nat) × Nat × Nat) =>
      s.modMbx c core (BitVec.ofNat 6 (4 * no + x.1)) fun _ => declMailbox x.2) s
    if 96 < s.depthSum c core 63 + (if (s.mbxAt c core 63).kind = .queue then (s.mbxAt c core 63).depth else 0) then none
    else
      some (aadOf core (BitVec.ofNat 6 (4 * no)), match s.mate c core with
        | some k => s.placeAt c k no page d
        | none => s)
  | _, _ => none

/-- Places every actor of an assembly (R235): the AADs of their mailboxes 0, in order. -/
def State.placeAll (s : State) (c : Nat) : List ActorDecl → Option (List (BitVec 32) × State)
  | [] => some ([], s)
  | d :: t => (s.placeActor c d).bind fun r => (State.placeAll r.2 c t).map fun q => (r.1 :: q.1, q.2)

/-! ## The launch -/

/-- Is a launch message for one of n actors within its limits (R188)? -/
def launchMsgOk (n : Nat) (m : LaunchMsg) : Bool := decide (m.actor < n) && decide (m.payload.length ≤ 240)

/-- Is a launch within the limits of its sections, labels and messages? -/
def planOk (p : LaunchPlan) (x : Ctx) : Bool :=
  p.msgs.all (launchMsgOk p.actors.length) && p.labels.all (labelOk p) && placesOk x (planPlaces p)

/-- Core number under which the loader sends: on the general cores (R333; DESIGN CHOICE, notes/assumptions/41.md). -/
def loaderCore : Nat := 4224

/-- The launch message for an actor's mailbox (R161, R188). -/
def launchMessage (m : LaunchMsg) (at_ : BitVec 32) : Msg :=
  { dst := at_ ||| m.mbx.setWidth 32, cls := m.cls, src := Config.loaderAad, payload := m.payload }

/-- LAUNCH (R188, R235-R239, R372): the values of labels, sections, rights of entry, actors, then the messages in source order, each for
a mailbox of the actor it names. The context starts, if it is stopped and may run. The pages of sections get the first key of the
context's table, or 0 where it has none (R300, R307, R344; DESIGN CHOICE, notes/assumptions/81.md). -/
def execLaunch (p : LaunchPlan) (s : State) : Host.Outcome State Fault Refusal :=
  let c := p.ctx
  let x := s.ctxAt c
  let ok := planOk p x
  let p := resolveLabels p
  match if ok then s.placeAll c p.actors else none with
  | none => .next s
  | some (places, s) =>
    let key : BitVec 9 := BitVec.ofNat 9 (x.keys.headD 0)
    let (s, next) := if x.inPart x.root 65536 ∧ x.root ≠ 0 then (s, p.tables)
      else
        let root := alignUp p.tables 65536
        (({ s with mem := s.mem.clear root 65536 } : State).modCtx c fun x => { x with root }, root + 65536)
    let root := (s.ctxAt c).root
    let (s, _) := (planPlaces p).foldl (fun (r : State × Nat) y => r.1.mapSection c root key r.2 y.1 y.2) (s, next)
    let s := s.modCtx c fun x => { x with rights := p.entries.foldl (fun t (e : BitVec 6 × BitVec 6) =>
      vmod t (64 * e.1.toNat + e.2.toNat) fun r => r ||| 8) x.rights }
    let s := s.restoreNow c
    .next (p.msgs.foldl (fun s m => s.inject c loaderCore (launchMessage m (places.getD m.actor 0))) s)

end Sys2Proof.Machine
end

