-- ==== Sys2Proof/Machine/Package.lean ====
section
/-! DEFINITION. Attestation (R345), boot and live update (R346-R348), the module's sleep (R14) and its clock (R354): the seven
SPDM rows and the rows BOOT, MODULE_WAKE, LIVE_UPDATE, HEARTBEAT, ROLLBACK, SVN_RAISE, CLOCK_DOWN and CLOCK_UP. -/

namespace Sys2Proof.Machine

/-! ## SPDM (R345) -/

/-- The responder answers. -/
def State.spdmAnswer (s : State) (a : SpdmAnswer) : State := { s with spdm := { s.spdm with answers := a :: s.spdm.answers } }

/-- GET_VERSION (R345). -/
def execGetVersion (s : State) : Host.Outcome State Fault Refusal := .next (s.spdmAnswer (.version 1 2))

/-- GET_CAPABILITIES (R345). -/
def execGetCapabilities (s : State) : Host.Outcome State Fault Refusal := .next (s.spdmAnswer .capabilities)

/-- NEGOTIATE_ALGORITHMS (R345). -/
def execNegotiateAlgorithms (s : State) : Host.Outcome State Fault Refusal := .next (s.spdmAnswer .algorithms)

/-- GET_DIGESTS (R345). -/
def execGetDigests (s : State) : Host.Outcome State Fault Refusal := .next (s.spdmAnswer .digests)

/-- GET_CERTIFICATE (R345). -/
def execGetCertificate (s : State) : Host.Outcome State Fault Refusal := .next (s.spdmAnswer .certificate)

/-- CHALLENGE (R345): signed twice; the bytes of the signatures are free values (DESIGN CHOICE, notes/assumptions/43.md). -/
def execChallenge (s : State) : Host.Outcome State Fault Refusal :=
  let (a, s) := s.freeWord
  let (b, s) := s.freeWord
  .next (s.spdmAnswer (.challenge a b))

/-- The measurement of some bytes as block i. -/
def measured (i : Nat) (bs : List Byte) : Word := Config.hash (bytesLE 1 i ++ bs)

/-- What is measured of an image, whose contents the model does not hold. -/
def imageBytes (i : Image) : List Byte := bytesLE 4 i.version.toNat ++ bytesLE 1 i.svn.toNat ++ bytesLE 4 i.length

/-- Block 5 follows the share configuration of every partition. -/
def State.measureShares (s : State) : State :=
  let shares := (s.ctxs.filter fun x => !x.2.terminated).flatMap fun x => bytesLE 2 x.2.svb ++ bytesLE 2 x.2.svl ++ bytesLE 4 x.1
  { s with spdm := { s.spdm with meas := vmod s.spdm.meas 4 fun _ => measured 5 shares } }

/-- GET_MEASUREMENTS (R345): the five blocks, signed twice. -/
def execGetMeasurements (s : State) : Host.Outcome State Fault Refusal :=
  let s := s.measureShares
  let (a, s) := s.freeWord
  let (b, s) := s.freeWord
  .next (s.spdmAnswer (.measurements s.spdm.meas.toList a b))

/-! ## Boot (R346) -/

/-- Does the boot ROM accept an image, under the fused counter? -/
def Image.accepted (svn : BitVec 8) (i : Image) : Bool := i.signed && decide (svn.toNat ≤ i.svn.toNat)

/-- The slot that boots, false for A: the accepted one with the higher VERSION; of equal ones, the present boot slot
(DESIGN CHOICE, notes/assumptions/44.md). -/
def State.bootChoice (s : State) : Option Bool :=
  let a := s.slotA.filter (Image.accepted s.svn)
  let b := s.slotB.filter (Image.accepted s.svn)
  match a, b with
  | none, none => none
  | some _, none => some false
  | none, some _ => some true
  | some x, some y => some (if x.version.toNat < y.version.toNat then true else if y.version.toNat < x.version.toNat then false else s.bootB)

/-- The measurements of a boot: boot ROM patch, fuses and debug lock, and the three parts of the firmware, of which the manual names
one image (R345, R346; DESIGN CHOICE, notes/assumptions/43.md). -/
def State.measureBoot (s : State) (b : Bool) : State :=
  let img := match if b then s.slotB else s.slotA with | some i => imageBytes i | none => []
  let fuses := bytesLE 8 s.patch.toNat ++ bytesLE 4 s.sid.toNat ++ bytesLE 1 s.svn.toNat ++ [if s.debugLock then 1 else 0]
  { s with spdm := { s.spdm with meas := #v[measured 1 fuses, measured 2 img, measured 3 img, measured 4 img, 0] } }

/-- General cores up to a number start anew (PRESUMED, notes/assumptions/78.md). -/
def State.startHarts (s : State) (n : Nat) : State :=
  { s with harts := Vector.ofFn fun i => if i.val < n then {} else s.harts[i] }

/-- BOOT (R346): with no accepted slot the device stays in reset and reports the failure. -/
def execBoot (s : State) : Host.Outcome State Fault Refusal :=
  match s.power with
  | .inReset =>
    .next (match s.bootChoice with
      | some b => (({ s with power := .booted, bootB := b, bootFailed := false } : State).startHarts 16).measureBoot b
      | none => { s with bootFailed := true })
  | _ => .next s

/-- MODULE_WAKE (R14): a sleeping module wakes; as it has no always-on island, it is then as after a warm reset, and has to boot
(DESIGN CHOICE, notes/assumptions/75.md). -/
def execModuleWake (s : State) : Host.Outcome State Fault Refusal :=
  .next (match s.power with
    | .asleep => s.warm
    | _ => s)

/-! ## Live update (R347, R348) -/

/-- 500 ms of reference time. -/
def beatTime : Nat := 50000000 * 39480

/-- The handover structure of the old image (R347); the manual gives neither its magic word, its version nor its body: free values. -/
def State.handover (s : State) : Handover × State :=
  let body := Config.handoverBody s.free
  ({ magic := Config.handoverMagic, version := Config.handoverVersion, length := BitVec.ofNat 32 body.length, crc := crc32c body, body },
   { s with free := s.free + 1 })

/-- Does an image accept a handover structure: its version, and its CRC (R348)? -/
def Handover.fits (h : Handover) (img : Image) : Bool := h.version == img.takes && h.crc == crc32c h.body

/-- LIVE_UPDATE (R347), of Pelson or of the graph-unit firmware: the image goes to the slot that Pelson did not boot from; when its
signatures verify, the measurement of what it updates is extended and the new image starts from the handover structure of the old one,
or rejects it (R348). -/
def execLiveUpdate (img : Image) (graph : Bool) (s : State) : Host.Outcome State Fault Refusal :=
  if s.power ≠ .booted ∨ s.update.isSome then .next s
  else
    let slot := !s.bootB
    let s := if slot then { s with slotB := some img } else { s with slotA := some img }
    .next (if img.signed then
        let k := if graph then 3 else 2
        let m := measured (k + 1) (bytesLE 8 ((s.spdm.meas[k]?).getD 0).toNat ++ imageBytes img)
        let (hand, s) := s.handover
        let s := { s with update := some { img, slot, graph, hand, due := s.reft + beatTime }, beat := false
                          spdm := { s.spdm with meas := vmod s.spdm.meas k fun _ => m } }
        if hand.fits img then (if graph then s else s.startHarts 4) else s.now .rollback
      else s)

/-- Contexts whose restore has waited for the end of an update (R355). -/
def State.restoreWaiting (s : State) : State :=
  (s.ctxs.filter fun x => x.2.waitsUpdate).foldl (fun s x =>
    (s.modCtx x.1 fun y => { y with waitsUpdate := false }).restoreNow x.1) s

/-- Pelson does what has waited. -/
def State.perform (s : State) : PelsonAct → State
  | .take c m => s.toPelson c m
  | .mail c m => s.mailPelson c m
  | .record c payload => s.recordNotice c payload
  | .terminate c reason => s.terminate c reason
  | .bell c f => s.submitFrame c f

/-- The end of an update: what has waited is done in its order, no work being lost; the graph units and restores go on (R347, R348,
R355; DEDUCED, notes/assumptions/71.md). -/
def State.endUpdate (s : State) (graph : Bool) : State :=
  let l := s.waiting
  let s := l.foldl (fun s a => s.perform a) { s with update := none, waiting := [] }
  (if graph then (s.ctxs.map (·.1)).foldl (fun s c => s.graphWake c) s else s).restoreWaiting

/-- HEARTBEAT (R347): within 500 ms of the start of an image that has accepted the handover, the updated slot becomes the boot slot. -/
def execHeartbeat (s : State) : Host.Outcome State Fault Refusal :=
  match s.update with
  | none => .next s
  | some u => if u.due < s.reft || !u.hand.fits u.img then .next s else .next (({ s with bootB := u.slot, beat := true } : State).endUpdate u.graph)

/-- ROLLBACK (R348), also when the heartbeat is missed, and of either firmware: the general cores restart on the old image from the
handover structure; the boot slot is unchanged. -/
def execRollback (s : State) : Host.Outcome State Fault Refusal :=
  match s.update with
  | none => .next s
  | some u => .next ((s.startHarts 16).endUpdate u.graph)

/-- SVN_RAISE (R348): only after a heartbeat; to the SVN of the image that runs, and never down. -/
def execSvnRaise (s : State) : Host.Outcome State Fault Refusal :=
  if s.beat then
    match if s.bootB then s.slotB else s.slotA with
    | some i => .next { s with svn := if s.svn.toNat < i.svn.toNat then i.svn else s.svn }
    | none => .next s
  else .next s

/-! ## The clock (R354) -/

/-- The levels of the compute clock, in kHz, highest first. -/
def clockLevels : List Nat := [940000, 822500, 705000, 587500, 470000]

/-- The level after a level in a list. -/
def levelAfter (l : List Nat) (f : Nat) : Option Nat := (l.dropWhile fun x => x != f).drop 1 |>.head?

/-- A change of the clock takes 2 µs, in which no cycle is delivered and REFT runs on. -/
def State.setClock (s : State) (f : Option Nat) : State :=
  match f with
  | some f => { s with clock := f, reft := s.reft + 200 * 39480 }
  | none => s

/-- CLOCK_DOWN (R354). -/
def execClockDown (s : State) : Host.Outcome State Fault Refusal := .next (s.setClock (levelAfter clockLevels s.clock))

/-- CLOCK_UP (R354). -/
def execClockUp (s : State) : Host.Outcome State Fault Refusal := .next (s.setClock (levelAfter clockLevels.reverse s.clock))

end Sys2Proof.Machine
end

