-- ==== Sys2Proof/Machine/Fabric.lean ====
section
/-! DEFINITION. The Ultra Ethernet ports (R356-R366): transmit requests and puts, frames that arrive, block queues, refusals
across the fabric and retransmission: the rows TRANSMIT_REQUEST, FRAME_RECEIVE and RETRANSMIT_TIMEOUT. Frames of kind 0 to 2 are
the manual's; the transport's own frames have a form that the model gives them (DESIGN CHOICE, notes/assumptions/42.md). -/

namespace Sys2Proof.Machine

/-- KIND of the transport's own frames: an acknowledgement, a refusal that comes back (R362), a report of an unbound job or a
dropped DAAD (R360), and one of a frame that has arrived trimmed (R356). -/
def kindAck : BitVec 8 := 0xF0
def kindRefusal : BitVec 8 := 0xF1
def kindDropped : BitVec 8 := 0xF2
def kindTrimmed : BitVec 8 := 0xF3

/-- The largest payload of a frame (R356). -/
def frameMax : Nat := 4096

/-- AAD of transmit queue 3 on core 0 of a port, the SRC of what it delivers (R360). -/
def portSrc (p : Nat) : BitVec 32 := aadOf (8 * (512 + p)) 63

/-- A port. -/
def State.port (s : State) (p : Nat) : Port := (s.ports[p]?).getD {}

/-- Changes a port. -/
def State.modPort (s : State) (p : Nat) (f : Port → Port) : State := { s with ports := vmod s.ports p f }

/-- Cycles of the wait before retransmission n + 1: 16 µs, doubled each time (R363), at the present clock. -/
def State.retryDelay (s : State) (n : Nat) : Nat := 16 * s.clock / 1000 * 2 ^ n

/-- The bytes of a frame at a port are counted (R229; DESIGN CHOICE, notes/assumptions/69.md). -/
def State.countFrame (s : State) (f : Frame) : State := s.countShared 0x0080 (Config.portBytes f.data.length)

/-- A frame leaves a port; nothing is awaited. -/
def State.emit (s : State) (p : Nat) (dfid : BitVec 13) (f : Frame) : State :=
  (s.countFrame f).modPort p fun x => { x with out := (dfid, f) :: x.out }

/-- Numbers a frame in its flow: transmit queue q of a port, destination FID and AAD, mode (R361). -/
def Port.number (x : Port) (p q : Nat) (dfid : BitVec 13) (f : Frame) : Frame × Port :=
  let n := (x.numbers.look (q, dfid, f.daad, f.mode)).getD 0
  ({ f with no := { port := p, q, epoch := x.boots + (x.epochs.look dfid).getD 0, n } },
    { x with numbers := x.numbers.put (q, dfid, f.daad, f.mode) (n + 1) })

/-- A frame of queue q leaves a port and waits for its acknowledgement (R361, R363). -/
def State.sendFrame (s : State) (p q : Nat) (dfid : BitVec 13) (f : Frame) : State :=
  let d := s.retryDelay 0
  let (f, x) := (s.port p).number p q dfid f
  let s := s.modPort p fun _ => x
  ((s.emit p dfid f).modPort p fun x => { x with sent := x.sent ++ [{ dfid, f, tries := 0, due := s.cycle + d }] }).after d
    (.retransmitTimeout (BitVec.ofNat 4 p) dfid)

/-! ## Transmit requests (R358, R359) -/

/-- Does a transmit request follow R358 and R359? -/
def requestOk (b : List Byte) : Bool :=
  let n := b.length
  decide (16 ≤ n) && decide (fieldLE b 0 2 < 8192) && decide (fieldLE b 2 1 ≤ 2) && decide (fieldLE b 3 1 ≤ 2) &&
  decide (fieldLE b 12 1 ≤ 13) && fieldLE b 13 3 == 0 &&
  (match fieldLE b 2 1 with
    | 0 => true
    | 1 => decide (40 ≤ n) && decide (1 ≤ fieldLE b 32 4 ∧ fieldLE b 32 4 ≤ 1048576) && fieldLE b 36 4 == 0
    | _ => decide (88 ≤ n))

/-- The frame of a request, with its data. -/
def State.frameOf (s : State) (p : Nat) (m : Msg) (data : List Byte) : Frame :=
  let b := m.payload
  { sfid := s.fid, saad := m.src, job := (s.port p).job, mode := BitVec.ofNat 8 (fieldLE b 3 1), kind := BitVec.ofNat 8 (fieldLE b 2 1)
    daad := BitVec.ofNat 32 (fieldLE b 4 4), tag := BitVec.ofNat 32 (fieldLE b 8 4), cls := BitVec.ofNat 4 (fieldLE b 12 1), data }

/-- Destination FID of a request. -/
def reqDfid (m : Msg) : BitVec 13 := BitVec.ofNat 13 (fieldLE m.payload 0 2)

/-- The core through which a put reads a byte of its source: its sender's for a local address, the gateway core of its queue for a global
one. -/
def PortReq.coreAt (r : PortReq) (gate a : Nat) : Nat := if a < 2 ^ 55 then gate else aadCore r.m.src

/-- The slot of the activation that placed a request, while it lives. -/
def State.issuerSlot (s : State) (r : PortReq) (core : Nat) : Option Nat := r.m.issuer.bind fun i =>
  if (s.acts.look { ctx := r.ctx, core, slot := i.slot % 8 }).any fun a => a.startAt == i.born then some (i.slot % 8) else none

/-- A put reads its source with the rights of the SEND that placed it (R204, R359), and the workspace of its issuer while that lives
(R271). -/
def State.putWho (s : State) (r : PortReq) (core : Nat) : Who :=
  let slot := if core = aadCore r.m.src then s.issuerSlot r core else none
  { sid := { ctx := r.ctx, core, slot := slot.getD 8 }, own := slot.isSome
    dom := match r.m.issuer with | some i => i.dom | none => 0
    windows := match r.m.issuer with | some i => i.windows | none => [], win := none }

/-- Reads up to n more bytes of a put's source. -/
def State.readPut (gate : Nat) : Nat → State → PortReq → EngGot × PortReq × State
  | 0, s, r => (.byte 0, r, s)
  | n + 1, s, r =>
    let a := (fieldLE r.m.payload 16 8 + r.got.length) % 2 ^ 64
    match s.engRead r.ctx (r.coreAt gate a) (s.putWho r (r.coreAt gate a)) r.refused a with
    | (.byte b, s) => State.readPut gate n s { r with got := r.got ++ [b] }
    | (g, s) => (g, r, s)

/-- A put whose source faults is reported as an engine command with counter index 3 (R359, R270). -/
def State.failPut (s : State) (core : Nat) (r : PortReq) (addr cause : Nat) : State :=
  let (n, s) := s.freeWord
  match r.m.issuer with
  | some i => s.engineFault r.ctx core i.slot i.dom i.aid 3 n.toNat cause (BitVec.ofNat 64 addr)
  | none => s.engineFault r.ctx core 0 0 0 3 n.toNat cause (BitVec.ofNat 64 addr)

/-- The bytes of a put leave in frames of at most 4,096 (R356). -/
def State.sendPut (s : State) (p q : Nat) (dfid : BitVec 13) (f : Frame) (remote : Nat) (data : List Byte) : State :=
  let n := (data.length + frameMax - 1) / frameMax
  (List.range n).foldl (fun s i =>
    s.sendFrame p q dfid { f with data := (data.drop (frameMax * i)).take frameMax, remote := BitVec.ofNat 64 (remote + frameMax * i)
                                  part := i, more := decide (i + 1 < n) }) s

/-- A port's first request is over; the next one goes on. -/
def State.nextReq (s : State) (p : Nat) : State :=
  let s := s.modPort p fun x => { x with reqs := x.reqs.drop 1 }
  match (s.port p).reqs with
  | r :: _ => s.now (.transmitRequest (BitVec.ofNat 4 p) r.q r.ctx r.m)
  | [] => s

/-- Goes on with a port's first request. -/
def State.runReq (s : State) (p : Nat) : State :=
  match (s.port p).reqs with
  | [] => s
  | r :: t =>
    if r.waits.isSome then s
    else if fieldLE r.m.payload 2 1 ≠ 1 then
      let data := r.m.payload.drop 16
      (s.sendFrame p r.q (reqDfid r.m) (s.frameOf p r.m (if fieldLE r.m.payload 2 1 = 2 then data.take 72 else data))).nextReq p
    else
      let core := 8 * (512 + p) + r.q / 4
      match State.readPut core (fieldLE r.m.payload 32 4 - r.got.length) s r with
      | (.wait g, r, s) =>
        (s.modPort p fun x => { x with reqs := { r with waits := some g } :: t }).startWalk r.ctx (512 + p) g .engine
      | (.fault a q, r, s) => (s.failPut core r a q).nextReq p
      | (_, r, s) =>
        (s.sendPut p r.q (reqDfid r.m) (s.frameOf p r.m []) (fieldLE r.m.payload 24 8) r.got).nextReq p

/-- Queue number of the flow in which a port returns refusals. -/
def refusalQueue : Nat := 16

/-- A refusal of what the port has delivered goes back across the fabric (R362), without order (DESIGN CHOICE,
notes/assumptions/42.md): its bytes 16 to 23 hold the source FID and AAD. -/
def State.returnRefusal (s : State) (p : Nat) (m : Msg) : State :=
  let b := m.payload
  s.sendFrame p refusalQueue (BitVec.ofNat 13 (fieldLE b 16 2))
    { sfid := s.fid, saad := m.src, job := (s.port p).job, mode := 1, kind := kindRefusal, daad := BitVec.ofNat 32 (fieldLE b 20 4)
      tag := m.tag, cls := 15, data := b.take 72 }

/-- TRANSMIT_REQUEST (R358, R359, R362): queue q of a port is 4 × core + queue. A request that is already the port's goes on. -/
def execTransmitRequest (port : BitVec 4) (q c : Nat) (m : Msg) (s : State) : Host.Outcome State Fault Refusal :=
  let p := port.toNat
  let core := 8 * (512 + p) + q / 4
  if s.power = .asleep then .next s
  else if (s.port p).reqs.any fun r => r.q == q && r.ctx == c && r.m == m then .next (s.runReq p)
  else if m.cls = 15 then .next (s.returnRefusal p m)
  else if !(s.ctxAt c).grant.getLsbD p then .next (s.refuse c core m 3)
  else if !requestOk m.payload then .next (s.refuse c core m 7)
  else
    let first := (s.port p).reqs.isEmpty
    let s := s.modPort p fun x => { x with reqs := x.reqs ++ [{ q, ctx := c, m }] }
    .next (if first then s.runReq p else s)

/-! ## Frames that arrive (R360-R364) -/

/-- Notice 0x0020, to SUPV of the context bound to the port (R363). -/
def State.peerNotice (s : State) (p reason : Nat) (dropped : Word) (dfid : BitVec 13) : State :=
  match (s.port p).ctx with
  | none => s
  | some c => s.sysNotice c (8 * (512 + p)) (sysAad (8 * (512 + p))) (noticeBytes 0x0020 reason 0 0 0 dropped 0 (dfid.setWidth 64))

/-- A port drops a frame and counts it; the sender learns of an unbound job or a DAAD out of reach (R356, R360). -/
def State.dropFrame (s : State) (p : Nat) (f : Frame) (report : Bool) : State :=
  let s := s.modPort p fun x => { x with drops := x.drops + 1 }
  if report then s.emit p f.sfid { f with sfid := s.fid, daad := f.saad, saad := f.daad, kind := kindDropped, data := [] } else s

/-- Payload bytes 0 to 15 of what a port delivers (R360). -/
def portHeader (f : Frame) : List Byte :=
  bytesLE 2 f.sfid.toNat ++ [f.kind, f.mode] ++ bytesLE 4 f.saad.toNat ++ List.replicate 8 0

/-- A delivered message (R360). -/
def portMsg (p : Nat) (f : Frame) (dst : BitVec 32) (rel : Bool) (data : List Byte) : Msg :=
  { dst, cls := f.cls, rel, src := portSrc p, tag := f.tag, payload := portHeader f ++ data }

/-- Is the memory of a put at hand, page by page? Otherwise, the granule that is missing. -/
def State.putPages (s : State) (c core a n : Nat) : Option Nat :=
  ((List.range (if n = 0 then 0 else (a + n - 1) / 65536 - a / 65536 + 1)).map fun i => a / 65536 + i).find? fun g =>
    (s.xlat c core (g * 65536)).isNone

/-! ## Order and single delivery (R361) -/

/-- The flow of a frame at its destination. -/
def flowOf (f : Frame) : BitVec 13 × Nat × Nat × BitVec 32 × BitVec 8 := (f.sfid, f.no.port, f.no.q, f.daad, f.mode)

/-- What a port has taken of a frame's flow; nothing of an epoch that is new to it. -/
def Port.takenOf (x : Port) (f : Frame) : Taken :=
  let t := (x.taken.look (flowOf f)).getD {}
  if t.epoch < f.no.epoch then { epoch := f.no.epoch } else t

/-- Has the port taken a number of a frame's flow? -/
def Port.has (x : Port) (f : Frame) (n : Nat) : Bool :=
  let t := x.takenOf f
  decide (f.no.epoch < t.epoch) || decide (n < t.next) || t.beyond.contains n

/-- Has the frame been taken before (R361)? That does not count under RUDI, which delivers a frame again. -/
def Port.duplicate (x : Port) (f : Frame) : Bool := f.mode != 2 && x.has f f.no.n

/-- Is a frame ahead of its turn: under ROD, or because it ends a put of which an earlier frame has not come (R359-R361)? -/
def Port.early (x : Port) (f : Frame) : Bool :=
  (f.mode == 0 && decide ((x.takenOf f).next < f.no.n)) ||
  (!f.more && (List.range f.part).any fun i => !x.has f (f.no.n - 1 - i))

/-- The numbers taken beyond the next one join it while it is among them; by fuel. -/
def closeUp : Nat → Nat → List Nat → Nat × List Nat
  | 0, n, l => (n, l)
  | k + 1, n, l => if l.contains n then closeUp k (n + 1) (l.filter fun i => i ≠ n) else (n, l)

/-- A frame of its flow is taken (R361). -/
def Port.take (x : Port) (f : Frame) : Port :=
  let t := x.takenOf f
  if x.has f f.no.n then x
  else
    let (next, beyond) := closeUp (t.beyond.length + 1) t.next (f.no.n :: t.beyond)
    { x with taken := x.taken.put (flowOf f) { t with next, beyond } }

/-- A frame is acknowledged. -/
def State.ack (s : State) (p : Nat) (f : Frame) : State :=
  s.emit p f.sfid { f with sfid := s.fid, daad := f.saad, saad := f.daad, kind := kindAck, data := [] }

/-- A frame of the bound context is delivered, counted, fed to the port's digest (R365) and acknowledged; a put waits for the
pages it writes. -/
def State.deliver (s : State) (p c : Nat) (f : Frame) : State :=
  let core := 8 * (512 + p)
  let done (s : State) : State :=
    ((s.countFrame f).modPort p fun x => { x.take f with digest := feedDigest x.digest (portHeader f) f.data }).ack p f
  match f.kind.toNat with
  | 0 => done (s.inject c core (portMsg p f f.daad false f.data))
  | 1 =>
    let a := f.remote.toNat
    (match s.putPages c core a f.data.length with
      | some g => (s.startWalk c (512 + p) g .engine).after 1 (.frameReceive (BitVec.ofNat 4 p) f)
      | none =>
        let s := s.niWrite c core a f.data
        done (if f.more then s else s.inject c core (portMsg p f f.daad true [])))
  | _ =>
    let k := core + fieldLE f.data 0 8 % 4
    done (s.inject c core (portMsg p f (aadOf k (aadMbx f.daad)) false f.data))

/-- Does an acknowledgement or a report answer a frame that the port waits for? -/
def frameAnswers (f : Frame) (y : Sent) : Bool := y.dfid == f.sfid && y.f.daad == f.saad && y.f.mode == f.mode && y.f.no == f.no

/-- The frame that an acknowledgement or a report answers is no longer waited for. -/
def Port.acked (x : Port) (f : Frame) : Port := { x with sent := x.sent.filter fun y => !frameAnswers f y }

/-- Which request a frame belongs to: its queue, destination and mode, and the number of its first frame. -/
def requestOf (y : Sent) : Nat × BitVec 13 × BitVec 32 × BitVec 8 × Nat := (y.f.no.q, y.dfid, y.f.daad, y.f.mode, y.f.no.n - y.f.part)

/-- The destination has dropped a frame: the request it belongs to is dropped, with notice 0x0020, REASON 2; a refusal on its way back
is no request (R360, R362, R363). -/
def State.reported (s : State) (p : Nat) (f : Frame) : State :=
  match (s.port p).sent.find? (frameAnswers f) with
  | none => s
  | some y => (s.modPort p fun x => { x with sent := x.sent.filter fun z => requestOf z != requestOf y }).peerNotice p 2
    (if y.f.kind = kindRefusal then 0 else 1) f.sfid

/-- A frame has arrived trimmed, and is sent again (R356). -/
def State.resend (s : State) (p : Nat) (f : Frame) : State :=
  match (s.port p).sent.find? (frameAnswers f) with
  | none => s
  | some y => s.emit p y.dfid y.f

/-- A refusal has come back across the fabric: class 15 to the sender of the request (R362). -/
def State.refusalBack (s : State) (p c : Nat) (f : Frame) : State :=
  s.inject c (8 * (512 + p))
    { dst := f.daad, cls := 15, col := 1, src := portSrc p, tag := f.tag
      payload := f.data.take 72 ++ bytesLE 2 f.sfid.toNat ++ List.replicate 38 0 }

/-- FRAME_RECEIVE (R356, R360-R364): a frame that is ahead of its turn is left to be sent again, and one that has been taken before
is acknowledged again. -/
def execFrameReceive (port : BitVec 4) (f : Frame) (s : State) : Host.Outcome State Fault Refusal :=
  let p := port.toNat
  if s.power = .asleep then .next s
  else
    let s0 := s
    let s := s.countFrame f
    let x := s.port p
    if f.kind = kindAck then .next (s.modPort p fun x => x.acked f)
    else if f.kind = kindDropped then .next (s.reported p f)
    else if f.kind = kindTrimmed then .next (s.resend p f)
    else if (2 < f.kind.toNat ∧ f.kind ≠ kindRefusal) ∨ 2 < f.mode.toNat ∨ frameMax < f.data.length then .next (s.dropFrame p f false)
    else if f.trimmed then
      .next (s.emit p f.sfid { f with sfid := s.fid, daad := f.saad, saad := f.daad, kind := kindTrimmed, data := [], trimmed := false })
    else if x.early f then .next s
    else
      match x.ctx with
      | none => .next ((s.modPort p fun x => x.take f).dropFrame p f true)
      | some c =>
        if f.job ≠ x.job ∨ !aadOk (f.daad.setWidth 64) ∨ !(s.ctxAt c).mayReach (nodeOf (aadCore f.daad)) then
          .next ((s.modPort p fun x => x.take f).dropFrame p f true)
        else if x.duplicate f then .next (s.ack p f)
        else if f.kind = kindRefusal then .next (((s.modPort p fun x => x.take f).ack p f).refusalBack p c f)
        else .next (s0.deliver p c f)

/-! ## Retransmission (R363) -/

/-- RETRANSMIT_TIMEOUT (R363): eight times with the wait doubled; then the requests for the peer are dropped. -/
def execRetransmitTimeout (port : BitVec 4) (dfid : BitVec 13) (s : State) : Host.Outcome State Fault Refusal :=
  let p := port.toNat
  let x := s.port p
  if s.power = .asleep then .next s
  else match x.sent.findIdx? fun y => y.dfid == dfid && decide (y.due ≤ s.cycle) with
  | none => .next s
  | some i =>
    match x.sent[i]? with
    | none => .next s
    | some y =>
      if y.tries < 8 then
        let d := s.retryDelay (y.tries + 1)
        let y' := { y with tries := y.tries + 1, due := s.cycle + d }
        .next (((s.emit p dfid y.f).modPort p fun x => { x with sent := x.sent.set i y' }).after d (.retransmitTimeout port dfid))
      else
        let reqs := x.reqs.filter fun r => reqDfid r.m == dfid
        let n := ((x.sent.filter fun y => y.dfid == dfid && y.f.kind != kindRefusal).map requestOf).eraseDups.length + reqs.length
        let s := s.modPort p fun x => { x with
          sent := x.sent.filter fun y => y.dfid != dfid, reqs := x.reqs.filter fun r => reqDfid r.m != dfid
          numbers := x.numbers.filter fun k => k.1.2.1 != dfid, epochs := x.epochs.put dfid ((x.epochs.look dfid).getD 0 + 1) }
        let s := match (s.port p).reqs with
          | r :: _ => s.now (.transmitRequest port r.q r.ctx r.m)
          | [] => s
        .next (s.peerNotice p 1 (BitVec.ofNat 64 n) dfid)

end Sys2Proof.Machine
end

