-- ==== Sys2Proof/Machine/Float.lean ====
section
/-! DEFINITION. Scalar floating point (R92-R95) and the stream generators (R112-R115). -/

namespace Sys2Proof.Machine

/-- The family of R92: b op c, with a the old destination; the result is zero-extended. -/
def fpOp (h : Hdr) (fmt : FFmt) (rm : Rm) (op : FOp) (a b : GQ) (old : Option (BitVec 5)) (c : Src2) (s : State) :
    Host.Outcome State Fault Refusal :=
  instrFp h s do
    let mode ← modeM rm
    let x ← readG b
    let y ← readSrc2U c
    let z ← match old with
      | some i => readReg i
      | none => pure 0
    let n := 2 ^ fmt.bits
    let (r, fl) := fop (binFmt fmt) mode op (z.toNat % n) (x.toNat % n) (y.toNat % n)
    writeG a (BitVec.ofNat 64 r)
    pure fl

/-- FADD (R92). -/
def execFadd (h : Hdr) (fmt : FFmt) (rm : Rm) (a b : GQ) (c : Src2) (s : State) : Host.Outcome State Fault Refusal :=
  fpOp h fmt rm .add a b none c s

/-- FSUB (R92). -/
def execFsub (h : Hdr) (fmt : FFmt) (rm : Rm) (a b : GQ) (c : Src2) (s : State) : Host.Outcome State Fault Refusal :=
  fpOp h fmt rm .sub a b none c s

/-- FMUL (R92). -/
def execFmul (h : Hdr) (fmt : FFmt) (rm : Rm) (a b : GQ) (c : Src2) (s : State) : Host.Outcome State Fault Refusal :=
  fpOp h fmt rm .mul a b none c s

/-- FFMA (R92). -/
def execFfma (h : Hdr) (fmt : FFmt) (rm : Rm) (a : BitVec 5) (b : GQ) (c : Src2) (s : State) :
    Host.Outcome State Fault Refusal :=
  fpOp h fmt rm .fma (.g a) b (some a) c s

/-- FMIN (R92, R93). -/
def execFmin (h : Hdr) (fmt : FFmt) (a b : GQ) (c : Src2) (s : State) : Host.Outcome State Fault Refusal :=
  fpOp h fmt .rne .min a b none c s

/-- FMAX (R92, R93). -/
def execFmax (h : Hdr) (fmt : FFmt) (a b : GQ) (c : Src2) (s : State) : Host.Outcome State Fault Refusal :=
  fpOp h fmt .rne .max a b none c s

/-- FCVT (R95). -/
def execFcvt (h : Hdr) (rm : Rm) (dt st : NType) (a b : GQ) (s : State) : Host.Outcome State Fault Refusal :=
  instrFp h s do
    let mode ← modeM rm
    let x ← readG b
    let (r, fl) := convert mode dt st (x.toNat % 2 ^ st.bits)
    writeG a (if dt.isSigned then (BitVec.ofNat dt.bits r).signExtend 64 else BitVec.ofNat 64 r)
    pure fl

/-- FSGN (R94); gb is read before gc. -/
def execFsgn (h : Hdr) (fmt : FFmt) (a b : GQ) (op : Sgn GQ) (s : State) : Host.Outcome State Fault Refusal :=
  instrFp h s do
    let x ← readG b
    let y ← match op with
      | .cpy c => readG c
      | .ncp c => readG c
      | .xor c => readG c
      | .abs => pure 0
    let f := binFmt fmt
    let n := 2 ^ fmt.bits
    let (r, fl) := fsgnBits f (x.toNat % n) (sgnNeg (f.signOf (x.toNat % n)) (f.signOf (y.toNat % n)) op)
    writeG a (BitVec.ofNat 64 r)
    pure fl

/-! ## Stream generators -/

/-- SCFG (R112). -/
def execScfg (h : Hdr) (wr : Bool) (sg : BitVec 2) (b c : GQ) (stride : BitVec 16) (s : State) :
    Host.Outcome State Fault Refusal :=
  instr h s do
    let base ← readG b
    let len ← readG c
    alignM base 4
    change fun s => (s.modAct fun a => a.setGen sg { wr, base, len := len.toNat % 2 ^ 32, stride }).after 1
      (.streamFetch s.cur.sid sg)

/-- Releases the binding of a register, and every binding of a generator. -/
def Act.unbind (a : Act) (v sg : BitVec 2) : Act :=
  { a with bind := (a.bind.map fun b => if b = some sg then none else b).set v.toNat none }

/-- SBIND (R113); elements fetched before it are fetched again (R115). -/
def execSbind (h : Hdr) (v sg : BitVec 2) (s : State) : Host.Outcome State Fault Refusal :=
  instr h s (change fun s => (s.modAct fun a =>
    let a := a.unbind v sg
    let a := a.setGen sg { a.gens[sg.toNat] with ahead := [] }
    { a with bind := a.bind.set v.toNat (some sg) }).after 1 (.streamFetch s.cur.sid sg))

/-- SUNBIND (R113). -/
def execSunbind (h : Hdr) (v : BitVec 2) (s : State) : Host.Outcome State Fault Refusal :=
  instr h s (changeAct fun a => { a with bind := a.bind.set v.toNat none })

/-- Elements fetched ahead from an index on: up to `n`, stopping where one would fault, wait or be poisoned. -/
def aheadElems (x : StreamGen) : Nat → Nat → State → List (BitVec 32) × State
  | _, 0, s => ([], s)
  | i, n + 1, s =>
    match (loadM (x.addr i) 4 false).run s with
    | .error _ => ([], s)
    | .ok (bs, s) =>
      let (t, s) := aheadElems x (i + 1) n s
      (BitVec.ofNat 32 (ofBytesLE bs) :: t, s)

/-- STREAM_FETCH (R114, R115): a bound read stream fetches up to 4 pops ahead, as weak loads in the domain of the main
stream; with lockstitch nothing is fetched ahead (DESIGN CHOICE, notes/assumptions/13.md). -/
def execStreamFetch (t : SlotId) (sg : BitVec 2) (s : State) : Host.Outcome State Fault Refusal :=
  match s.acts.look t with
  | none => .next s
  | some a =>
    let x := a.gens[sg.toNat]
    if x.wr || !a.bind.contains (some sg) || a.park || (s.ctxAt t.ctx).lockstitch then .next s
    else
      let s := { s with cur := { s.cur with sid := t, stream := .main, dom := a.main.fromDom } }
      let want := min (64 - x.ahead.length) (x.len - x.pos - x.ahead.length)
      let (l, s) := aheadElems x (x.pos + x.ahead.length) want s
      .next (s.modAct fun a => a.setGen sg { x with ahead := x.ahead ++ l })

end Sys2Proof.Machine
end

