-- ==== Sys2Proof/Machine/Scalar.lean ====
section
/-! DEFINITION. Scalar, address, compare and predicate instructions (R69-R81), and the mask instructions KLOG and KMOV
(R99, R100). -/

namespace Sys2Proof.Machine

/-! ## Integer operations of n bits (R70-R72) -/

/-- High half of the signed product. -/
def mulHigh {n : Nat} (a b : BitVec n) : BitVec n := BitVec.ofInt n ((a.toInt * b.toInt) >>> n)

/-- High half of the unsigned product. -/
def mulHighU {n : Nat} (a b : BitVec n) : BitVec n := BitVec.ofNat n ((a.toNat * b.toNat) >>> n)

/-- Signed quotient, truncated towards zero (R71). -/
def divS {n : Nat} (a b : BitVec n) : BitVec n := if b = 0 then BitVec.allOnes n else BitVec.ofInt n (a.toInt.tdiv b.toInt)

/-- Unsigned quotient (R71). -/
def divU {n : Nat} (a b : BitVec n) : BitVec n := if b = 0 then BitVec.allOnes n else a / b

/-- Signed remainder (R71). -/
def remS {n : Nat} (a b : BitVec n) : BitVec n := if b = 0 then a else BitVec.ofInt n (a.toInt.tmod b.toInt)

/-- Unsigned remainder (R71). -/
def remU {n : Nat} (a b : BitVec n) : BitVec n := if b = 0 then a else a % b

/-- Smaller or larger of two values, compared unsigned or signed. -/
def minBV (u : Bool) {n : Nat} (a b : BitVec n) : BitVec n := if (if u then b.ult a else b.slt a) then b else a
def maxBV (u : Bool) {n : Nat} (a b : BitVec n) : BitVec n := if (if u then a.ult b else a.slt b) then b else a

/-- Leading zeros within n bits (R72). -/
def clzBV {n : Nat} (a : BitVec n) : BitVec n := BitVec.ofNat n (n - bitLen a.toNat)

/-- Number of ones (R72). -/
def popBV {n : Nat} (a : BitVec n) : BitVec n := BitVec.ofNat n (((List.range n).filter fun i => a.getLsbD i).length)

/-- The family of R70: two sources, one result of n bits, extended. -/
def alu2 (h : Hdr) (sz : Size) (u : Bool) (a b : GQ) (c : Src2) (f : {n : Nat} → BitVec n → BitVec n → BitVec n)
    (s : State) : Host.Outcome State Fault Refusal :=
  instr h s do
    let x ← readG b
    let y ← readSrc2 c
    writeG a (extend u (f (lowBits sz.bits x) (lowBits sz.bits y)))

/-- The family of R72: one source. -/
def alu1 (h : Hdr) (sz : Size) (u : Bool) (a b : GQ) (f : {n : Nat} → BitVec n → BitVec n) (s : State) :
    Host.Outcome State Fault Refusal :=
  instr h s do
    let x ← readG b
    writeG a (extend u (f (lowBits sz.bits x)))

/-- NOP (R69). -/
def execNop (h : Hdr) (s : State) : Host.Outcome State Fault Refusal := instr h s (pure ())

/-- ADD (R70). -/
def execAdd (h : Hdr) (sz : Size) (u : Bool) (a b : GQ) (c : Src2) (s : State) : Host.Outcome State Fault Refusal :=
  alu2 h sz u a b c (fun x y => x + y) s

/-- SUB (R70). -/
def execSub (h : Hdr) (sz : Size) (u : Bool) (a b : GQ) (c : Src2) (s : State) : Host.Outcome State Fault Refusal :=
  alu2 h sz u a b c (fun x y => x - y) s

/-- MOV (R72). -/
def execMov (h : Hdr) (sz : Size) (u : Bool) (a b : GQ) (s : State) : Host.Outcome State Fault Refusal :=
  alu1 h sz u a b (fun x => x) s

/-- MUL (R70). -/
def execMul (h : Hdr) (sz : Size) (u : Bool) (a b : GQ) (c : Src2) (s : State) : Host.Outcome State Fault Refusal :=
  alu2 h sz u a b c (fun x y => x * y) s

/-- MULH (R70). -/
def execMulh (h : Hdr) (sz : Size) (u : Bool) (a b : GQ) (c : Src2) (s : State) : Host.Outcome State Fault Refusal :=
  alu2 h sz u a b c mulHigh s

/-- MULHU (R70). -/
def execMulhu (h : Hdr) (sz : Size) (u : Bool) (a b : GQ) (c : Src2) (s : State) : Host.Outcome State Fault Refusal :=
  alu2 h sz u a b c mulHighU s

/-- DIV (R71). -/
def execDiv (h : Hdr) (sz : Size) (u : Bool) (a b : GQ) (c : Src2) (s : State) : Host.Outcome State Fault Refusal :=
  alu2 h sz u a b c divS s

/-- DIVU (R71). -/
def execDivu (h : Hdr) (sz : Size) (u : Bool) (a b : GQ) (c : Src2) (s : State) : Host.Outcome State Fault Refusal :=
  alu2 h sz u a b c divU s

/-- REM (R71). -/
def execRem (h : Hdr) (sz : Size) (u : Bool) (a b : GQ) (c : Src2) (s : State) : Host.Outcome State Fault Refusal :=
  alu2 h sz u a b c remS s

/-- REMU (R71). -/
def execRemu (h : Hdr) (sz : Size) (u : Bool) (a b : GQ) (c : Src2) (s : State) : Host.Outcome State Fault Refusal :=
  alu2 h sz u a b c remU s

/-- AND (R70). -/
def execAnd (h : Hdr) (sz : Size) (u : Bool) (a b : GQ) (c : Src2) (s : State) : Host.Outcome State Fault Refusal :=
  alu2 h sz u a b c (fun x y => x &&& y) s

/-- OR (R70). -/
def execOr (h : Hdr) (sz : Size) (u : Bool) (a b : GQ) (c : Src2) (s : State) : Host.Outcome State Fault Refusal :=
  alu2 h sz u a b c (fun x y => x ||| y) s

/-- XOR (R70). -/
def execXor (h : Hdr) (sz : Size) (u : Bool) (a b : GQ) (c : Src2) (s : State) : Host.Outcome State Fault Refusal :=
  alu2 h sz u a b c (fun x y => x ^^^ y) s

/-- ANDN (R70). -/
def execAndn (h : Hdr) (sz : Size) (u : Bool) (a b : GQ) (c : Src2) (s : State) : Host.Outcome State Fault Refusal :=
  alu2 h sz u a b c (fun x y => x &&& ~~~y) s

/-- SHL (R70). -/
def execShl (h : Hdr) (sz : Size) (u : Bool) (a b : GQ) (c : Src2) (s : State) : Host.Outcome State Fault Refusal :=
  alu2 h sz u a b c (fun {n} x y => x <<< (y.toNat % n)) s

/-- SHR (R70). -/
def execShr (h : Hdr) (sz : Size) (u : Bool) (a b : GQ) (c : Src2) (s : State) : Host.Outcome State Fault Refusal :=
  alu2 h sz u a b c (fun {n} x y => x >>> (y.toNat % n)) s

/-- SAR (R70). -/
def execSar (h : Hdr) (sz : Size) (u : Bool) (a b : GQ) (c : Src2) (s : State) : Host.Outcome State Fault Refusal :=
  alu2 h sz u a b c (fun {n} x y => x.sshiftRight (y.toNat % n)) s

/-- ROT (R70). -/
def execRot (h : Hdr) (sz : Size) (u : Bool) (a b : GQ) (c : Src2) (s : State) : Host.Outcome State Fault Refusal :=
  alu2 h sz u a b c (fun {n} x y => x.rotateLeft (y.toNat % n)) s

/-- CLZ (R72). -/
def execClz (h : Hdr) (sz : Size) (u : Bool) (a b : GQ) (s : State) : Host.Outcome State Fault Refusal :=
  alu1 h sz u a b clzBV s

/-- POPC (R72). -/
def execPopc (h : Hdr) (sz : Size) (u : Bool) (a b : GQ) (s : State) : Host.Outcome State Fault Refusal :=
  alu1 h sz u a b popBV s

/-- MIN (R70). -/
def execMin (h : Hdr) (sz : Size) (u : Bool) (a b : GQ) (c : Src2) (s : State) : Host.Outcome State Fault Refusal :=
  alu2 h sz u a b c (minBV u) s

/-- MAX (R70). -/
def execMax (h : Hdr) (sz : Size) (u : Bool) (a b : GQ) (c : Src2) (s : State) : Host.Outcome State Fault Refusal :=
  alu2 h sz u a b c (maxBV u) s

/-- SEL (R73). -/
def execSel (h : Hdr) (sz : Size) (u : Bool) (j : BitVec 3) (neg : Bool) (a b : GQ) (c : Src2) (s : State) :
    Host.Outcome State Fault Refusal :=
  instr h s do
    let p ← asks fun s => s.act.getP j
    let x ← readG b
    let y ← readSrc2 c
    writeG a (extend u (lowBits sz.bits (if p != neg then x else y)))

/-- LDI (R74). -/
def execLdi (h : Hdr) (u : Bool) (a : GQ) (imm : BitVec 32) (s : State) : Host.Outcome State Fault Refusal :=
  instr h s (writeG a (extend u imm))

/-- LDIH (R74). -/
def execLdih (h : Hdr) (a : BitVec 5) (imm : BitVec 32) (s : State) : Host.Outcome State Fault Refusal :=
  instr h s do
    let x ← readReg a
    writeReg a (imm ++ x.extractLsb' 0 32)

/-! ## Bit fields (R75) -/

/-- The low w bits of a value, sign- or zero-extended from bit w − 1; w is 1 to 64. -/
def extField (u : Bool) (x : Word) (w : Nat) : Word :=
  let f : Nat := x.toNat % 2 ^ w
  if !u && f.testBit (w - 1) then BitVec.ofInt 64 ((f : Int) - (2 ^ w : Nat)) else BitVec.ofNat 64 f

/-- EXT (R75). -/
def execExt (h : Hdr) (u : Bool) (a b : GQ) (c : Src2) (s : State) : Host.Outcome State Fault Refusal :=
  instr h s do
    let x ← readG b
    let y ← readSrc2 c
    let w := y.toNat % 128
    writeG a (if w = 0 ∨ 64 ≤ w then x else extField u x w)

/-- BFX (R75). -/
def execBfx (h : Hdr) (u : Bool) (a b : GQ) (pos wid1 : BitVec 6) (s : State) : Host.Outcome State Fault Refusal :=
  instr h s do
    let x ← readG b
    writeG a (extField u (x >>> pos.toNat) (wid1.toNat + 1))

/-- The field of a bit-field insertion, as a mask. -/
def fieldMask (pos wid1 : BitVec 6) : Word := BitVec.ofNat 64 ((2 ^ (wid1.toNat + 1) - 1) <<< pos.toNat)

/-- BFI (R75). -/
def execBfi (h : Hdr) (a : BitVec 5) (b : GQ) (pos wid1 : BitVec 6) (s : State) : Host.Outcome State Fault Refusal :=
  instr h s do
    let x ← readG b
    let old ← readReg a
    let m := fieldMask pos wid1
    writeReg a ((old &&& ~~~m) ||| ((x <<< pos.toNat) &&& m))

/-! ## Addresses and positions (R76, R77) -/

/-- LEA (R76). -/
def execLea (h : Hdr) (loc : Bool) (a b : GQ) (f : LeaForm) (s : State) : Host.Outcome State Fault Refusal :=
  instr h s do
    let x ← readG b
    let y ← match f with
      | .disp d => pure (d.signExtend 64)
      | .index c sh d => do
        let i ← readG c
        pure ((i <<< sh.toNat) + d.signExtend 64)
    writeG a (withLocal loc (x + y))

/-- Index of a packed position (R77). -/
def hidxOf (p : Word) : Word :=
  let x := p.toNat % 256
  let y := p.toNat / 256
  if 255 < y ∨ 31 < x ∨ 15 < y then BitVec.allOnes 64 else BitVec.ofNat 64 (clusterAt x y)

/-- Packed position of an index (R77). -/
def hxyOf (i : Word) : Word :=
  if 511 < i.toNat then BitVec.allOnes 64
  else
    let (x, y) := clusterXY i.toNat
    BitVec.ofNat 64 (x + 256 * y)

/-- HIDX (R77). -/
def execHidx (h : Hdr) (a b : GQ) (s : State) : Host.Outcome State Fault Refusal :=
  instr h s do
    let x ← readG b
    writeG a (hidxOf x)

/-- HXY (R77). -/
def execHxy (h : Hdr) (a b : GQ) (s : State) : Host.Outcome State Fault Refusal :=
  instr h s do
    let x ← readG b
    writeG a (hxyOf x)

/-! ## Compares and predicates (R78-R81) -/

/-- Integer comparison (R78). -/
def icmp (cond : ICond) (u : Bool) {n : Nat} (a b : BitVec n) : Bool :=
  let lt := if u then a.ult b else a.slt b
  match cond with
  | .eq => a == b
  | .ne => a != b
  | .lt => lt
  | .le => lt || a == b
  | .gt => !(lt || a == b)
  | .ge => !lt
  | .tst => a &&& b != 0

/-- CMP (R78). -/
def execCmp (h : Hdr) (cond : ICond) (sz : Size) (u : Bool) (p : BitVec 3) (b : GQ) (c : Src2) (s : State) :
    Host.Outcome State Fault Refusal :=
  instr h s do
    let x ← readG b
    let y ← readSrc2 c
    changeAct fun a => a.setP p (icmp cond u (lowBits sz.bits x) (lowBits sz.bits y))

/-- FCMP (R79). -/
def execFcmp (h : Hdr) (cond : FCond) (fmt : FFmt) (p : BitVec 3) (b : GQ) (c : Src2) (s : State) :
    Host.Outcome State Fault Refusal :=
  instrFp h s do
    let x ← readG b
    let y ← readSrc2U c
    let (r, fl) := fcmp (binFmt fmt) cond (x.toNat % 2 ^ fmt.bits) (y.toNat % 2 ^ fmt.bits)
    changeAct fun a => a.setP p r
    pure fl

/-- Bit 2 × b + c of a truth table (R80, R99). -/
def truth (t : BitVec 4) (b c : Bool) : Bool := t.getLsbD (2 * b.toNat + c.toNat)

/-- PLOG (R80). -/
def execPlog (h : Hdr) (t : BitVec 4) (a b c : BitVec 3) (s : State) : Host.Outcome State Fault Refusal :=
  instr h s (changeAct fun x => x.setP a (truth t (x.getP b) (x.getP c)))

/-- All eight predicates as a byte; p7 reads 1. -/
def Act.allP (a : Act) : BitVec 8 := a.p ||| 0x80

/-- PMOV (R81). -/
def execPmov (h : Hdr) (f : PmovForm) (s : State) : Host.Outcome State Fault Refusal :=
  instr h s do
    match f with
    | .pp a b => changeAct fun x => x.setP a (x.getP b)
    | .pg a b => do
      let w ← readG b
      changeAct fun x => x.setP a (w != 0)
    | .gp a b => do
      let v ← asks fun s => s.act.getP b
      writeG a (if v then 1 else 0)
    | .pack a => do
      let v ← asks fun s => s.act.allP
      writeG a (v.setWidth 64)
    | .unpack b => do
      let w ← readG b
      changeAct fun x => { x with p := w.setWidth 8 &&& 0x7F, dirtyWs := x.dirtyWs ||| 0x2000 }

/-! ## Masks (R99, R100) -/

/-- KLOG (R99). -/
def execKlog (h : Hdr) (t : BitVec 4) (a b c : BitVec 3) (s : State) : Host.Outcome State Fault Refusal :=
  instr h s (changeAct fun x =>
    let y := x.getK b
    let z := x.getK c
    x.setK a (BitVec.ofNat 16 (((List.range 16).map fun j =>
      if truth t (y.getLsbD j) (z.getLsbD j) then 2 ^ j else 0).sum)))

/-- KMOV (R100). -/
def execKmov (h : Hdr) (f : KmovForm) (s : State) : Host.Outcome State Fault Refusal :=
  instr h s do
    match f with
    | .kk a b => changeAct fun x => x.setK a (x.getK b)
    | .kg a b => do
      let w ← readG b
      changeAct fun x => x.setK a (w.setWidth 16)
    | .gk a b => do
      let v ← asks fun s => s.act.getK b
      writeG a (v.setWidth 64)
    | .first a b => do
      let w ← readG b
      changeAct fun x => x.setK a (BitVec.ofNat 16 (2 ^ min w.toNat 16 - 1))

end Sys2Proof.Machine
end

