-- ==== Sys2Proof/Machine/Dispatch.lean ====
section
/-! DEFINITION. The meaning of every instruction and event: one arm for each constructor of `Instr`. -/

namespace Sys2Proof.Machine

/-- The effect of an instruction or event on the machine. -/
def exec (i : Instr) (s : State) : Host.Outcome State Fault Refusal :=
  match i with
  -- scalar, address and control (R69-R86)
  | .nop h => Sys2Proof.Machine.execNop h s
  | .add h sz u a b c => Sys2Proof.Machine.execAdd h sz u a b c s
  | .sub h sz u a b c => Sys2Proof.Machine.execSub h sz u a b c s
  | .mov h sz u a b => Sys2Proof.Machine.execMov h sz u a b s
  | .mul h sz u a b c => Sys2Proof.Machine.execMul h sz u a b c s
  | .mulh h sz u a b c => Sys2Proof.Machine.execMulh h sz u a b c s
  | .mulhu h sz u a b c => Sys2Proof.Machine.execMulhu h sz u a b c s
  | .div h sz u a b c => Sys2Proof.Machine.execDiv h sz u a b c s
  | .divu h sz u a b c => Sys2Proof.Machine.execDivu h sz u a b c s
  | .rem h sz u a b c => Sys2Proof.Machine.execRem h sz u a b c s
  | .remu h sz u a b c => Sys2Proof.Machine.execRemu h sz u a b c s
  | .and h sz u a b c => Sys2Proof.Machine.execAnd h sz u a b c s
  | .or h sz u a b c => Sys2Proof.Machine.execOr h sz u a b c s
  | .xor h sz u a b c => Sys2Proof.Machine.execXor h sz u a b c s
  | .andn h sz u a b c => Sys2Proof.Machine.execAndn h sz u a b c s
  | .shl h sz u a b c => Sys2Proof.Machine.execShl h sz u a b c s
  | .shr h sz u a b c => Sys2Proof.Machine.execShr h sz u a b c s
  | .sar h sz u a b c => Sys2Proof.Machine.execSar h sz u a b c s
  | .rot h sz u a b c => Sys2Proof.Machine.execRot h sz u a b c s
  | .clz h sz u a b => Sys2Proof.Machine.execClz h sz u a b s
  | .popc h sz u a b => Sys2Proof.Machine.execPopc h sz u a b s
  | .min h sz u a b c => Sys2Proof.Machine.execMin h sz u a b c s
  | .max h sz u a b c => Sys2Proof.Machine.execMax h sz u a b c s
  | .sel h sz u j neg a b c => Sys2Proof.Machine.execSel h sz u j neg a b c s
  | .ldi h u a imm => Sys2Proof.Machine.execLdi h u a imm s
  | .ldih h a imm => Sys2Proof.Machine.execLdih h a imm s
  | .ext h u a b c => Sys2Proof.Machine.execExt h u a b c s
  | .bfx h u a b pos wid1 => Sys2Proof.Machine.execBfx h u a b pos wid1 s
  | .bfi h a b pos wid1 => Sys2Proof.Machine.execBfi h a b pos wid1 s
  | .lea h loc a b f => Sys2Proof.Machine.execLea h loc a b f s
  | .hidx h a b => Sys2Proof.Machine.execHidx h a b s
  | .hxy h a b => Sys2Proof.Machine.execHxy h a b s
  | .br h off => Sys2Proof.Machine.execBr h off s
  | .brx h b => Sys2Proof.Machine.execBrx h b s
  | .call h off => Sys2Proof.Machine.execCall h off s
  | .callx h b => Sys2Proof.Machine.execCallx h b s
  | .ret h b => Sys2Proof.Machine.execRet h b s
  | .loop h a off => Sys2Proof.Machine.execLoop h a off s
  | .endAct h => Sys2Proof.Machine.execEndAct h s
  | .cmp h cond sz u p b c => Sys2Proof.Machine.execCmp h cond sz u p b c s
  | .fcmp h cond fmt p b c => Sys2Proof.Machine.execFcmp h cond fmt p b c s
  | .plog h t a b c => Sys2Proof.Machine.execPlog h t a b c s
  | .pmov h f => Sys2Proof.Machine.execPmov h f s
  | .asfork h off => Sys2Proof.Machine.execAsfork h off s
  | .aend h => Sys2Proof.Machine.execAend h s
  -- memory and ordering (R142-R152)
  | .ld h sz u x1 a m => Sys2Proof.Machine.execLd h sz u x1 a m s
  | .st h sz x1 a m => Sys2Proof.Machine.execSt h sz x1 a m s
  | .ldacq h sc sz u a m => Sys2Proof.Machine.execLdacq h sc sz u a m s
  | .strel h sc sz a m => Sys2Proof.Machine.execStrel h sc sz a m s
  | .amo h op dw ord loc a b c disp => Sys2Proof.Machine.execAmo h op dw ord loc a b c disp s
  | .cas h dw ord loc a b c disp => Sys2Proof.Machine.execCas h dw ord loc a b c disp s
  | .fence h k sc => Sys2Proof.Machine.execFence h k sc s
  | .cflush h sc sz m => Sys2Proof.Machine.execCflush h sc sz m s
  | .cinv h x2 sc sz m => Sys2Proof.Machine.execCinv h x2 sc sz m s
  | .pref h l m => Sys2Proof.Machine.execPref h l m s
  | .sdrain h => Sys2Proof.Machine.execSdrain h s
  -- streams (R112, R113)
  | .scfg h wr sg b c stride => Sys2Proof.Machine.execScfg h wr sg b c stride s
  | .sbind h v sg => Sys2Proof.Machine.execSbind h v sg s
  | .sunbind h v => Sys2Proof.Machine.execSunbind h v s
  -- scalar floating point (R92-R95)
  | .fadd h fmt rm a b c => Sys2Proof.Machine.execFadd h fmt rm a b c s
  | .fsub h fmt rm a b c => Sys2Proof.Machine.execFsub h fmt rm a b c s
  | .fmul h fmt rm a b c => Sys2Proof.Machine.execFmul h fmt rm a b c s
  | .ffma h fmt rm a b c => Sys2Proof.Machine.execFfma h fmt rm a b c s
  | .fmin h fmt a b c => Sys2Proof.Machine.execFmin h fmt a b c s
  | .fmax h fmt a b c => Sys2Proof.Machine.execFmax h fmt a b c s
  | .fcvt h rm dt st a b => Sys2Proof.Machine.execFcvt h rm dt st a b s
  | .fsgn h fmt a b x1 => Sys2Proof.Machine.execFsgn h fmt a b x1 s
  -- vector floating point, compares, integers (R96-R101)
  | .vadd h fmt rm z mk a b c => Sys2Proof.Machine.execVadd h fmt rm z mk a b c s
  | .vsub h fmt rm z mk a b c => Sys2Proof.Machine.execVsub h fmt rm z mk a b c s
  | .vmul h fmt rm z mk a b c => Sys2Proof.Machine.execVmul h fmt rm z mk a b c s
  | .vfma h fmt rm z mk a b c => Sys2Proof.Machine.execVfma h fmt rm z mk a b c s
  | .vfms h fmt rm z mk a b c => Sys2Proof.Machine.execVfms h fmt rm z mk a b c s
  | .vfnma h fmt rm z mk a b c => Sys2Proof.Machine.execVfnma h fmt rm z mk a b c s
  | .vmin h fmt z mk a b c => Sys2Proof.Machine.execVmin h fmt z mk a b c s
  | .vmax h fmt z mk a b c => Sys2Proof.Machine.execVmax h fmt z mk a b c s
  | .vsgn h fmt z mk a b x1 => Sys2Proof.Machine.execVsgn h fmt z mk a b x1 s
  | .vcmp h op mk k b c => Sys2Proof.Machine.execVcmp h op mk k b c s
  | .vsel h mk a b c => Sys2Proof.Machine.execVsel h mk a b c s
  | .viadd h sz sat u z mk a b c => Sys2Proof.Machine.execViadd h sz sat u z mk a b c s
  | .visub h sz sat u z mk a b c => Sys2Proof.Machine.execVisub h sz sat u z mk a b c s
  | .vimul h sz z mk a b c => Sys2Proof.Machine.execVimul h sz z mk a b c s
  | .vand h z mk a b c => Sys2Proof.Machine.execVand h z mk a b c s
  | .vor h z mk a b c => Sys2Proof.Machine.execVor h z mk a b c s
  | .vxor h z mk a b c => Sys2Proof.Machine.execVxor h z mk a b c s
  | .vshl h sz z mk a b c => Sys2Proof.Machine.execVshl h sz z mk a b c s
  | .vshr h sz z mk a b c => Sys2Proof.Machine.execVshr h sz z mk a b c s
  | .vsar h sz z mk a b c => Sys2Proof.Machine.execVsar h sz z mk a b c s
  | .vcvt h rm z mk dt st p a b => Sys2Proof.Machine.execVcvt h rm z mk dt st p a b s
  | .vbcast h sz z mk a b => Sys2Proof.Machine.execVbcast h sz z mk a b s
  | .vextr h sz u a b x2 => Sys2Proof.Machine.execVextr h sz u a b x2 s
  | .vins h sz a b x2 => Sys2Proof.Machine.execVins h sz a b x2 s
  | .vperm h sz z mk a b c => Sys2Proof.Machine.execVperm h sz z mk a b c s
  | .vred h op mk a b => Sys2Proof.Machine.execVred h op mk a b s
  | .vdot2 h half rm z mk a b c => Sys2Proof.Machine.execVdot2 h half rm z mk a b c s
  | .vdot4 h u sat z mk a b c => Sys2Proof.Machine.execVdot4 h u sat z mk a b c s
  -- vector memory and format windows (R107-R111)
  | .vld h x1 z loc mk a b c disp => Sys2Proof.Machine.execVld h x1 z loc mk a b c disp s
  | .vst h x1 loc mk a b c disp => Sys2Proof.Machine.execVst h x1 loc mk a b c disp s
  | .vgather h x1 z loc mk a b c disp => Sys2Proof.Machine.execVgather h x1 z loc mk a b c disp s
  | .vscatter h x1 loc mk a b c disp => Sys2Proof.Machine.execVscatter h x1 loc mk a b c disp s
  | .vldf h f rm a b disp => Sys2Proof.Machine.execVldf h f rm a b disp s
  | .vstf h f rne a b disp => Sys2Proof.Machine.execVstf h f rne a b disp s
  | .baddq h fmt rne a b c => Sys2Proof.Machine.execBaddq h fmt rne a b c s
  | .klog h t a b c => Sys2Proof.Machine.execKlog h t a b c s
  | .kmov h f => Sys2Proof.Machine.execKmov h f s
  -- special functions (R116-R120)
  | .rcpa h rne x => Sys2Proof.Machine.execRcpa h rne x s
  | .rsqa h rne x => Sys2Proof.Machine.execRsqa h rne x s
  | .sqrtf h rm x => Sys2Proof.Machine.execSqrtf h rm x s
  | .divf h rm x => Sys2Proof.Machine.execDivf h rm x s
  | .exp2a h rne x => Sys2Proof.Machine.execExp2a h rne x s
  | .log2a h rne x => Sys2Proof.Machine.execLog2a h rne x s
  | .tanha h rne x => Sys2Proof.Machine.execTanha h rne x s
  | .gelua h rne x => Sys2Proof.Machine.execGelua h rne x s
  | .sincos h rne x => Sys2Proof.Machine.execSincos h rne x s
  | .pmerge h rm x => Sys2Proof.Machine.execPmerge h rm x s
  -- directional (R124-R133)
  | .dnorm h rne a b x1 => Sys2Proof.Machine.execDnorm h rne a b x1 s
  | .dcvt h f => Sys2Proof.Machine.execDcvt h f s
  | .ddot h dot rm a b c => Sys2Proof.Machine.execDdot h dot rm a b c s
  | .dsim8 h rm x1 a q c disp => Sys2Proof.Machine.execDsim8 h rm x1 a q c disp s
  | .dscale h a b c => Sys2Proof.Machine.execDscale h a b c s
  | .dadd h sub rne a b c => Sys2Proof.Machine.execDadd h sub rne a b c s
  | .dlerp h rne a b c t => Sys2Proof.Machine.execDlerp h rne a b c t s
  | .dneg h a b => Sys2Proof.Machine.execDneg h a b s
  | .drot h rne a b c e sh => Sys2Proof.Machine.execDrot h rne a b c e sh s
  | .dmovn h f => Sys2Proof.Machine.execDmovn h f s
  | .dld h x1 a b c disp => Sys2Proof.Machine.execDld h x1 a b c disp s
  | .dst h x1 a b c disp => Sys2Proof.Machine.execDst h x1 a b c disp s
  | .dtest h p b cond => Sys2Proof.Machine.execDtest h p b cond s
  -- messages and mailboxes (R179-R187)
  | .send h rel d src cls c => Sys2Proof.Machine.execSend h rel d src cls c s
  | .sendl h rel d b len1 cls c => Sys2Proof.Machine.execSendl h rel d b len1 cls c s
  | .reply h rel src cls c => Sys2Proof.Machine.execReply h rel src cls c s
  | .refuse h code => Sys2Proof.Machine.execRefuse h code s
  | .mbcfgQ h m b => Sys2Proof.Machine.execMbcfgQ h m b s
  | .mbcfgComb h m b => Sys2Proof.Machine.execMbcfgComb h m b s
  | .mbcfgBob h m b c => Sys2Proof.Machine.execMbcfgBob h m b c s
  | .mbcfgHnd h m cls idem b => Sys2Proof.Machine.execMbcfgHnd h m cls idem b s
  | .mbcfgOff h m b => Sys2Proof.Machine.execMbcfgOff h m b s
  | .cmask h m mask => Sys2Proof.Machine.execCmask h m mask s
  | .cunmask h m mask => Sys2Proof.Machine.execCunmask h m mask s
  | .mbstat h dig a m => Sys2Proof.Machine.execMbstat h dig a m s
  | .mbarm h op m b c => Sys2Proof.Machine.execMbarm h op m b c s
  | .self h f a => Sys2Proof.Machine.execSelf h f a s
  -- domains (R194-R206)
  | .entry h j hs => Sys2Proof.Machine.execEntry h j hs s
  | .calld h t => Sys2Proof.Machine.execCalld h t s
  | .retd h => Sys2Proof.Machine.execRetd h s
  | .lend h w n b c => Sys2Proof.Machine.execLend h w n b c s
  | .unlend h p n => Sys2Proof.Machine.execUnlend h p n s
  | .domq h f => Sys2Proof.Machine.execDomq h f s
  -- matrix unit (R259-R263)
  | .mma h acc k swA swB => Sys2Proof.Machine.execMma h acc k swA swB s
  | .mmas h acc k swA swB => Sys2Proof.Machine.execMmas h acc k swA swB s
  | .mmasx h acc k swA swB swM => Sys2Proof.Machine.execMmasx h acc k swA swB swM s
  | .mzero h acc => Sys2Proof.Machine.execMzero h acc s
  | .mload h acc sw => Sys2Proof.Machine.execMload h acc sw s
  | .mstore h rm sw acc => Sys2Proof.Machine.execMstore h rm sw acc s
  | .mxpose h swD swS => Sys2Proof.Machine.execMxpose h swD swS s
  | .mewise h acc op => Sys2Proof.Machine.execMewise h acc op s
  | .mcfgSw h sw b c => Sys2Proof.Machine.execMcfgSw h sw b c s
  | .mcfgSt h clr a => Sys2Proof.Machine.execMcfgSt h clr a s
  -- engines and synchronisation (R272-R281)
  | .copy h a b cb => Sys2Proof.Machine.execCopy h a b cb s
  | .gather h sc a b => Sys2Proof.Machine.execGather h sc a b s
  | .cbinit h cb b c => Sys2Proof.Machine.execCbinit h cb b c s
  | .cbwait h a cb c => Sys2Proof.Machine.execCbwait h a cb c s
  | .cbrel h cb k => Sys2Proof.Machine.execCbrel h cb k s
  | .waitc h t n => Sys2Proof.Machine.execWaitc h t n s
  | .readc h f a t => Sys2Proof.Machine.execReadc h f a t s
  | .cbar h bar b => Sys2Proof.Machine.execCbar h bar b s
  -- graph (R325, R326)
  | .gsub h a b => Sys2Proof.Machine.execGsub h a b s
  | .gsig h e n => Sys2Proof.Machine.execGsig h e n s
  | .gsigSet h e c => Sys2Proof.Machine.execGsigSet h e c s
  -- system (R155-R159, R217-R233)
  | .srd h a r => Sys2Proof.Machine.execSrd h a r s
  | .swr h r b => Sys2Proof.Machine.execSwr h r b s
  | .trap h code => Sys2Proof.Machine.execTrap h code s
  | .brk h code => Sys2Proof.Machine.execBrk h code s
  | .resume h a b c => Sys2Proof.Machine.execResume h a b c s
  | .winmap h a b c => Sys2Proof.Machine.execWinmap h a b c s
  | .ckpt h ts a b => Sys2Proof.Machine.execCkpt h ts a b s
  | .tlbinvPage h sc b => Sys2Proof.Machine.execTlbinvPage h sc b s
  | .tlbinvAll h sc => Sys2Proof.Machine.execTlbinvAll h sc s
  | .logmark h f v => Sys2Proof.Machine.execLogmark h f v s
  | .cstop h b c => Sys2Proof.Machine.execCstop h b c s
  | .cstopGo h b c => Sys2Proof.Machine.execCstopGo h b c s
  | .killAct h a b c => Sys2Proof.Machine.execKillAct h a b c s
  | .killActor h a b => Sys2Proof.Machine.execKillActor h a b s
  | .killGrp h a b => Sys2Proof.Machine.execKillGrp h a b s
  | .swrSupv h b => Sys2Proof.Machine.execSwrSupv h b s
  | .swrSfqh h b => Sys2Proof.Machine.execSwrSfqh h b s
  | .swrHbud h b => Sys2Proof.Machine.execSwrHbud h b s
  | .swrMlen h b => Sys2Proof.Machine.execSwrMlen h b s
  | .swrMqw h b => Sys2Proof.Machine.execSwrMqw h b s
  | .swrLogp h b => Sys2Proof.Machine.execSwrLogp h b s
  -- events: descriptors, arrivals, activations, stores, kills, stops
  | .registerWrite d => Sys2Proof.Machine.execRegisterWrite d s
  | .messageArrival ctx m => Sys2Proof.Machine.execMessageArrival ctx m s
  | .activationStart ctx core => Sys2Proof.Machine.execActivationStart ctx core s
  | .bobbinDrain ctx aad => Sys2Proof.Machine.execBobbinDrain ctx aad s
  | .outboundRelease t => Sys2Proof.Machine.execOutboundRelease t s
  | .delayedInjection ctx core m => Sys2Proof.Machine.execDelayedInjection ctx core m s
  | .storeCheck t n => Sys2Proof.Machine.execStoreCheck t n s
  | .budgetKill t => Sys2Proof.Machine.execBudgetKill t s
  | .uncorrectableErrorKill t => Sys2Proof.Machine.execUncorrectableErrorKill t s
  | .stop ctx core issuer => Sys2Proof.Machine.execStop ctx core issuer s
  | .stopComplete ctx core => Sys2Proof.Machine.execStopComplete ctx core s
  | .contextRestore ctx => Sys2Proof.Machine.execContextRestore ctx s
  | .timeSliceExpiry ctx => Sys2Proof.Machine.execTimeSliceExpiry ctx s
  | .breakpointUpdate ctx n aid flags index => Sys2Proof.Machine.execBreakpointUpdate ctx n aid flags index s
  | .walkEnd ctx cluster va acc => Sys2Proof.Machine.execWalkEnd ctx cluster va acc s
  | .faultCompletion ctx seq => Sys2Proof.Machine.execFaultCompletion ctx seq s
  | .faultRefusal ctx seq => Sys2Proof.Machine.execFaultRefusal ctx seq s
  -- events: matrix unit, engines, synchronisation, logs
  | .matrixStep ctx cluster => Sys2Proof.Machine.execMatrixStep ctx cluster s
  | .tileCommandComplete ctx core => Sys2Proof.Machine.execTileCommandComplete ctx core s
  | .leaveGrant ctx core eng => Sys2Proof.Machine.execLeaveGrant ctx core eng s
  | .engineChunk ctx core gth => Sys2Proof.Machine.execEngineChunk ctx core gth s
  | .engineCommandComplete ctx core gth => Sys2Proof.Machine.execEngineCommandComplete ctx core gth s
  | .releaseDone ctx core => Sys2Proof.Machine.execReleaseDone ctx core s
  | .waitcComplete t x1 => Sys2Proof.Machine.execWaitcComplete t x1 s
  | .cbwaitComplete t x1 => Sys2Proof.Machine.execCbwaitComplete t x1 s
  | .barrierRelease ctx cluster bar => Sys2Proof.Machine.execBarrierRelease ctx cluster bar s
  | .streamFetch t sg => Sys2Proof.Machine.execStreamFetch t sg s
  | .spanEnd ctx core state cause len => Sys2Proof.Machine.execSpanEnd ctx core state cause len s
  | .spanExtension ctx core => Sys2Proof.Machine.execSpanExtension ctx core s
  -- events: mesh, caches, rails
  | .packetRoute ctx cur dst p => Sys2Proof.Machine.execPacketRoute ctx cur dst p s
  | .cacheEviction cluster line => Sys2Proof.Machine.execCacheEviction cluster line s
  | .railLow cluster => Sys2Proof.Machine.execRailLow cluster s
  | .railHigh cluster => Sys2Proof.Machine.execRailHigh cluster s
  | .pseudoChannelSparing stack chan spare => Sys2Proof.Machine.execPseudoChannelSparing stack chan spare s
  -- events: graph unit
  | .nodeAccept ctx desc subm cluster dom windows dest => Sys2Proof.Machine.execNodeAccept ctx desc subm cluster dom windows dest s
  | .controlEvaluation ctx id => Sys2Proof.Machine.execControlEvaluation ctx id s
  | .expansionAccept ctx id => Sys2Proof.Machine.execExpansionAccept ctx id s
  | .readyAging ctx id => Sys2Proof.Machine.execReadyAging ctx id s
  | .nodeDispatch ctx => Sys2Proof.Machine.execNodeDispatch ctx s
  | .dispatchRefused ctx id => Sys2Proof.Machine.execDispatchRefused ctx id s
  | .workerPassoverExpiry ctx w => Sys2Proof.Machine.execWorkerPassoverExpiry ctx w s
  | .nodeComplete ctx id => Sys2Proof.Machine.execNodeComplete ctx id s
  | .submitDoorbell ctx frame => Sys2Proof.Machine.execSubmitDoorbell ctx frame s
  | .counterWindowRead ctx x2 => Sys2Proof.Machine.execCounterWindowRead ctx x2 s
  | .partitionResize ctx svb svl => Sys2Proof.Machine.execPartitionResize ctx svb svl s
  | .launch p => Sys2Proof.Machine.execLaunch p s
  -- events: security, boot, update, lockstitch, power
  | .keyRetire slot => Sys2Proof.Machine.execKeyRetire slot s
  | .liveUpdate img graph => Sys2Proof.Machine.execLiveUpdate img graph s
  | .seamCheck t hp hs => Sys2Proof.Machine.execSeamCheck t hp hs s
  -- events: fabric
  | .transmitRequest port q ctx m => Sys2Proof.Machine.execTransmitRequest port q ctx m s
  | .frameReceive port f => Sys2Proof.Machine.execFrameReceive port f s
  | .retransmitTimeout port dfid => Sys2Proof.Machine.execRetransmitTimeout port dfid s
  -- events: creation
  | .contextCreation ctx svb svl => Sys2Proof.Machine.execContextCreation ctx svb svl s
  -- events without parameters
  | .getVersion => Sys2Proof.Machine.execGetVersion s
  | .getCapabilities => Sys2Proof.Machine.execGetCapabilities s
  | .negotiateAlgorithms => Sys2Proof.Machine.execNegotiateAlgorithms s
  | .getDigests => Sys2Proof.Machine.execGetDigests s
  | .getCertificate => Sys2Proof.Machine.execGetCertificate s
  | .challenge => Sys2Proof.Machine.execChallenge s
  | .getMeasurements => Sys2Proof.Machine.execGetMeasurements s
  | .boot => Sys2Proof.Machine.execBoot s
  | .moduleWake => Sys2Proof.Machine.execModuleWake s
  | .heartbeat => Sys2Proof.Machine.execHeartbeat s
  | .rollback => Sys2Proof.Machine.execRollback s
  | .svnRaise => Sys2Proof.Machine.execSvnRaise s
  | .clockDown => Sys2Proof.Machine.execClockDown s
  | .clockUp => Sys2Proof.Machine.execClockUp s
  | .reset => Sys2Proof.Machine.execReset s

end Sys2Proof.Machine
end

