-- ==== Sys2Proof/Machine/Tick.lean ====
section
/-! DEFINITION. The end of a cycle: budgets (R211, R212), parks of R139, the activity logs (R221), the graph unit's clock, aging
and dispatch (R318, R320, R324), time slices (R338) and stops that are complete (R213). -/

namespace Sys2Proof.Machine

/-- The graph unit of a context in one cycle: its clock advances while the context is not stopped (R324); ready nodes age
(R318), passovers end (R320), and at most one node is dispatched (R318), none during an update of the firmware (R347). -/
def State.graphCycle (s : State) (c : Nat) : State :=
  if (s.ctxAt c).nodes.isEmpty && (s.ctxAt c).workers.all (fun w => w.passUntil.isNone) then s
  else if s.ctxStopped c then s
  else
    let s := s.modCtx c fun x => { x with gclock := x.gclock + 1 }
    let x := s.ctxAt c
    let s := x.nodes.foldl (fun s n => match n.st with
      | .ready since lv _ => if lv < 3 ∧ since + 4096 ≤ x.gclock then s.now (.readyAging c n.id) else s
      | _ => s) s
    let s := x.workers.toList.zipIdx.foldl (fun s (w : Worker × Nat) => match w.1.passUntil with
      | some t => if t ≤ x.gclock then s.now (.workerPassoverExpiry c (BitVec.ofNat 8 w.2)) else s
      | none => s) s
    if !s.graphStopped c && (s.chooseNode c).isSome then s.now (.nodeDispatch c) else s

/-- The slice of a running context counts a cycle (R338). -/
def State.sliceCycle (s : State) (c : Nat) : State :=
  let x := s.ctxAt c
  if x.running then
    let s := s.modCtx c fun x => { x with used := x.used + 1 }
    if x.used < x.slice ∧ x.slice ≤ x.used + 1 then s.now (.timeSliceExpiry c) else s
  else s

/-- Cores on which a stop has just become complete (R213). -/
def State.endStops (s : State) : State :=
  s.coreCtx.foldl (fun s k => if s.stopDue k.1.1 k.1.2 then s.now (.stopComplete k.1.1 k.1.2) else s) s

/-- A heartbeat that has not come in time: the update rolls back (R348). -/
def State.missedBeat (s : State) : State :=
  match s.update with
  | some u => if u.due < s.reft then s.now .rollback else s
  | none => s

/-- A cycle in which the module is not booted: time passes. -/
def State.tickOff (s : State) : State := { s with cycle := s.cycle + 1, reft := s.reft + refUnits / s.clock }

/-- The end of the present cycle; the general cores' cycles are counted (R229; DESIGN CHOICE, notes/assumptions/69.md). -/
def State.tick (s : State) : State :=
  let s := (s.acts.map (·.1)).foldl (fun s t => (s.useCycle t).parkFailed t) s
  let s := s.liveCores.foldl (fun s c => s.logCycle c) s
  let s := (s.ctxs.map (·.1)).foldl (fun s c => (s.graphCycle c).sliceCycle c) s.endStops
  let s := (s.countShared 0x0081 (Config.generalCycles s.cycle)).missedBeat
  { s with cycle := s.cycle + 1, reft := s.reft + refUnits / s.clock, blocked := [], issued := [] }

end Sys2Proof.Machine
end

