-- ==== Sys2Proof/Machine/Step.lean ====
section
/-! DEFINITION. One step of the machine: the earliest event that is due, otherwise the next instruction that can issue in
this cycle, then what reaches the graph unit, otherwise the end of the cycle (DESIGN CHOICE, notes/assumptions/5.md). -/

namespace Sys2Proof.Machine

/-- What still acts on a module that has not booted: what wakes, resets and boots it (R14, R346). -/
def actsOff : Instr → Bool
  | .boot | .moduleWake | .reset => true
  | _ => false

/-- One step of a module that sleeps or is in reset: everything else has no effect (R14, R346; DESIGN CHOICE, notes/assumptions/75.md). -/
def stepOff (s : State) : Host.Outcome State Fault Refusal :=
  match s.dueEvent.or s.lastEvent with
  | some (i, s) => if actsOff i then exec i s else .next s
  | none => .next s.tickOff

/-- One step of a module that runs. -/
def stepOn (s : State) : Host.Outcome State Fault Refusal :=
  match s.dueEvent with
  | some (i, s) => exec i s
  | none =>
    match s.nextCandidate with
    | none =>
      (match s.lastEvent with
        | some (i, s) => exec i s
        | none => .next s.tick)
    | some (t, x) =>
      match s.findInstr t x with
      | .state s => .next s
      | .run i s => exec i s

/-- One step. -/
def step (s : State) : Host.Outcome State Fault Refusal := if s.power = .booted then stepOn s else stepOff s

/-- The state in which a step runs a table word first: DESIGN CHOICE, notes/assumptions/6.md. -/
def State.withFetchWord (s : State) (nbits w : Nat) : State := s.placeWord nbits w

end Sys2Proof.Machine
end

