-- ==== Sys2Proof/Safety.lean ====
section
/-! DEFINITION. What a safe state and a safe run are, and the words the statements are made in. -/

namespace Sys2Proof

open Machine

/-- The memory is canonical. -/
def memOk (s : State) : Prop := s.mem.wf = true

/-- The outcome of an instruction or event. -/
abbrev Out := Host.Outcome State Fault Refusal

/-- There is a present activation, and the guard of the instruction is true (R32). -/
def Ready (h : Hdr) (s : State) : Prop := ∃ a, s.act? = some a ∧ a.guardOk h.grd = true

/-- There is a present activation, and the guard of the instruction is false (R32). -/
def Skipped (h : Hdr) (s : State) : Prop := ∃ a, s.act? = some a ∧ a.guardOk h.grd = false

/-- In a state, a part of an instruction (a source read, a result written, bytes loaded) can be performed, gives a value, and
leaves a state. -/
def Gives {α : Type} (m : M α) (s : State) (x : α) (t : State) : Prop := m.run s = .ok (x, t)

/-- In a state, a part of an instruction cannot be performed. -/
def Stops {α : Type} (m : M α) (s : State) (e : Stop) : Prop := m.run s = .error e

/-- A two-source integer instruction (R70) reads FB, then its second source, takes the low n bits of both, and writes the n-bit
result of `f` extended; then its stream goes on. -/
def TwoSource (mk : Hdr → Size → Bool → GQ → GQ → Src2 → Instr) (f : (n : Nat) → Bool → BitVec n → BitVec n → BitVec n) : Prop :=
  ∀ (h : Hdr) (sz : Size) (u : Bool) (a b : GQ) (c : Src2) (x y : Word) (s s1 s2 s3 : State),
    Ready h s → Gives (readG b) s x s1 → Gives (readSrc2 c) s1 y s2 →
    Gives (writeG a (extend u (f sz.bits u (x.setWidth sz.bits) (y.setWidth sz.bits)))) s2 () s3 →
    exec (mk h sz u a b c) s = .next (s3.retire h)

/-- A one-source integer instruction (R72). -/
def OneSource (mk : Hdr → Size → Bool → GQ → GQ → Instr) (f : (n : Nat) → BitVec n → BitVec n) : Prop :=
  ∀ (h : Hdr) (sz : Size) (u : Bool) (a b : GQ) (x : Word) (s s1 s2 : State),
    Ready h s → Gives (readG b) s x s1 → Gives (writeG a (extend u (f sz.bits (x.setWidth sz.bits)))) s1 () s2 →
    exec (mk h sz u a b) s = .next (s2.retire h)

/-- The relation a condition of CMP stands for (R78). -/
def Holds (cond : ICond) (u : Bool) {n : Nat} (x y : BitVec n) : Prop :=
  match cond with
  | .eq => x = y
  | .ne => x ≠ y
  | .lt => if u then x.toNat < y.toNat else x.toInt < y.toInt
  | .le => if u then x.toNat ≤ y.toNat else x.toInt ≤ y.toInt
  | .gt => if u then y.toNat < x.toNat else y.toInt < x.toInt
  | .ge => if u then y.toNat ≤ x.toNat else y.toInt ≤ x.toInt
  | .tst => x &&& y ≠ 0

/-- A scalar floating-point instruction (R92): under its rounding mode, the operation on the low bits of its operands, with `old`
the destination's old value where the instruction reads it; the result is written zero-extended, and its flags are raised. -/
def ScalarFp (mk : Hdr → FFmt → Rm → GQ → GQ → Src2 → Instr) (op : FOp) : Prop :=
  ∀ (h : Hdr) (fmt : FFmt) (rm : Rm) (a b : GQ) (c : Src2) (x y : Word) (s s1 s2 s3 : State),
    let r := fop (binFmt fmt) (rmMode rm s.act.rnd) op 0 (x.toNat % 2 ^ fmt.bits) (y.toNat % 2 ^ fmt.bits)
    Ready h s → Gives (readG b) s x s1 → Gives (readSrc2U c) s1 y s2 → Gives (writeG a (BitVec.ofNat 64 r.1)) s2 () s3 →
    exec (mk h fmt rm a b c) s = .next ((s3.retire h).raise s.pc r.2)

/-- A vector floating-point instruction (R96): the operation on every element of the active lanes; flags are the union. -/
def VectorFp (mk : Hdr → FFmt → Rm → Bool → BitVec 3 → VQ → VQ → VSrc → Instr) (op : FOp) : Prop :=
  ∀ (h : Hdr) (fmt : FFmt) (rm : Rm) (z : Bool) (m : BitVec 3) (a b : VQ) (c : VSrc) (x y old : VReg) (s s1 s2 s3 : State),
    let r := elemsF fmt.bits (s.act.getK m) fun i => fop (binFmt fmt) (rmMode rm s.act.rnd) op (elem fmt.bits old i)
      (elem fmt.bits x i) (elem fmt.bits y i)
    Ready h s → Gives (readV b) s x s1 → Gives (readVSrc fmt.bits c) s1 y s2 → Gives (oldV a) s2 old s2 →
    Gives (writeMasked a (s.act.getK m) z r.1) s2 () s3 →
    exec (mk h fmt rm z m a b c) s = .next ((s3.retire h).raise s.pc r.2)

/-- A vector integer instruction (R101) on elements of n bits. -/
def VectorInt (mk : Hdr → Bool → BitVec 3 → VQ → VQ → VSrc → Instr) (n : Nat) (g : Nat → Nat → Nat) : Prop :=
  ∀ (h : Hdr) (z : Bool) (m : BitVec 3) (a b : VQ) (c : VSrc) (x y : VReg) (s s1 s2 s3 : State),
    Ready h s → Gives (readV b) s x s1 → Gives (readVSrc n c) s1 y s2 →
    Gives (writeMasked a (s.act.getK m) z (elems n (s.act.getK m) fun i => g (elem n x i) (elem n y i))) s2 () s3 →
    exec (mk h z m a b c) s = .next (s3.retire h)

/-- A special function of one operand (R116) in its scalar and its vector form. -/
def Special (mk : Hdr → SF1 → Instr) (f : State → Nat → Nat × BitVec 5) : Prop :=
  (∀ (h : Hdr) (a b : GQ) (x : Word) (s s1 s2 : State), Ready h s → Gives (readG b) s x s1 →
    Gives (writeG a (BitVec.ofNat 64 (f s (x.toNat % 2 ^ 32)).1)) s1 () s2 →
    exec (mk h (.sca a b)) s = .next ((s2.retire h).raise s.pc (f s (x.toNat % 2 ^ 32)).2)) ∧
  (∀ (h : Hdr) (z : Bool) (m : BitVec 3) (a b : VQ) (x : VReg) (s s1 s2 : State),
    let r := elemsF 32 (s.act.getK m) fun j => f s (lane x j).toNat
    Ready h s → Gives (readV b) s x s1 → Gives (writeMasked a (s.act.getK m) z r.1) s1 () s2 →
    exec (mk h (.vec z m a b)) s = .next ((s2.retire h).raise s.pc r.2))

/-- A tag and delay operand (R180): without one, the tag is `tag0` and there is no delay. -/
def TagDelay (tag0 : BitVec 32) (c : Option GQ) (tag : BitVec 32) (delay : Nat) (s t : State) : Prop :=
  match c with
  | none => tag = tag0 ∧ delay = 0 ∧ t = s
  | some q => ∃ w, Gives (readG q) s w t ∧ tag = w.setWidth 32 ∧ delay = min (w.extractLsb' 32 17).toNat 65536

/-- None of the causes of R181 holds for a message of the present activation with n payload bytes. -/
def SendOk (s : State) (dst : Word) (cls : BitVec 4) (n : Nat) (isReply : Bool) : Prop :=
  aadOk dst = true ∧ (s.ctxAt s.cctx).mayReach (nodeOf (aadCore (dst.setWidth 32))) = true ∧
  (16 + n + 63) / 64 ≤ (s.ctxAt s.cctx).mlen.toNat ∧ (cls = 14 → s.isPriv = true) ∧ (isReply = true → s.act.byComb = false) ∧
  (cls = 15 → s.act.msg.m.cls ≠ 15)

/-- Cause n of R181 holds for a message of the present activation with `len` payload bytes. -/
def SendCause (s : State) (dst : Word) (cls : BitVec 4) (len : Nat) (isReply : Bool) (n : Nat) : Prop :=
  (n = 1 ∧ aadOk dst = false) ∨
  (n = 2 ∧ (s.ctxAt s.cctx).mayReach (nodeOf (aadCore (dst.setWidth 32))) = false) ∨
  (n = 3 ∧ (s.ctxAt s.cctx).mlen.toNat < (16 + len + 63) / 64) ∨
  (n = 4 ∧ cls = 14 ∧ s.isPriv = false) ∨
  (n = 5 ∧ isReply = true ∧ s.act.byComb = true) ∨
  (n = 6 ∧ cls = 15 ∧ s.act.msg.m.cls = 15)

/-- Cause n is the lowest-numbered one of R181 that holds. -/
def SendFaults (s : State) (dst : Word) (cls : BitVec 4) (len : Nat) (isReply : Bool) (n : Nat) : Prop :=
  SendCause s dst cls len isReply n ∧ ∀ k, k < n → ¬ SendCause s dst cls len isReply k

/-- Mailbox m of the present actor becomes `f` of what it was, and nothing else of the state changes but the events to come; under
lockstitch only the primary changes it, in the model's reading of R350 (DEDUCED, notes/assumptions/32.md). -/
def BoxSet (s t : State) (m : BitVec 2) (f : Mailbox → Mailbox) : Prop :=
  (s.isCopy = true → t = s) ∧
  (s.isCopy = false → t.mbxAt s.cctx s.ccore (s.ownMbx m) = f (s.ownBox m) ∧
    (∀ c core mb, (c, core, mb) ≠ (s.cctx, s.ccore, s.ownMbx m) → t.mbxAt c core mb = s.mbxAt c core mb) ∧
    t = { s with mbxs := t.mbxs, agenda := t.agenda })

/-- A tile command fits the queue of the present core and its pending-read ranges (R248, R254). -/
def TileRoom (s : State) (op : TileOp) : Prop :=
  (s.coreAt s.cctx s.ccore).tile.length < 16 ∧
  ((s.coreAt s.cctx s.ccore).tile.map fun t => t.ranges.length).sum + op.reads.length ≤ 8

/-- A tile command has entered the queue of the present core, with the next number of tlc0 and its ranges (R248, R254). -/
def TileQueued (s t : State) (op : TileOp) : Prop :=
  ∃ cmd, (t.coreAt s.cctx s.ccore).tile = (s.coreAt s.cctx s.ccore).tile ++ [cmd] ∧ cmd.op = op ∧
    cmd.n = ((s.coreAt s.cctx s.ccore).tlcAt 0).assigned + 1 ∧ cmd.ranges = op.reads ∧ cmd.step = 0 ∧ cmd.enter = s.cycle ∧
    ((t.coreAt s.cctx s.ccore).tlcAt 0).assigned = cmd.n ∧
    t.act = { s.act with issued := true, cmds := s.act.cmds ++ [(0, cmd.n)] } ∧ t.mem = s.mem

/-- A tile instruction that completes: its command enters the queue. -/
def TileDone (i : Instr) (h : Hdr) (s s1 : State) (op : TileOp) : Prop :=
  ∃ t : State, exec i s = .next (t.retire h) ∧ TileQueued s1 t op

/-- A swatch slot of the present core holds a swatch. -/
def HasSwatch (s : State) (i : BitVec 4) (x : Swatch) : Prop := ((s.coreAt s.cctx s.ccore).sw[i.toNat]?).getD none = some x

/-- Regions lie in the tile store (R246). -/
def InTile (l : List (Nat × Nat)) : Prop := ∀ r ∈ l, r.2 < tileSize

/-- Of the state, only activations change, and of them only the present one. -/
def OnlyAct (s u : State) : Prop := u = { s with acts := u.acts } ∧ ∀ k, k ≠ s.cur.sid → u.actAt k = s.actAt k

/-- Does a walk in progress of the cluster lead to a page that TLBINV drops (R233, R312)? -/
def WalkInWay (s : State) (cl : Nat) (va : Option Nat) : Prop :=
  ∃ w ∈ (s.clHwAt cl).walks, w.ctx = s.cctx ∧ w.seq = none ∧ ∀ a, va = some a → s.walksPage a w = true

/-- Is a store of the present context under check whose byte translates by an entry that TLBINV drops (R233)? -/
def CheckInWay (s : State) (va : Option Nat) : Prop :=
  ∃ k ∈ s.acts, k.1.ctx = s.cctx ∧ ∃ p ∈ k.2.checks, p.held = false ∧ p.waits = none ∧
    ∃ x ∈ p.bytes, x.1 < 2 ^ 55 ∧ ∃ e, s.xlat k.1.ctx k.1.core x.1 = some e ∧ tlbHit s.cctx va e = true

/-- The second state is the first one without the translations that TLBINV drops within a scope (R233). -/
def TlbDropped (s t : State) (sc : Scope) (va : Option Nat) : Prop :=
  t = { s with coreHw := t.coreHw, clHw := t.clHw } ∧
  (sc = .core → (∀ e, e ∈ (t.hwAt s.ccore).tlb ↔ e ∈ (s.hwAt s.ccore).tlb ∧ tlbHit s.cctx va e = false) ∧
    ∀ e, e ∈ (t.clHwAt s.ccl).tlb ↔ e ∈ (s.clHwAt s.ccl).tlb ∧ tlbHit s.cctx va e = false) ∧
  (sc ≠ .core → ∀ cl ∈ s.tlbClusters sc, (∀ e, e ∈ (t.clHwAt cl).tlb ↔ e ∈ (s.clHwAt cl).tlb ∧ tlbHit s.cctx va e = false) ∧
    ∀ i, i < 8 → ∀ e ∈ (t.hwAt (8 * cl + i)).tlb, tlbHit s.cctx va e = false)

/-- A CSTOP or CSTOP.go of a state `s`, whose operands have been read in s2, has sent its packet to n clusters, and its stream goes on
once all of them can have acknowledged it (R232). -/
def StopSent (s s2 t : State) (first n : Nat) (p : Packet) : Prop :=
  let x := s2.ctxAt s2.cctx
  let back : Nat := ((List.range n).map fun i => 2 * x.meshDelay s2.ccl (first + i)).foldl max 0
  (t.act.str s.cur.stream).pc = nextPc s2.pc ∧ (t.act.str s.cur.stream).acks = true ∧
  (t.act.str s.cur.stream).notBefore = s.cycle + back ∧ t.mem = s2.mem ∧ ∀ i, i < n →
    (s2.cycle + (4 + bridge s2.ccl), Instr.packetRoute s2.cctx (meshNode s2.ccl x.svb) (first + i) p) ∈ t.agenda

/-- The g destination of an instruction that touches g registers and queue registers only. -/
def scalarDest : Instr → Option (Hdr × GQ)
  | .add h _ _ a _ _ | .sub h _ _ a _ _ | .mul h _ _ a _ _ | .mulh h _ _ a _ _ | .mulhu h _ _ a _ _ | .div h _ _ a _ _
  | .divu h _ _ a _ _ | .rem h _ _ a _ _ | .remu h _ _ a _ _ | .and h _ _ a _ _ | .or h _ _ a _ _ | .xor h _ _ a _ _
  | .andn h _ _ a _ _ | .shl h _ _ a _ _ | .shr h _ _ a _ _ | .sar h _ _ a _ _ | .rot h _ _ a _ _ | .min h _ _ a _ _
  | .max h _ _ a _ _ | .mov h _ _ a _ | .clz h _ _ a _ | .popc h _ _ a _ | .sel h _ _ _ _ a _ _ | .ldi h _ a _
  | .ext h _ a _ _ | .bfx h _ a _ _ _ | .lea h _ a _ _ | .hidx h a _ | .hxy h a _ => some (h, a)
  | .ldih h a _ | .bfi h a _ _ _ => some (h, .g a)
  | _ => none

/-- Registers that an instruction may write. -/
structure Dests where
  g : List GQ := []
  v : List VQ := []
  d : List (BitVec 4) := []
  p : List (BitVec 3) := []
  deriving DecidableEq, Repr

/-- The destinations of an instruction that touches registers and queue registers only, of those that `scalarDest` leaves. -/
def registerDests : Instr → Option (Hdr × Dests)
  | .fadd h _ _ a _ _ | .fsub h _ _ a _ _ | .fmul h _ _ a _ _ | .fmin h _ a _ _ | .fmax h _ a _ _ | .fcvt h _ _ _ a _ | .fsgn h _ a _ _
  | .vextr h _ _ a _ _ | .vred h _ _ a _ | .ddot h _ _ a _ _ => some (h, { g := [a] })
  | .ffma h _ _ a _ _ => some (h, { g := [.g a] })
  | .vadd h _ _ _ _ a _ _ | .vsub h _ _ _ _ a _ _ | .vmul h _ _ _ _ a _ _ | .vmin h _ _ _ a _ _ | .vmax h _ _ _ a _ _
  | .vsgn h _ _ _ a _ _ | .viadd h _ _ _ _ _ a _ _ | .visub h _ _ _ _ _ a _ _ | .vimul h _ _ _ a _ _ | .vand h _ _ a _ _
  | .vor h _ _ a _ _ | .vxor h _ _ a _ _ | .vshl h _ _ _ a _ _ | .vshr h _ _ _ a _ _ | .vsar h _ _ _ a _ _
  | .vcvt h _ _ _ _ _ _ a _ | .vbcast h _ _ _ a _ | .vperm h _ _ _ a _ _ | .baddq h _ _ a _ _ => some (h, { v := [a] })
  | .vfma h _ _ _ _ a _ _ | .vfms h _ _ _ _ a _ _ | .vfnma h _ _ _ _ a _ _ | .vins h _ a _ _ | .vdot2 h _ _ _ _ a _ _
  | .vdot4 h _ _ _ _ a _ _ => some (h, { v := [.v a] })
  | .rcpa h _ x | .rsqa h _ x | .sqrtf h _ x | .exp2a h _ x | .log2a h _ x | .tanha h _ x | .gelua h _ x =>
    some (h, match x with | .sca a _ => { g := [a] } | .vec _ _ a _ => { v := [a] })
  | .divf h _ x => some (h, match x with | .sca a _ _ => { g := [a] } | .vec _ _ a _ _ => { v := [a] })
  | .sincos h _ x => some (h, match x with | .sca a _ => { g := [a] } | .vec _ _ a _ => { v := [.v (a ++ 0#1), .v (a ++ 1#1)] })
  | .pmerge h _ x => some (h, match x with | .sca a _ _ => { g := [a] } | .vec _ _ a _ _ => { v := [a] })
  | .dnorm h _ a _ _ | .dscale h a _ _ | .dadd h _ _ a _ _ | .dlerp h _ a _ _ _ | .dneg h a _ | .drot h _ a _ _ _ _ => some (h, { d := [a] })
  | .dcvt h f => some (h, match f with
    | .fromBf16 _ a _ | .fromF32 _ a _ _ => { d := [a] }
    | .toBf16 _ a _ => { v := [a] }
    | .toF32 _ a _ => { v := [.v (a ++ 0#1), .v (a ++ 1#1)] })
  | .dmovn h f => some (h, match f with | .dd a _ => { d := [a] } | .gd a _ | .gf a _ => { g := [a] })
  | .dtest h p _ _ => some (h, { p := [p] })
  | _ => none

/-- The destinations of a load. -/
def loadDests : Instr → Option (Hdr × Dests)
  | .ld h _ _ _ a _ | .ldacq h _ _ _ a _ => some (h, { g := [a] })
  | .vld h _ _ _ _ a _ _ _ | .vgather h _ _ _ _ a _ _ _ | .vldf h _ _ a _ _ | .dsim8 h _ _ a _ _ _ => some (h, { v := [a] })
  | .dld h _ a _ _ _ => some (h, { d := [a] })
  | _ => none

/-- The header of a fence or a cache instruction. -/
def cacheHdr : Instr → Option Hdr
  | .fence h _ _ | .cflush h _ _ _ | .cinv h _ _ _ _ | .pref h _ _ => some h
  | _ => none

/-- Of the registers of the present activation, only those named may differ. -/
def Kept (r : Dests) (s u : State) : Prop :=
  (∀ j, GQ.g j ∉ r.g → u.act.getG j = s.act.getG j) ∧ (∀ j : BitVec 5, VQ.v j ∉ r.v → u.act.v[j.toNat] = s.act.v[j.toNat]) ∧
  (∀ j : BitVec 4, j ∉ r.d → u.act.d[j.toNat] = s.act.d[j.toNat] ∧ u.act.n[j.toNat] = s.act.n[j.toNat]) ∧
  (∀ j, j ∉ r.p → u.act.getP j = s.act.getP j) ∧ u.act.k = s.act.k

/-- The g register that a transfer of control writes: g15 of a call, the count of LOOP; the others write none, which g0 stands for. -/
def jumpDest : Instr → Option (Hdr × BitVec 5)
  | .br h _ | .brx h _ | .ret h _ => some (h, 0)
  | .call h _ | .callx h _ => some (h, 15)
  | .loop h a _ => some (h, a)
  | _ => none

end Sys2Proof
end

