-- ==== Sys2Proof/Certificates/Slice0/Obligations.lean ====
section
/-! DEFINITION. The statements of this model: what its instructions and events do (completion and results), what they leave as
it was, and what holds of every step. -/

open Sys2Proof Sys2Proof.Machine

/-! ## Operands and the end of an instruction -/

/-- R18, R19, R43: a g operand that names a general register reads it, g0 reads 0, a queue register gives its oldest entry and
loses it, and holds the stream while it is empty, or while its oldest entry was pushed by the other stream in this cycle or the one
before. -/
def Obligations.ReadOperand : Prop :=
  ∀ s : State,
    (∀ i : BitVec 5, Gives (readG (.g i)) s (if i = 0 then 0 else s.act.g[i.toNat]) s) ∧
    (∀ (i : BitVec 2) (w : QEntry Word) (l : List (QEntry Word)), s.act.qg[i.toNat] = w :: l →
      w.by_ = s.cur.stream ∨ w.at_ + 2 ≤ s.cycle →
      Gives (readG (.q i)) s w.val (s.modAct fun a => { a with qg := a.qg.set i.toNat l })) ∧
    (∀ i : BitVec 2, s.act.qg[i.toNat] = [] → ∃ why, Stops (readG (.q i)) s (.hold why)) ∧
    (∀ (i : BitVec 2) (w : QEntry Word) (l : List (QEntry Word)), s.act.qg[i.toNat] = w :: l →
      w.by_ ≠ s.cur.stream → s.cycle < w.at_ + 2 → ∃ why, Stops (readG (.q i)) s (.hold why)) ∧
    (∀ x : BitVec 32, Gives (readSrc2 (.imm x)) s (x.signExtend 64) s) ∧
    (∀ x : BitVec 32, Gives (readSrc2U (.imm x)) s (x.setWidth 64) s)

/-- R18, R19, R42, R43: a write of a general register changes that register alone, a write of g0 changes nothing, a queue register with
room takes the value as its youngest entry, and a full one, or one into which an earlier instruction of the other stream has still to
push, holds the stream. -/
def Obligations.WriteOperand : Prop :=
  ∀ (s : State) (v : Word),
    (∀ i : BitVec 5, ∃ t, Gives (writeG (.g i) v) s () t ∧
      (∀ j : BitVec 5, t.act.getG j = if j = i ∧ i ≠ 0 then v else s.act.getG j) ∧
      t.act = { s.act with g := t.act.g, dirtyWs := t.act.dirtyWs } ∧ OnlyAct s t ∧ (i = 0 → t.act = s.act)) ∧
    (∀ i : BitVec 2, s.act.owed s.cur.stream ≠ some (.q i) → (s.act.qg[i.toNat]).length < 8 → ∃ t, Gives (writeG (.q i) v) s () t ∧
      t.act.qg[i.toNat] = s.act.qg[i.toNat] ++ [{ val := v, at_ := s.cycle, by_ := s.cur.stream }] ∧
      (∀ j : BitVec 2, j ≠ i → t.act.qg[j.toNat] = s.act.qg[j.toNat]) ∧
      t.act = { s.act with qg := t.act.qg } ∧ OnlyAct s t) ∧
    (∀ i : BitVec 2, 8 ≤ (s.act.qg[i.toNat]).length ∨ s.act.owed s.cur.stream = some (.q i) →
      ∃ why, Stops (writeG (.q i) v) s (.hold why)) ∧
    (∀ (a : Act) (x : GQ), x ≠ .g 0 → a.acc.wait = .gsub x ∨ (∃ cb n, a.acc.wait = .cbwait x cb n) → a.owed .main = some x)

/-- R18, R19: predicates and masks. p7 reads 1 and k0 reads 0xFFFF, and a write to either is discarded. -/
def Obligations.PredicatesAndMasks : Prop :=
  ∀ a : Act,
    (∀ (i j : BitVec 3) (b : Bool), (a.setP i b).getP j = if j = i ∧ i ≠ 7 then b else a.getP j) ∧
    (∀ (i j : BitVec 3) (x : BitVec 16), (a.setK i x).getK j = if j = i ∧ i ≠ 0 then x else a.getK j) ∧
    a.getP 7 = true ∧ a.getK 0 = 0xFFFF ∧ (∀ b, a.setP 7 b = a) ∧ (∀ x, a.setK 0 x = a)

/-- R34: an instruction index and the byte address at the place R34 gives it stand for each other; the next instruction in
sequence lies 12 bytes on, or at the start of the next code line after slot 9; an offset counts instructions. -/
def Obligations.CodeAddresses : Prop :=
  (∀ i : Nat, i / 10 * 128 + i % 10 * 12 < 2 ^ 64 →
    (addrOf i).toNat = i / 10 * 128 + i % 10 * 12 ∧ indexOf (addrOf i) = i) ∧
  (∀ pc : Word, pc.toNat % 128 < 120 → pc.toNat % 128 % 12 = 0 →
    nextPc pc = if pc.toNat % 128 = 108 then pc + 20 else pc + 12) ∧
  (∀ (pc : Word) (off : BitVec 32), 0 ≤ indexOf pc + off.toInt →
    (indexOf pc + off.toInt) / 10 * 128 + (indexOf pc + off.toInt) % 10 * 12 < 2 ^ 64 →
    indexOf (relPc pc off) = indexOf pc + off.toInt)

/-- R33, R34, R44, R197, R229: retiring moves the stream of the instruction to the address given, where it waits on nothing and what was
fetched, refused, answered or translated for it is over, its from-domain being the DOM of the instruction; the other stream of the
activation stays. Beside it the core has issued in the cycle, its candidate goes to the back of the rotation (with YLD behind the other
stream of its slot), and the counters of events 0x0001 and 0x0002 of the context count one; nothing else changes. -/
def Obligations.RetireGoesOn : Prop :=
  ∀ (h : Hdr) (s : State) (pc : Word) (arr : Arrival),
    s.retire h = s.retireTo h (nextPc s.pc) .transfer ∧
    (let t := s.retireTo h pc arr
     t.act = s.act.setStr s.cur.stream { s.act.str s.cur.stream with
       pc, arrival := arr, fromDom := s.cur.dom, lastPc := s.pc, wait := .ready, skipBp := false, issuedAt := some s.cycle
       refused := none, answer := none, fresh := false, acks := false, fetched := none, given := none, skip := [] } ∧
     t = { s with acts := t.acts, coreHw := t.coreHw, issued := s.ccore :: s.issued, ctxs := t.ctxs } ∧
     (∀ k, k ≠ s.cur.sid → t.actAt k = s.actAt k) ∧
     (∀ core, t.hwAt core = if core = s.ccore
       then { s.hwAt core with
              rot := rotate (s.hwAt core).rot (BitVec.ofNat 3 s.cur.sid.slot) s.cur.stream h.yld
              nowSlots := (s.hwAt core).nowSlots ||| BitVec.twoPow 8 s.cur.sid.slot }
       else s.hwAt core) ∧
     (∀ c, c ≠ s.cctx → t.ctxAt c = s.ctxAt c) ∧
     t.ctxAt s.cctx = { s.ctxAt s.cctx with counters := (s.ctxAt s.cctx).counters.map fun k =>
       if (k.event = 0x0001 ∨ k.event = 0x0002) ∧ k.en = true ∧ k.unav = false then { k with pending := k.pending + 1 } else k })

/-- R32: an instruction whose guard is false takes its issue cycle and has no other effect: its stream goes on. The guard is tested
where the instruction issues: a GSUB that has issued and holds its answer goes on to write it. -/
def Obligations.FalseGuard : Prop :=
  ∀ (i : Instr) (h : Hdr) (s : State), i.hdr? = some h → Skipped h s → (s.act.str s.cur.stream).answer = none →
    exec i s = .next (s.retire h)

/-! ## Scalar integer instructions -/

/-- R68, R70, R71: the results of the two-source integer family. -/
def Obligations.TwoSourceResults : Prop :=
  TwoSource .add (fun _ _ x y => x + y) ∧
  TwoSource .sub (fun _ _ x y => x - y) ∧
  TwoSource .mul (fun _ _ x y => x * y) ∧
  TwoSource .mulh (fun n _ x y => BitVec.ofInt n (x.toInt * y.toInt / 2 ^ n)) ∧
  TwoSource .mulhu (fun n _ x y => BitVec.ofNat n (x.toNat * y.toNat / 2 ^ n)) ∧
  TwoSource .div (fun n _ x y => if y = 0 then BitVec.allOnes n else BitVec.ofInt n (x.toInt.tdiv y.toInt)) ∧
  TwoSource .divu (fun n _ x y => if y = 0 then BitVec.allOnes n else BitVec.ofNat n (x.toNat / y.toNat)) ∧
  TwoSource .rem (fun n _ x y => if y = 0 then x else BitVec.ofInt n (x.toInt.tmod y.toInt)) ∧
  TwoSource .remu (fun n _ x y => if y = 0 then x else BitVec.ofNat n (x.toNat % y.toNat)) ∧
  TwoSource .and (fun _ _ x y => x &&& y) ∧
  TwoSource .or (fun _ _ x y => x ||| y) ∧
  TwoSource .xor (fun _ _ x y => x ^^^ y) ∧
  TwoSource .andn (fun _ _ x y => x &&& ~~~y) ∧
  TwoSource .shl (fun n _ x y => x <<< (y.toNat % n)) ∧
  TwoSource .shr (fun n _ x y => x >>> (y.toNat % n)) ∧
  TwoSource .sar (fun n _ x y => BitVec.ofInt n (x.toInt / 2 ^ (y.toNat % n))) ∧
  TwoSource .rot (fun n _ x y => x <<< (y.toNat % n) ||| x >>> (n - y.toNat % n)) ∧
  TwoSource .min (fun _ u x y => if (if u then decide (x.toNat ≤ y.toNat) else decide (x.toInt ≤ y.toInt)) then x else y) ∧
  TwoSource .max (fun _ u x y => if (if u then decide (y.toNat ≤ x.toNat) else decide (y.toInt ≤ x.toInt)) then x else y)

/-- R72: MOV, CLZ and POPC. -/
def Obligations.OneSourceResults : Prop :=
  OneSource .mov (fun _ x => x) ∧
  OneSource .clz (fun n x => BitVec.ofNat n (if x = 0 then n else n - 1 - Nat.log2 x.toNat)) ∧
  OneSource .popc (fun n x => BitVec.ofNat n ((List.range n).countP fun i => x.getLsbD i))

/-- R69, R73-R75: NOP, SEL, LDI, LDIH, EXT, BFX and BFI. -/
def Obligations.ConstantsAndFields : Prop :=
  (∀ (h : Hdr) (s : State), Ready h s → exec (.nop h) s = .next (s.retire h)) ∧
  (∀ (h : Hdr) (sz : Size) (u neg : Bool) (j : BitVec 3) (a b : GQ) (c : Src2) (x y : Word) (s s1 s2 s3 : State),
    Ready h s → Gives (readG b) s x s1 → Gives (readSrc2 c) s1 y s2 →
    Gives (writeG a (extend u ((if s.act.getP j = !neg then x else y).setWidth sz.bits))) s2 () s3 →
    exec (.sel h sz u j neg a b c) s = .next (s3.retire h)) ∧
  (∀ (h : Hdr) (u : Bool) (a : GQ) (imm : BitVec 32) (s t : State), Ready h s →
    Gives (writeG a (if u then imm.setWidth 64 else imm.signExtend 64)) s () t →
    exec (.ldi h u a imm) s = .next (t.retire h)) ∧
  (∀ (h : Hdr) (a : BitVec 5) (imm : BitVec 32) (s t : State), Ready h s →
    Gives (writeG (.g a) ((imm.setWidth 64 <<< 32) ||| (s.act.getG a &&& 0xFFFFFFFF))) s () t →
    exec (.ldih h a imm) s = .next (t.retire h)) ∧
  (∀ (h : Hdr) (u : Bool) (a b : GQ) (c : Src2) (x y : Word) (s s1 s2 s3 : State),
    Ready h s → Gives (readG b) s x s1 → Gives (readSrc2 c) s1 y s2 →
    Gives (writeG a (if y.toNat % 128 = 0 ∨ 64 ≤ y.toNat % 128 then x
      else extend u (x.setWidth (y.toNat % 128)))) s2 () s3 →
    exec (.ext h u a b c) s = .next (s3.retire h)) ∧
  (∀ (h : Hdr) (u : Bool) (a b : GQ) (pos wid1 : BitVec 6) (x : Word) (s s1 s2 : State),
    Ready h s → Gives (readG b) s x s1 →
    Gives (writeG a (extend u (x.extractLsb' pos.toNat (wid1.toNat + 1)))) s1 () s2 →
    exec (.bfx h u a b pos wid1) s = .next (s2.retire h)) ∧
  (∀ (h : Hdr) (a : BitVec 5) (b : GQ) (pos wid1 : BitVec 6) (x r : Word) (s s1 s2 : State),
    Ready h s → Gives (readG b) s x s1 →
    (∀ i, i < 64 → r.getLsbD i = if pos.toNat ≤ i ∧ i ≤ pos.toNat + wid1.toNat then x.getLsbD (i - pos.toNat)
      else (s1.act.getG a).getLsbD i) →
    Gives (writeG (.g a) r) s1 () s2 → exec (.bfi h a b pos wid1) s = .next (s2.retire h))

/-- R76, R77: LEA, HIDX and HXY; HIDX and HXY undo each other on the 512 clusters. -/
def Obligations.AddressesAndPositions : Prop :=
  (∀ (h : Hdr) (loc : Bool) (a b : GQ) (d : BitVec 32) (x : Word) (s s1 s2 : State),
    Ready h s → Gives (readG b) s x s1 →
    Gives (writeG a (if loc then (x + d.signExtend 64) ||| (1 <<< 55) else x + d.signExtend 64)) s1 () s2 →
    exec (.lea h loc a b (.disp d)) s = .next (s2.retire h)) ∧
  (∀ (h : Hdr) (loc : Bool) (a b c : GQ) (sh : BitVec 3) (d : BitVec 16) (x y : Word) (s s1 s2 s3 : State),
    Ready h s → Gives (readG b) s x s1 → Gives (readG c) s1 y s2 →
    Gives (writeG a (if loc then (x + (y * 2 ^ sh.toNat + d.signExtend 64)) ||| (1 <<< 55)
      else x + (y * 2 ^ sh.toNat + d.signExtend 64))) s2 () s3 →
    exec (.lea h loc a b (.index c sh d)) s = .next (s3.retire h)) ∧
  (∀ (h : Hdr) (a b : GQ) (x : Word) (s s1 s2 : State), Ready h s → Gives (readG b) s x s1 →
    Gives (writeG a (hidxOf x)) s1 () s2 → exec (.hidx h a b) s = .next (s2.retire h)) ∧
  (∀ (h : Hdr) (a b : GQ) (x : Word) (s s1 s2 : State), Ready h s → Gives (readG b) s x s1 →
    Gives (writeG a (hxyOf x)) s1 () s2 → exec (.hxy h a b) s = .next (s2.retire h)) ∧
  (∀ i : Word, 511 < i.toNat → hxyOf i = BitVec.allOnes 64) ∧
  (∀ i : Word, i.toNat < 512 → hidxOf (hxyOf i) = i) ∧
  (∀ x y : Nat, x < 256 → y < 256 → 31 < x ∨ 15 < y → hidxOf (BitVec.ofNat 64 (x + 256 * y)) = BitVec.allOnes 64)

/-! ## Control -/

/-- R82: branches, calls and loops go on where the manual says; the link of a call goes to g15, and LOOP counts its register
down to 0. -/
def Obligations.Transfers : Prop :=
  (∀ (h : Hdr) (off : BitVec 32) (s : State), Ready h s → exec (.br h off) s = .next (s.retireTo h (relPc s.pc off))) ∧
  (∀ (h : Hdr) (b : GQ) (x : Word) (s t : State), Ready h s → Gives (readG b) s x t →
    exec (.brx h b) s = .next (t.retireTo h x)) ∧
  (∀ (h : Hdr) (off : BitVec 32) (s : State), Ready h s →
    exec (.call h off) s = .next ((s.modAct fun a => a.setG 15 (nextPc s.pc)).retireTo h (relPc s.pc off))) ∧
  (∀ (h : Hdr) (b : GQ) (x : Word) (s t : State), Ready h s → Gives (readG b) s x t →
    exec (.callx h b) s = .next ((t.modAct fun a => a.setG 15 (nextPc s.pc)).retireTo h x)) ∧
  (∀ (h : Hdr) (b : GQ) (x : Word) (s t : State), Ready h s → Gives (readG b) s x t →
    exec (.ret h b) s = .next (t.retireTo h x)) ∧
  (∀ (h : Hdr) (a : BitVec 5) (off : BitVec 32) (s : State), Ready h s → s.act.getG a = 0 →
    exec (.loop h a off) s = .next (s.retireTo h (nextPc s.pc))) ∧
  (∀ (h : Hdr) (a : BitVec 5) (off : BitVec 32) (s : State), Ready h s → s.act.getG a ≠ 0 →
    exec (.loop h a off) s = .next ((s.modAct fun x => x.setG a (s.act.getG a - 1)).retireTo h
      (if s.act.getG a = 1 then nextPc s.pc else relPc s.pc off)))

/-- R84-R86: ASFORK starts the access stream, which issues 3 cycles later at the earliest; AEND ends it; END, with its
conditions met, issues, and the release of its buffer is due at once. -/
def Obligations.StreamsAndEnd : Prop :=
  (∀ (h : Hdr) (off : BitVec 32) (s : State), Ready h s → s.cur.stream = .main → s.act.strm = false →
    ∃ t, exec (.asfork h off) s = .next t ∧ t.act.strm = true ∧ t.act.acc.pc = relPc s.pc off ∧
      t.act.acc.notBefore = s.cycle + 3 ∧ t.act.main.pc = nextPc s.pc ∧ t.act.g = s.act.g ∧ t.mem = s.mem) ∧
  (∀ (h : Hdr) (s : State), Ready h s → s.cur.stream = .access →
    ∃ t, exec (.aend h) s = .next t ∧ t.act.strm = false ∧ t.act.main.pc = s.act.main.pc ∧ t.act.g = s.act.g ∧
      t.mem = s.mem) ∧
  (∀ (h : Hdr) (s : State), Ready h s → s.cur.stream = .main → s.act.thimble = [] → s.act.strm = false →
    s.act.queuesEmpty = true → s.act.checks = [] → s.act.storeFault = false →
    ∃ t, exec (.endAct h) s = .next t ∧ t.act.main.wait = .ended ∧
      (∃ d, d ≤ s.cycle ∧ (d, Instr.outboundRelease s.cur.sid) ∈ t.agenda) ∧ t.mem = s.mem)

/-- R78-R81, R99, R100: compares, and the logic and moves of predicates and masks. -/
def Obligations.ComparesAndPredicates : Prop :=
  (∀ (h : Hdr) (cond : ICond) (sz : Size) (u : Bool) (p : BitVec 3) (b : GQ) (c : Src2) (x y : Word) (r : Bool)
    (s s1 s2 : State), Ready h s → Gives (readG b) s x s1 → Gives (readSrc2 c) s1 y s2 →
    (r = true ↔ Holds cond u (x.setWidth sz.bits) (y.setWidth sz.bits)) →
    exec (.cmp h cond sz u p b c) s = .next ((s2.modAct fun a => a.setP p r).retire h)) ∧
  (∀ (h : Hdr) (cond : FCond) (fmt : FFmt) (p : BitVec 3) (b : GQ) (c : Src2) (x y : Word) (s s1 s2 : State),
    let r := fcmp (binFmt fmt) cond (x.toNat % 2 ^ fmt.bits) (y.toNat % 2 ^ fmt.bits)
    Ready h s → Gives (readG b) s x s1 → Gives (readSrc2U c) s1 y s2 →
    exec (.fcmp h cond fmt p b c) s = .next (((s2.modAct fun a => a.setP p r.1).retire h).raise s.pc r.2)) ∧
  (∀ (h : Hdr) (t : BitVec 4) (a b c : BitVec 3) (s : State), Ready h s →
    exec (.plog h t a b c) s = .next ((s.modAct fun x =>
      x.setP a (t.getLsbD ((if x.getP b then 2 else 0) + (if x.getP c then 1 else 0)))).retire h)) ∧
  (∀ (h : Hdr) (a b : BitVec 3) (s : State), Ready h s →
    exec (.pmov h (.pp a b)) s = .next ((s.modAct fun x => x.setP a (x.getP b)).retire h)) ∧
  (∀ (h : Hdr) (a : BitVec 3) (b : GQ) (x : Word) (s t : State), Ready h s → Gives (readG b) s x t →
    exec (.pmov h (.pg a b)) s = .next ((t.modAct fun y => y.setP a (x != 0)).retire h)) ∧
  (∀ (h : Hdr) (a : GQ) (b : BitVec 3) (s t : State), Ready h s →
    Gives (writeG a (if s.act.getP b then 1 else 0)) s () t → exec (.pmov h (.gp a b)) s = .next (t.retire h)) ∧
  (∀ (h : Hdr) (a : GQ) (s t : State) (x : Word), Ready h s →
    (∀ i, i < 64 → x.getLsbD i = (decide (i < 8) && s.act.getP (BitVec.ofNat 3 i))) → Gives (writeG a x) s () t →
    exec (.pmov h (.pack a)) s = .next (t.retire h)) ∧
  (∀ (h : Hdr) (b : GQ) (x : Word) (s t : State), Ready h s → Gives (readG b) s x t →
    ∃ t', exec (.pmov h (.unpack b)) s = .next t' ∧
      ∀ i : BitVec 3, t'.act.getP i = if i = 7 then true else x.getLsbD i.toNat) ∧
  (∀ (h : Hdr) (t : BitVec 4) (a b c : BitVec 3) (r : BitVec 16) (s : State), Ready h s →
    (∀ j, j < 16 → r.getLsbD j = t.getLsbD ((if (s.act.getK b).getLsbD j then 2 else 0) +
      (if (s.act.getK c).getLsbD j then 1 else 0))) →
    exec (.klog h t a b c) s = .next ((s.modAct fun x => x.setK a r).retire h)) ∧
  (∀ (h : Hdr) (a b : BitVec 3) (s : State), Ready h s →
    exec (.kmov h (.kk a b)) s = .next ((s.modAct fun x => x.setK a (x.getK b)).retire h)) ∧
  (∀ (h : Hdr) (a : BitVec 3) (b : GQ) (x : Word) (s t : State), Ready h s → Gives (readG b) s x t →
    exec (.kmov h (.kg a b)) s = .next ((t.modAct fun y => y.setK a (x.setWidth 16)).retire h)) ∧
  (∀ (h : Hdr) (a : GQ) (b : BitVec 3) (s t : State), Ready h s →
    Gives (writeG a ((s.act.getK b).setWidth 64)) s () t → exec (.kmov h (.gk a b)) s = .next (t.retire h)) ∧
  (∀ (h : Hdr) (a : BitVec 3) (b : GQ) (x : Word) (r : BitVec 16) (s t : State), Ready h s → Gives (readG b) s x t →
    (∀ j, j < 16 → r.getLsbD j = decide (j < x.toNat)) →
    exec (.kmov h (.first a b)) s = .next ((t.modAct fun y => y.setK a r).retire h))

/-! ## Memory instructions -/

/-- R135, R142, R143: LD, LDACQ, ST and STREL, on the address base + index + displacement with bit 55 set by L. The parts that a
load or a store of bytes consists of have statements of their own. That ST and STREL read their data before their address, which shows
where both name a queue register, is the model's choice (DESIGN CHOICE, notes/assumptions/11.md). -/
def Obligations.LoadsAndStores : Prop :=
  (∀ (m : MemOp) (x y : Word) (s s1 s2 : State), Gives (readG m.base) s x s1 →
    (match m.index with | some i => Gives (readG i) s1 y s2 | none => y = 0 ∧ s2 = s1) →
    Gives (memAddr m) s (if m.loc then (x + y + m.disp.signExtend 64) ||| (1 <<< 55) else x + y + m.disp.signExtend 64) s2) ∧
  (∀ (h : Hdr) (sz : Size) (u strong : Bool) (a : GQ) (m : MemOp) (x : Word) (bs : List Byte) (s s1 s2 s3 : State),
    Ready h s → Gives (memAddr m) s x s1 → Gives (roomG a) s1 () s1 → (strong = true → x.toNat % sz.bytes = 0) →
    Gives (loadM x sz.bytes strong) s1 bs s2 →
    Gives (writeG a (extend u (BitVec.ofNat sz.bits (ofBytesLE bs)))) s2 () s3 →
    exec (.ld h sz u strong a m) s = .next (s3.retire h)) ∧
  (∀ (h : Hdr) (sc : Scope) (sz : Size) (u : Bool) (a : GQ) (m : MemOp) (x : Word) (bs : List Byte) (s s1 s2 s3 : State),
    Ready h s → Gives (memAddr m) s x s1 → Gives (roomG a) s1 () s1 → x.toNat % sz.bytes = 0 →
    Gives (loadM x sz.bytes true) s1 bs s2 →
    Gives (writeG a (extend u (BitVec.ofNat sz.bits (ofBytesLE bs)))) s2 () s3 →
    exec (.ldacq h sc sz u a m) s = .next ((if scopeWide sc then s3.modAct fun a => { a with stale := s3.cycle } else s3).retire h)) ∧
  (∀ (h : Hdr) (sz : Size) (strong : Bool) (a : GQ) (m : MemOp) (v x : Word) (s s1 s2 s3 : State),
    Ready h s → Gives (readG a) s v s1 → Gives (memAddr m) s1 x s2 → (strong = true → x.toNat % sz.bytes = 0) →
    Gives (storeM (.plain strong none) x (storeBytes x (bytesLE sz.bytes v.toNat)) true) s2 () s3 →
    exec (.st h sz strong a m) s = .next (s3.retire h)) ∧
  (∀ (h : Hdr) (sc : Scope) (sz : Size) (a : GQ) (m : MemOp) (v x : Word) (s s1 s2 s3 : State),
    Ready h s → Gives (readG a) s v s1 → Gives (memAddr m) s1 x s2 → x.toNat % sz.bytes = 0 →
    Gives (storeM (.plain true (some sc)) x (storeBytes x (bytesLE sz.bytes v.toNat)) true) s2 () s3 →
    exec (.strel h sc sz a m) s = .next (s3.retire h))

/-- R107, R108, R131, R132: VLD, VST, VGATHER and VSCATTER access a word of every active lane at an address that is a multiple of
4; DLD, DST and DSIM8 access lanes and norms at even addresses. A vector load of the own CLM gives each active lane the little-endian
word at its address and changes no other register; a vector store of lanes of the own CLM enters checking with the words of its active
lanes in lane order, and with no active lane it does nothing. That a store reads its data before its address and index, which shows where
they name one queue register, is the model's choice (DESIGN CHOICE, notes/assumptions/11.md), and so is that DST stores its norm last
where it lies within the lanes (77.md). -/
def Obligations.VectorMemory : Prop :=
  (∀ (h : Hdr) (strong z loc : Bool) (m : BitVec 3) (a : VQ) (b : GQ) (c : Option GQ) (disp : BitVec 24) (x : Word)
    (st : Option Word) (s s1 s2 s3 : State),
    let l := ((List.range 16).filter (active (s.act.getK m))).map fun j =>
      (j, withLocal loc (x + disp.signExtend 64 + BitVec.ofNat 64 j * st.getD 4))
    Ready h s → Gives (readG b) s x s1 → Gives (readG? c) s1 st s2 → (∀ p ∈ l, p.2.toNat % 4 = 0) →
    Gives (vload a (s.act.getK m) z strong l) s2 () s3 →
    exec (.vld h strong z loc m a b c disp) s = .next (s3.retire h)) ∧
  (∀ (h : Hdr) (strong loc : Bool) (m : BitVec 3) (a : VQ) (b : GQ) (c : Option GQ) (disp : BitVec 24) (v : VReg) (x : Word)
    (st : Option Word) (s s0 s1 s2 s3 : State),
    let l := ((List.range 16).filter (active (s.act.getK m))).map fun j =>
      (j, withLocal loc (x + disp.signExtend 64 + BitVec.ofNat 64 j * st.getD 4))
    Ready h s → Gives (readV a) s v s0 → Gives (readG b) s0 x s1 → Gives (readG? c) s1 st s2 →
    (∀ p ∈ l, p.2.toNat % 4 = 0) → Gives (vstore v strong l) s2 () s3 →
    exec (.vst h strong loc m a b c disp) s = .next (s3.retire h)) ∧
  (∀ (h : Hdr) (strong z loc : Bool) (m : BitVec 3) (a : VQ) (b : GQ) (c : VQ) (disp : BitVec 24) (x : Word) (y : VReg)
    (s s1 s2 s3 : State),
    let l := ((List.range 16).filter (active (s.act.getK m))).map fun j =>
      (j, withLocal loc (x + disp.signExtend 64 + (lane y j).signExtend 64))
    Ready h s → Gives (readG b) s x s1 → Gives (readV c) s1 y s2 → (∀ p ∈ l, p.2.toNat % 4 = 0) →
    Gives (vload a (s.act.getK m) z strong l) s2 () s3 →
    exec (.vgather h strong z loc m a b c disp) s = .next (s3.retire h)) ∧
  (∀ (h : Hdr) (strong loc : Bool) (m : BitVec 3) (a : VQ) (b : GQ) (c : VQ) (disp : BitVec 24) (v : VReg) (x : Word)
    (y : VReg) (s s0 s1 s2 s3 : State),
    let l := ((List.range 16).filter (active (s.act.getK m))).map fun j =>
      (j, withLocal loc (x + disp.signExtend 64 + (lane y j).signExtend 64))
    Ready h s → Gives (readV a) s v s0 → Gives (readG b) s0 x s1 → Gives (readV c) s1 y s2 →
    (∀ p ∈ l, p.2.toNat % 4 = 0) → Gives (vstore v strong l) s2 () s3 →
    exec (.vscatter h strong loc m a b c disp) s = .next (s3.retire h)) ∧
  (∀ (h : Hdr) (strong : Bool) (a : BitVec 4) (b : GQ) (c : Option GQ) (disp : BitVec 32) (x : Word) (n : Option Word)
    (s s1 s2 s3 : State),
    let p := x + disp.signExtend 64
    let q := n.getD (p + 64)
    let lanes := storeBytes p ((s2.act.d[a.toNat]).toList.flatMap fun l => bytesLE 2 l.toNat)
    let norm := storeBytes q (bytesLE 2 (s2.act.n[a.toNat]).toNat)
    Ready h s → Gives (readG b) s x s1 → Gives (readG? c) s1 n s2 → p.toNat % 2 = 0 → q.toNat % 2 = 0 →
    Gives (if q.toNat < p.toNat then storeM (.plain strong none) q (norm ++ lanes) false
      else storeM (.plain strong none) p (lanes ++ norm) false) s2 () s3 →
    exec (.dst h strong a b c disp) s = .next (s3.retire h)) ∧
  (∀ (h : Hdr) (strong : Bool) (a : BitVec 4) (b : GQ) (c : Option GQ) (disp : BitVec 32) (x : Word) (n : Option Word)
    (l1 l2 : List (Nat × Place)) (bs : List Byte) (s s1 s2 s3 s4 s5 : State),
    let p := x + disp.signExtend 64
    let q := n.getD (p + 64)
    let low := decide (q.toNat < p.toNat)
    let lanes := keyLanes bs (if low then 2 else 0)
    let r : DVec × BitVec 5 := match keyNorm bs (if low then 0 else 64) with
      | none => (dzero, 0)
      | some k => if inBand (sumSq lanes) then ({ lanes, norm := some k }, 0) else renorm lanes 0 k
    Ready h s → Gives (readG b) s x s1 → Gives (readG? c) s1 n s2 → p.toNat % 2 = 0 → q.toNat % 2 = 0 →
    Gives (if low then placesM q 2 .read else placesM p 64 .read) s2 l1 s3 →
    Gives (if low then placesM p 64 .read else placesM q 2 .read) s3 l2 s4 →
    Gives (seamLoad (l1 ++ l2) (loadPlaces strong (l1 ++ l2))) s4 bs s5 →
    exec (.dld h strong a b c disp) s = .next (((s5.modAct fun y => y.setD a r.1).retire h).raise s.pc r.2)) ∧
  (∀ (h : Hdr) (rm : Rm) (strong : Bool) (a : VQ) (b : BitVec 4) (c : GQ) (disp : BitVec 32) (x : Word) (bs : List Byte)
    (s s1 s2 s3 : State),
    let r := elemsF 32 0xFF fun i => roundPow 0 fmtF32 (rmMode rm s.act.rnd)
      (dotLanes (s1.act.dLanes b) (keyLanes bs (64 * i))) 0 (-28)
    Ready h s → Gives (readG c) s x s1 → Gives (roomV a) s1 () s1 → (x + disp.signExtend 64).toNat % 2 = 0 →
    Gives (loadM (x + disp.signExtend 64) 528 strong) s1 bs s2 → Gives (writeV a r.1) s2 () s3 →
    exec (.dsim8 h rm strong a (.w1 b) c disp) s = .next ((s3.retire h).raise s.pc r.2)) ∧
  (∀ (h : Hdr) (rm : Rm) (strong : Bool) (a : VQ) (b : BitVec 3) (c : GQ) (disp : BitVec 32) (x : Word) (bs : List Byte)
    (s s1 s2 s3 : State),
    let r := elemsF 32 0xFF fun i => scoreF32 (rmMode rm s.act.rnd)
      { q0 := (s1.act.getD (b ++ 0#1)).norm, q1 := (s1.act.getD (b ++ 1#1)).norm
        k0 := keyNorm bs (1024 + 4 * i), k1 := keyNorm bs (1026 + 4 * i)
        p0 := dotLanes (s1.act.dLanes (b ++ 0#1)) (keyLanes bs (128 * i))
        p1 := dotLanes (s1.act.dLanes (b ++ 1#1)) (keyLanes bs (128 * i + 64)) }
    Ready h s → Gives (readG c) s x s1 → Gives (roomV a) s1 () s1 → (x + disp.signExtend 64).toNat % 2 = 0 →
    Gives (loadM (x + disp.signExtend 64) 1056 strong) s1 bs s2 → Gives (writeV a r.1) s2 () s3 →
    exec (.dsim8 h rm strong a (.w2 b) c disp) s = .next ((s3.retire h).raise s.pc r.2)) ∧
  (∀ (s : State) (a : BitVec 5) (k : BitVec 16) (z strong : Bool) (addr : Nat → Word) (off : Nat → Nat),
    let l := ((List.range 16).filter (active k)).map fun j => (j, addr j)
    s.act.boundTo a = none → s.act.checks = [] → s.poison = [] →
    (∀ j b, j < 16 → k.getLsbD j = true → b < 4 →
      (addr j).toNat + 4 ≤ 2 ^ 64 ∧ s.place s.who ((addr j).toNat + b) .read = .ok (.clm (off j + b))) →
    ∃ t, Gives (vload (.v a) k z strong l) s () t ∧
      (∀ j : Fin 16, (t.act.v[a.toNat])[j] =
        if k.getLsbD j then BitVec.ofNat 32 (ofBytesLE ((List.range 4).map fun b => s.mem.read (clmKey s.cctx s.ccore (off j + b))))
        else if z then 0 else (s.act.v[a.toNat])[j]) ∧
      (∀ i : BitVec 5, i ≠ a → t.act.v[i.toNat] = s.act.v[i.toNat]) ∧
      t.act = { s.act with v := t.act.v, dirtyWs := t.act.dirtyWs } ∧ OnlyAct s t) ∧
  (∀ (s : State) (v : VReg) (k : BitVec 16) (strong : Bool) (addr : Nat → Word) (off : Nat → Nat),
    let l := ((List.range 16).filter (active k)).map fun j => (j, addr j)
    (∀ j b, j < 16 → k.getLsbD j = true → b < 4 → 2 ^ 55 ≤ (addr j).toNat ∧ (addr j).toNat + 4 ≤ 2 ^ 56 ∧
      s.place s.who ((addr j).toNat + b) .write = .ok (.clm (off j + b))) →
    (k = 0 → Gives (vstore v strong l) s () s) ∧
    (k ≠ 0 → ∃ t p, Gives (vstore v strong l) s () t ∧ p.id = s.act.nextStore ∧ p.kind = .plain strong none ∧
      p.bytes = ((List.range 16).filter fun j => k.getLsbD j).flatMap (fun j =>
        (List.range 4).map fun b => ((addr j).toNat + b, (lane v j).extractLsb' (8 * b) 8)) ∧
      t.act = { s.act with checks := s.act.checks ++ [p], nextStore := s.act.nextStore + 1 } ∧
      t = { s with acts := t.acts, agenda := insertEvent (s.cycle + 12) (.storeCheck s.cur.sid p.id) s.agenda }))

/-- R136, R141: a load of bytes of a core's own CLM, with no store of the activation under check and no poison there, gives the
bytes that memory holds, and changes nothing. -/
def Obligations.LocalLoad : Prop :=
  ∀ (s : State) (x : Word) (n off : Nat) (strong : Bool),
    x.toNat + n ≤ 2 ^ 64 → s.act.checks = [] → s.poison = [] →
    (∀ i, i < n → s.place s.who (x.toNat + i) .read = .ok (.clm (off + i))) →
    Gives (loadM x n strong) s ((List.range n).map fun i => s.mem.read (clmKey s.cctx s.ccore (off + i))) s

/-- R138, R139: a store to a core's own CLM beyond the workspaces changes no byte of memory; it enters checking with its bytes, and
its check is due 12 cycles later. -/
def Obligations.StoreEntersChecking : Prop :=
  ∀ (s : State) (strong : Bool) (rel : Option Scope) (x : Word) (bs : List Byte) (off : Nat),
    bs ≠ [] → 2 ^ 55 ≤ x.toNat → x.toNat + bs.length ≤ 2 ^ 56 →
    (∀ i, i < bs.length → s.place s.who (x.toNat + i) .write = .ok (.clm (off + i))) →
    ∃ t p, Gives (storeM (.plain strong rel) x (storeBytes x bs) true) s () t ∧
      p.id = s.act.nextStore ∧ p.bytes = (List.range bs.length).map (fun i => (x.toNat + i, bs.getD i 0)) ∧
      t.act = { s.act with checks := s.act.checks ++ [p], nextStore := s.act.nextStore + 1 } ∧
      t = { s with acts := t.acts, agenda := insertEvent (s.cycle + 12) (.storeCheck s.cur.sid p.id) s.agenda }

/-- R140, R143, R145-R147: AMO and CAS give the old value and store the new one, each in one step; an acquire at .die or wider moves
the staleness point of weak loads to the cycle of the instruction. On aligned bytes of a core's own CLM, with no store under check and
room in the tack log, they complete under every ordering. -/
def Obligations.Atomics : Prop :=
  (∀ (h : Hdr) (op : AmoOp) (dw : Bool) (ord : AmoOrd) (loc : Bool) (a b c : GQ) (disp : BitVec 24) (x y : Word) (old : Nat)
    (fl : BitVec 5) (s s1 s2 s3 s4 : State),
    Ready h s → Gives (readG b) s x s1 → Gives (readG c) s1 y s2 → Gives (roomG a) s2 () s2 →
    Gives (atomicM (withLocal loc (x + disp.signExtend 64)) (if dw then 8 else 4) ord fun old =>
      (some (amoValue (if dw then 64 else 32) op old y.toNat).1, (amoValue (if dw then 64 else 32) op old y.toNat).2))
      s2 (old, fl) s3 →
    Gives (writeG a (extend (amoZext op) (BitVec.ofNat (if dw then 64 else 32) old))) s3 () s4 →
    exec (.amo h op dw ord loc a b c disp) s = .next ((s4.retire h).raise s.pc fl)) ∧
  (∀ (h : Hdr) (dw : Bool) (ord : AmoOrd) (loc : Bool) (a : BitVec 5) (b c : GQ) (disp : BitVec 24) (x y : Word) (old : Nat)
    (fl : BitVec 5) (s s1 s2 s3 : State),
    Ready h s → Gives (readG b) s x s1 → Gives (readG c) s1 y s2 →
    Gives (atomicM (withLocal loc (x + disp.signExtend 64)) (if dw then 8 else 4) ord fun old =>
      (if old = (s.act.getG a).toNat % 2 ^ (if dw then 64 else 32) then some (y.toNat % 2 ^ (if dw then 64 else 32)) else none, 0))
      s2 (old, fl) s3 →
    exec (.cas h dw ord loc a b c disp) s =
      .next ((s3.modAct fun r => r.setG a ((BitVec.ofNat (if dw then 64 else 32) old).signExtend 64)).retire h)) ∧
  (∀ (s : State) (x : Word) (n off v : Nat) (fl : BitVec 5) (f : Nat → Option Nat × BitVec 5),
    let old := ofBytesLE ((List.range n).map fun i => s.mem.read (clmKey s.cctx s.ccore (off + i)))
    n = 4 ∨ n = 8 → x.toNat % n = 0 → off % n = 0 → 45056 ≤ off → memOk s → s.act.checks = [] → s.poison = [] →
    s.act.tack.length < 512 → (∀ i, i < n → s.place s.who (x.toNat + i) .both = .ok (.clm (off + i))) → f old = (some v, fl) →
    ∀ ord, ∃ t, Gives (atomicM x n ord f) s (old, fl) t ∧ t.act.g = s.act.g ∧
      t.act.stale = (match ord with
        | .acq sc | .ar sc => if scopeWide sc then s.cycle else s.act.stale
        | .relaxed | .rel _ => s.act.stale) ∧
      (∀ a, t.mem.read a = if clmKey s.cctx s.ccore off ≤ a ∧ a < clmKey s.cctx s.ccore off + n
        then (bytesLE n v).getD (a - clmKey s.cctx s.ccore off) 0 else s.mem.read a)) ∧
  (∀ (s t : State) (x : Word) (n old : Nat) (fl : BitVec 5) (ord : AmoOrd) (sc : Scope) (f : Nat → Option Nat × BitVec 5),
    Gives (atomicM x n ord f) s (old, fl) t → ord = .acq sc ∨ ord = .ar sc → sc = .die ∨ sc = .pkg ∨ sc = .fab →
    t.act.stale = t.cycle) ∧
  (∀ (h : Hdr) (op : AmoOp) (dw : Bool) (ord : AmoOrd) (loc : Bool) (a b c : BitVec 5) (disp : BitVec 24) (s : State) (off : Nat),
    let x := withLocal loc (s.act.getG b + disp.signExtend 64)
    let n := if dw then 8 else 4
    let old := ofBytesLE ((List.range n).map fun i => s.mem.read (clmKey s.cctx s.ccore (off + i)))
    let r := amoValue (8 * n) op old (s.act.getG c).toNat
    Ready h s → x.toNat % n = 0 → off % n = 0 → 45056 ≤ off → memOk s → s.act.checks = [] → s.poison = [] →
    s.act.tack.length < 512 → (∀ i, i < n → s.place s.who (x.toNat + i) .both = .ok (.clm (off + i))) →
    ∃ t : State, exec (.amo h op dw ord loc (.g a) (.g b) (.g c) disp) s = .next ((t.retire h).raise s.pc r.2) ∧
      (∀ j, t.act.getG j = if j = a ∧ a ≠ 0 then extend (amoZext op) (BitVec.ofNat (8 * n) old) else s.act.getG j) ∧
      (∀ k, t.mem.read k = if clmKey s.cctx s.ccore off ≤ k ∧ k < clmKey s.cctx s.ccore off + n
        then (bytesLE n r.1).getD (k - clmKey s.cctx s.ccore off) 0 else s.mem.read k)) ∧
  (∀ (h : Hdr) (dw : Bool) (ord : AmoOrd) (loc : Bool) (a b c : BitVec 5) (disp : BitVec 24) (s : State) (off : Nat),
    let x := withLocal loc (s.act.getG b + disp.signExtend 64)
    let n := if dw then 8 else 4
    let old := ofBytesLE ((List.range n).map fun i => s.mem.read (clmKey s.cctx s.ccore (off + i)))
    let new := if old = (s.act.getG a).toNat % 2 ^ (8 * n) then (s.act.getG c).toNat % 2 ^ (8 * n) else old
    Ready h s → x.toNat % n = 0 → off % n = 0 → 45056 ≤ off → memOk s → s.act.checks = [] → s.poison = [] →
    s.act.tack.length < 512 → (∀ i, i < n → s.place s.who (x.toNat + i) .both = .ok (.clm (off + i))) →
    ∃ t : State, exec (.cas h dw ord loc a (.g b) (.g c) disp) s = .next (t.retire h) ∧
      (∀ j, t.act.getG j = if j = a ∧ a ≠ 0 then (BitVec.ofNat (8 * n) old).signExtend 64 else s.act.getG j) ∧
      (∀ k, t.mem.read k = if clmKey s.cctx s.ccore off ≤ k ∧ k < clmKey s.cctx s.ccore off + n
        then (bytesLE n new).getD (k - clmKey s.cctx s.ccore off) 0 else s.mem.read k))

/-- R148-R152: fences and cache instructions. FENCE.ld only goes on, loads being performed when they issue; another FENCE puts a
marker into the outbound buffer, once the earlier local stores of its stream are performed, and does not issue before; CFLUSH enters
checking; CINV and PREF wait while their probe lacks a translation that a walk may still bring; CINV then drops the copies of its lines
(at every scope, and of those it has the right to read, which is the model's choice: notes/assumptions/9.md), and with .i those
of the instruction caches; PREF changes no register; SDRAIN goes on at once when no store is under check. -/
def Obligations.FencesAndCaches : Prop :=
  (∀ (h : Hdr) (sc : Scope) (s : State), Ready h s → exec (.fence h .ld sc) s = .next (s.retire h)) ∧
  (∀ (h : Hdr) (k : FenceKind) (sc : Scope) (s : State), Ready h s → k ≠ .ld → s.act.outUsed + 16 ≤ 4096 →
    (∀ p ∈ s.act.checks, p.stream = s.cur.stream → ∀ b ∈ p.bytes, b.1 < 2 ^ 55) →
    exec (.fence h k sc) s = .next ((s.pushOut (.fence k sc)).retire h)) ∧
  (∀ (h : Hdr) (k : FenceKind) (sc : Scope) (s : State) (p : PStore) (b : Nat × Byte), Ready h s → k ≠ .ld → p ∈ s.act.checks →
    p.stream = s.cur.stream → b ∈ p.bytes → 2 ^ 55 ≤ b.1 → ∃ why, exec (.fence h k sc) s = .next (s.hold why)) ∧
  (∀ (h : Hdr) (sc : Scope) (sz : Size) (m : MemOp) (x : Word) (n : Option Word) (s s1 s2 s3 : State),
    Ready h s → Gives (readG m.base) s x s1 → Gives (readG? m.index) s1 n s2 →
    Gives (enterStore (.flush sc (match n with | none => 1 | some w => w.toNat))
      (withLocal m.loc (x + m.disp.signExtend 64)) [] false) s2 () s3 →
    exec (.cflush h sc sz m) s = .next (s3.retire h)) ∧
  (∀ (h : Hdr) (i : Bool) (sc : Scope) (sz : Size) (m : MemOp) (x : Word) (n : Option Word) (s s1 s2 s3 : State),
    let l := rangeAddrs (withLocal m.loc (x + m.disp.signExtend 64)).toNat (match n with | none => 1 | some w => w.toNat)
    let r := s3.rangeLines s3.cctx s3.ccore (s3.act.str s3.cur.stream).given s3.cur.dom (s3.act.openWindows s3.cur.dom) .read l
    let t := (r.of ((s3.clHwAt s3.ccl).lines.map (·.line))).foldl (fun s line => s.evict s.ccl line) s3
    Ready h s → Gives (readG m.base) s x s1 → Gives (readG? m.index) s1 n s2 → Gives (probeM (l.getD [])) s2 () s3 →
    exec (.cinv h i sc sz m) s = .next ((if i then t.dropCode t.ccore r.has else t).retire h)) ∧
  (∀ (h : Hdr) (l : PrefLevel) (m : MemOp) (x : Word) (s s1 s2 : State), Ready h s → Gives (memAddr m) s x s1 →
    Gives (probeM [x.toNat]) s1 () s2 →
    ∃ t, exec (.pref h l m) s = .next (t.retire h) ∧ t = s2.prefetch l x.toNat ∧ t.acts = s1.acts ∧
      (2 ^ 55 ≤ x.toNat → t = s1)) ∧
  (∀ (s : State) (l : List Nat), (∀ a ∈ l, 2 ^ 55 ≤ a) → Gives (probeM l) s () s) ∧
  (∀ (s : State) (l : List Nat), (∀ a ∈ l, a < 2 ^ 55 → s.xlat s.cctx s.ccore a ≠ none) →
    Gives (probeM l) s () (s.touchAll s.cctx s.ccore l)) ∧
  (∀ (s : State) (a : Nat), a < 2 ^ 55 → s.xlat s.cctx s.ccore a = none → (s.act.str s.cur.stream).given = none →
    (s.act.str s.cur.stream).skip = [] → s.walkSeq s.cctx s.ccl (a / 65536) = none → Stops (probeM [a]) s (.walk (a / 65536) .probe)) ∧
  (∀ (h : Hdr) (s : State), Ready h s → (∀ p ∈ s.act.checks, p.held = true) →
    exec (.sdrain h) s = .next (s.retire h)) ∧
  (∀ (h : Hdr) (s : State) (p : PStore), Ready h s → p ∈ s.act.checks → p.held = false →
    ∃ t, exec (.sdrain h) s = .next t ∧ (t.act.str s.cur.stream).wait = .draining s.act.nextStore ∧
      (t.act.str s.cur.stream).pc = s.pc ∧ t.act.g = s.act.g ∧ t.mem = s.mem)

/-! ## Floating point, vectors, special functions, directional instructions -/

/-- R23, R40, R41, R229: an instruction that raises floating-point events gathers them in FLG, and parks with notice 0x0004 after its result
where FEN enables one of them: INFO holds the events raised, PC the byte address of the instruction; counter event 0x000B counts it. -/
def Obligations.FloatEvents : Prop :=
  ∀ (s : State) (ipc : Word) (fl : BitVec 5),
    (s.act.fen &&& fl = 0 → s.raise ipc fl = s.modAct fun a => { a with flg := a.flg ||| fl }) ∧
    (s.act.fen &&& fl ≠ 0 → s.seam? = none → (s.raise ipc fl).actAt s.cur.sid ≠ none →
      (s.raise ipc fl).act.park = true ∧ (s.raise ipc fl).act.flg = s.act.flg ||| fl ∧ (s.raise ipc fl).mem = s.mem) ∧
    (s.act.fen &&& fl ≠ 0 → s.seam? = none →
      let hdom := match s.cactor? with | some x => x.hdom | none => 0
      let aid := match s.cactor? with | some x => x.aid | none => 0
      s.raise ipc fl = (((s.modAct fun a => ({ a with flg := a.flg ||| fl }).parked hdom).notice s.cctx s.ccore s.act.actor
        (aadOf s.ccore s.act.mbx) false (noticeBytes 0x0004 0 (slotByte s.cur.sid.slot s.cur.stream) s.cur.dom aid ipc s.cur.word
          (fl.setWidth 64))).count s.cctx 0x000B))

/-- R47-R52, R95: rounding a value that a format holds, under any mode, gives its bits with no flag; a value m × 2^e that it does not
hold becomes one of the two neighbouring multiples of its last place, the one that the mode names, with NX where the multiple differs
from the value, and with OF and NX an infinity or the largest finite number where it lies above that, and UF with NX where it is tiny
once rounded as if the exponent had no bound; sums, products and fused operations of numbers round their exact result once, and an exact
difference of zero is +0, or −0 in RDN; a NaN operand, also the addend of a fused operation, gives the canonical NaN, and NV when one is
signalling or the operation is invalid (∞ − ∞, 0 × ∞, here in every format). -/
def Obligations.Formats : Prop :=
  (∀ (fmt : FFmt) (mode : Mode) (x : Nat), x < 2 ^ fmt.bits → ((binFmt fmt).decode x).isNan = false →
    (binFmt fmt).encode mode ((binFmt fmt).decode x) = (x, 0)) ∧
  (∀ (fmt : FFmt) (mode : Mode) (op : FOp) (a b c : Nat), op = .add ∨ op = .sub ∨ op = .mul →
    ((binFmt fmt).decode b).isNan = true ∨ ((binFmt fmt).decode c).isNan = true →
    fop (binFmt fmt) mode op a b c = ((binFmt fmt).nanBits,
      if ((binFmt fmt).decode b).isSig || ((binFmt fmt).decode c).isSig then flNV else 0)) ∧
  (∀ (fmt : FFmt) (mode : Mode) (op : FOp) (a b c : Nat), op = .fma ∨ op = .fms ∨ op = .fnma →
    let x := (binFmt fmt).decode a
    let y := (binFmt fmt).decode b
    let z := (binFmt fmt).decode c
    x.isNan = true ∨ y.isNan = true ∨ z.isNan = true →
    fop (binFmt fmt) mode op a b c = ((binFmt fmt).nanBits,
      if x.isSig || y.isSig || z.isSig || (y.isInf && z.isZero) || (y.isZero && z.isInf) then flNV else 0)) ∧
  fmtF32.nanBits = 0x7FC00000 ∧ fmtF16.nanBits = 0x7E00 ∧ fmtBF16.nanBits = 0x7FC0 ∧
  (∀ (mode : Mode) (neg : Bool) (m d : Nat) (e : Int), 0 < d →
    let r := roundTo mode neg m e (e + d) false
    let away := if neg then mode = .rdn else mode = .rup
    (mode = .rne → m ≤ r.1 * 2 ^ d + 2 ^ (d - 1) ∧ r.1 * 2 ^ d ≤ m + 2 ^ (d - 1) ∧
      (m = r.1 * 2 ^ d + 2 ^ (d - 1) ∨ r.1 * 2 ^ d = m + 2 ^ (d - 1) → r.1 % 2 = 0)) ∧
    (away → m ≤ r.1 * 2 ^ d ∧ r.1 * 2 ^ d < m + 2 ^ d) ∧
    (mode ≠ .rne → ¬away → r.1 * 2 ^ d ≤ m ∧ m < r.1 * 2 ^ d + 2 ^ d) ∧
    (r.2 = true ↔ r.1 * 2 ^ d ≠ m)) ∧
  (∀ (fmt : FFmt) (mode : Mode) (neg : Bool) (m : Nat) (e : Int), m ≠ 0 →
    let f := binFmt fmt
    let u : Int := e + bitLen m - (f.fbits + 1)
    let q := max u f.qmin
    let n := roundTo mode neg m e q false
    let r := f.round mode neg m e
    (n.1 * 2 ^ (q - f.qmin).toNat < 2 ^ f.fbits * 2 ^ (2 ^ f.ebits - 2) →
      ∃ m' e', f.decode r.1 = .fin neg m' e' ∧ m' * 2 ^ (e' - f.qmin).toNat = n.1 * 2 ^ (q - f.qmin).toNat ∧
        (r.2 &&& flNX ≠ 0 ↔ n.2 = true) ∧ r.2 &&& flOF = 0 ∧
        (r.2 &&& flUF ≠ 0 ↔ n.2 = true ∧ (roundTo mode neg m e u false).1 * 2 ^ (u - f.qmin).toNat < 2 ^ f.fbits * 2 ^ (f.qmin - u).toNat)) ∧
    (2 ^ f.fbits * 2 ^ (2 ^ f.ebits - 2) ≤ n.1 * 2 ^ (q - f.qmin).toNat →
      r = ((if neg then f.signBit else 0) + (if mode = .rne ∨ mode = (if neg then .rdn else .rup) then f.infBits else f.infBits - 1),
        flOF ||| flNX))) ∧
  (∀ (fmt : FFmt) (mode : Mode) (a b c : Nat) (na nb nc : Bool) (ma mb mc : Nat) (ea eb ec : Int),
    let f := binFmt fmt
    let v (neg : Bool) (m : Nat) (e q : Int) : Int := (if neg then -1 else 1) * ((m : Int) * 2 ^ (e - q).toNat)
    f.decode a = .fin na ma ea → f.decode b = .fin nb mb eb → f.decode c = .fin nc mc ec → ma ≠ 0 → mb ≠ 0 → mc ≠ 0 →
    (∀ S, S = v nb mb eb (min eb ec) + v nc mc ec (min eb ec) → S ≠ 0 →
      fop f mode .add a b c = f.round mode (decide (S < 0)) S.natAbs (min eb ec)) ∧
    (∀ S, S = v nb mb eb (min eb ec) - v nc mc ec (min eb ec) → S ≠ 0 →
      fop f mode .sub a b c = f.round mode (decide (S < 0)) S.natAbs (min eb ec)) ∧
    fop f mode .mul a b c = f.round mode (nb != nc) (mb * mc) (eb + ec) ∧
    (∀ S, S = v (nb != nc) (mb * mc) (eb + ec) (min (eb + ec) ea) + v na ma ea (min (eb + ec) ea) → S ≠ 0 →
      fop f mode .fma a b c = f.round mode (decide (S < 0)) S.natAbs (min (eb + ec) ea)) ∧
    (∀ S, S = v (nb != nc) (mb * mc) (eb + ec) (min (eb + ec) ea) - v na ma ea (min (eb + ec) ea) → S ≠ 0 →
      fop f mode .fms a b c = f.round mode (decide (S < 0)) S.natAbs (min (eb + ec) ea) ∧
      fop f mode .fnma a b c = f.round mode (decide (-S < 0)) S.natAbs (min (eb + ec) ea)) ∧
    fop f mode .sub a b b = (if mode = .rdn then f.signBit else 0, 0)) ∧
  (∀ (fmt : FFmt) (mode : Mode) (op : FOp) (a b c : Nat) (nb nc : Bool) (mc : Nat) (ec : Int),
    let f := binFmt fmt
    f.decode b = .inf nb →
    (f.decode c = .inf nc → (op = .add ∧ nb ≠ nc) ∨ (op = .sub ∧ nb = nc) → fop f mode op a b c = (f.nanBits, flNV)) ∧
    (f.decode c = .fin nc mc ec → mc = 0 → op = .mul ∨ op = .fma ∨ op = .fms ∨ op = .fnma →
      fop f mode op a b c = (f.nanBits, flNV))) ∧
  (∀ mode, fop fmtF32 mode .mul 0 0x7F800000 0 = (0x7FC00000, flNV)) ∧
  (∀ mode, fop fmtF32 mode .sub 0 0x7F800000 0x7F800000 = (0x7FC00000, flNV))

/-- R92-R95: the scalar floating-point instructions. -/
def Obligations.ScalarFloat : Prop :=
  ScalarFp .fadd .add ∧ ScalarFp .fsub .sub ∧ ScalarFp .fmul .mul ∧
  ScalarFp (fun h fmt _ a b c => .fmin h fmt a b c) .min ∧ ScalarFp (fun h fmt _ a b c => .fmax h fmt a b c) .max ∧
  (∀ (h : Hdr) (fmt : FFmt) (rm : Rm) (a : BitVec 5) (b : GQ) (c : Src2) (x y : Word) (s s1 s2 : State),
    let r := fop (binFmt fmt) (rmMode rm s.act.rnd) .fma ((s.act.getG a).toNat % 2 ^ fmt.bits) (x.toNat % 2 ^ fmt.bits)
      (y.toNat % 2 ^ fmt.bits)
    Ready h s → Gives (readG b) s x s1 → Gives (readSrc2U c) s1 y s2 →
    exec (.ffma h fmt rm a b c) s = .next (((s2.modAct fun v => v.setG a (BitVec.ofNat 64 r.1)).retire h).raise s.pc r.2)) ∧
  (∀ (h : Hdr) (rm : Rm) (dt st : NType) (a b : GQ) (x : Word) (s s1 s2 : State),
    let r := convert (rmMode rm s.act.rnd) dt st (x.toNat % 2 ^ st.bits)
    Ready h s → Gives (readG b) s x s1 →
    Gives (writeG a (if dt.isSigned then (BitVec.ofNat dt.bits r.1).signExtend 64 else BitVec.ofNat 64 r.1)) s1 () s2 →
    exec (.fcvt h rm dt st a b) s = .next ((s2.retire h).raise s.pc r.2)) ∧
  (∀ (h : Hdr) (fmt : FFmt) (a b : GQ) (op : Sgn GQ) (x y : Word) (s s1 s2 s3 : State),
    let f := binFmt fmt
    let r := fsgnBits f (x.toNat % 2 ^ fmt.bits)
      (sgnNeg (f.signOf (x.toNat % 2 ^ fmt.bits)) (f.signOf (y.toNat % 2 ^ fmt.bits)) op)
    Ready h s → Gives (readG b) s x s1 →
    (match op with | .abs => y = 0 ∧ s2 = s1 | .cpy c | .ncp c | .xor c => Gives (readG c) s1 y s2) →
    Gives (writeG a (BitVec.ofNat 64 r.1)) s2 () s3 → exec (.fsgn h fmt a b op) s = .next ((s3.retire h).raise s.pc r.2))

/-- R43, R88-R91, R114: v operands. An unbound v register reads as it stands; a queue register gives its oldest entry and holds the
stream while it is empty or while its oldest entry is too young to be popped by this stream; a masked write changes the active lanes,
and clears or keeps the others. -/
def Obligations.VectorOperands : Prop :=
  ∀ s : State,
    (∀ i : BitVec 5, s.act.boundTo i = none → Gives (readV (.v i)) s s.act.v[i.toNat] s) ∧
    (∀ (i : BitVec 2) (w : QEntry VReg) (l : List (QEntry VReg)), s.act.qv[i.toNat] = w :: l →
      w.by_ = s.cur.stream ∨ w.at_ + 2 ≤ s.cycle →
      Gives (readV (.q i)) s w.val (s.modAct fun a => { a with qv := a.qv.set i.toNat l })) ∧
    (∀ i : BitVec 2, s.act.qv[i.toNat] = [] → ∃ why, Stops (readV (.q i)) s (.hold why)) ∧
    (∀ (i : BitVec 2) (w : QEntry VReg) (l : List (QEntry VReg)), s.act.qv[i.toNat] = w :: l →
      w.by_ ≠ s.cur.stream → s.cycle < w.at_ + 2 → ∃ why, Stops (readV (.q i)) s (.hold why)) ∧
    (∀ (i : BitVec 2) (v : VReg), (s.act.qv[i.toNat]).length < 4 → ∃ t, Gives (writeV (.q i) v) s () t ∧
      t.act.qv[i.toNat] = s.act.qv[i.toNat] ++ [{ val := v, at_ := s.cycle, by_ := s.cur.stream }] ∧
      (∀ j : BitVec 2, j ≠ i → t.act.qv[j.toNat] = s.act.qv[j.toNat]) ∧
      t.act = { s.act with qv := t.act.qv } ∧ OnlyAct s t) ∧
    (∀ (i : BitVec 2) (v : VReg), 4 ≤ (s.act.qv[i.toNat]).length → ∃ why, Stops (writeV (.q i) v) s (.hold why)) ∧
    (∀ (i : BitVec 5) (k : BitVec 16) (z : Bool) (v : VReg), s.act.boundTo i = none →
      ∃ t, Gives (writeMasked (.v i) k z v) s () t ∧
        (∀ j : Fin 16, (t.act.v[i.toNat])[j] = if k.getLsbD j then v[j] else if z then 0 else (s.act.v[i.toNat])[j]) ∧
        (∀ j : BitVec 5, j ≠ i → t.act.v[j.toNat] = s.act.v[j.toNat]) ∧
        t.act = { s.act with v := t.act.v, dirtyWs := t.act.dirtyWs } ∧ OnlyAct s t) ∧
    (∀ (x : GQ) (w : Word) (t : State) (n : Nat), n = 8 ∨ n = 16 ∨ n = 32 → Gives (readG x) s w t →
      ∃ v, Gives (readVSrc n (.bc x)) s v t ∧ ∀ i, i < 512 / n → elem n v i = w.toNat % 2 ^ n)

/-- R93, R94, R96-R98: vector floating point, compares and selection. -/
def Obligations.VectorFloat : Prop :=
  VectorFp .vadd .add ∧ VectorFp .vsub .sub ∧ VectorFp .vmul .mul ∧
  VectorFp (fun h fmt _ z m a b c => .vmin h fmt z m a b c) .min ∧ VectorFp (fun h fmt _ z m a b c => .vmax h fmt z m a b c) .max ∧
  (∀ (h : Hdr) (fmt : FFmt) (rm : Rm) (z : Bool) (m : BitVec 3) (a : BitVec 5) (b : VQ) (c : VSrc) (x y old : VReg)
    (s s1 s2 s3 : State) (op : FOp),
    let r := elemsF fmt.bits (s.act.getK m) fun i => fop (binFmt fmt) (rmMode rm s.act.rnd) op (elem fmt.bits old i)
      (elem fmt.bits x i) (elem fmt.bits y i)
    Ready h s → Gives (readV b) s x s1 → Gives (readVSrc fmt.bits c) s1 y s2 → Gives (oldV (.v a)) s2 old s2 →
    Gives (writeMasked (.v a) (s.act.getK m) z r.1) s2 () s3 →
    (op = .fma → exec (.vfma h fmt rm z m a b c) s = .next ((s3.retire h).raise s.pc r.2)) ∧
    (op = .fms → exec (.vfms h fmt rm z m a b c) s = .next ((s3.retire h).raise s.pc r.2)) ∧
    (op = .fnma → exec (.vfnma h fmt rm z m a b c) s = .next ((s3.retire h).raise s.pc r.2))) ∧
  (∀ (h : Hdr) (fmt : FFmt) (z : Bool) (m : BitVec 3) (a b : VQ) (op : Sgn VSrc) (x y : VReg) (s s1 s2 s3 : State),
    let f := binFmt fmt
    let n := fmt.bits
    let r := elemsF n (s.act.getK m) fun i =>
      fsgnBits f (elem n x i) (sgnNeg (f.signOf (elem n x i)) (f.signOf (elem n y i)) op)
    Ready h s → Gives (readV b) s x s1 →
    (match op with | .abs => y = vzero ∧ s2 = s1 | .cpy c | .ncp c | .xor c => Gives (readVSrc n c) s1 y s2) →
    Gives (writeMasked a (s.act.getK m) z r.1) s2 () s3 →
    exec (.vsgn h fmt z m a b op) s = .next ((s3.retire h).raise s.pc r.2)) ∧
  (∀ (h : Hdr) (cond : ICond) (u : Bool) (m p : BitVec 3) (b : VQ) (c : VSrc) (x y : VReg) (r : BitVec 16) (s s1 s2 : State),
    Ready h s → Gives (readV b) s x s1 → Gives (readVSrc 32 c) s1 y s2 →
    (∀ j : Fin 16, r.getLsbD j = true ↔ (s.act.getK m).getLsbD j = true ∧ Holds cond u x[j] y[j]) →
    exec (.vcmp h (.int cond u) m p b c) s = .next (((s2.modAct fun a => a.setK p r).retire h).raise s.pc 0)) ∧
  (∀ (h : Hdr) (cond : FCond) (m p : BitVec 3) (b : VQ) (c : VSrc) (x y : VReg) (r : BitVec 16) (s s1 s2 : State),
    Ready h s → Gives (readV b) s x s1 → Gives (readVSrc 32 c) s1 y s2 →
    (∀ j : Fin 16, r.getLsbD j = ((s.act.getK m).getLsbD j && (fcmp fmtF32 cond x[j].toNat y[j].toNat).1)) →
    exec (.vcmp h (.flt cond) m p b c) s = .next (((s2.modAct fun a => a.setK p r).retire h).raise s.pc
      ((List.range 16).foldl (fun fl j => if (s.act.getK m).getLsbD j
        then fl ||| (fcmp fmtF32 cond (lane x j).toNat (lane y j).toNat).2 else fl) 0))) ∧
  (∀ (h : Hdr) (m : BitVec 3) (a b : VQ) (c : VSrc) (x y r : VReg) (s s1 s2 s3 : State),
    Ready h s → Gives (readV b) s x s1 → Gives (readVSrc 32 c) s1 y s2 →
    (∀ j : Fin 16, r[j] = if (s.act.getK m).getLsbD j then x[j] else y[j]) →
    Gives (writeV a r) s2 () s3 → exec (.vsel h m a b c) s = .next (s3.retire h))

/-- R101: vector integer instructions, element by element; .sat clamps to the signed range, with .u to the unsigned one. -/
def Obligations.VectorInteger : Prop :=
  (∀ (sz : ESize) (sat u : Bool), sat = true ∨ u = false →
    VectorInt (fun h z m a b c => .viadd h sz sat u z m a b c) sz.bits (addSat sz.bits false sat u) ∧
    VectorInt (fun h z m a b c => .visub h sz sat u z m a b c) sz.bits (addSat sz.bits true sat u)) ∧
  (∀ sz : ESize, VectorInt (fun h z m a b c => .vimul h sz z m a b c) sz.bits (fun x y => x * y % 2 ^ sz.bits)) ∧
  VectorInt .vand 32 (fun x y => x &&& y) ∧ VectorInt .vor 32 (fun x y => x ||| y) ∧ VectorInt .vxor 32 (fun x y => x ^^^ y) ∧
  (∀ sz : ESize, VectorInt (fun h z m a b c => .vshl h sz z m a b c) sz.bits (fun x y => x * 2 ^ (y % sz.bits) % 2 ^ sz.bits)) ∧
  (∀ sz : ESize, VectorInt (fun h z m a b c => .vshr h sz z m a b c) sz.bits (fun x y => x / 2 ^ (y % sz.bits))) ∧
  (∀ sz : ESize, VectorInt (fun h z m a b c => .vsar h sz z m a b c) sz.bits
    (fun x y => (BitVec.ofInt sz.bits ((BitVec.ofNat sz.bits x).toInt / 2 ^ (y % sz.bits))).toNat)) ∧
  (∀ (n x y : Nat) (sub : Bool), 0 < n → x < 2 ^ n → y < 2 ^ n →
    addSat n sub false false x y = (if sub then BitVec.ofNat n x - BitVec.ofNat n y else BitVec.ofNat n x + BitVec.ofNat n y).toNat ∧
    addSat n sub true true x y = if sub then x - y else min (x + y) (2 ^ n - 1)) ∧
  (∀ (n : Nat) (x y : BitVec n) (sub : Bool), 0 < n →
    let r := if sub then x.toInt - y.toInt else x.toInt + y.toInt
    (BitVec.ofNat n (addSat n sub true false x.toNat y.toNat)).toInt =
      if r < -(2 ^ (n - 1) : Int) then -(2 ^ (n - 1) : Int) else if (2 ^ (n - 1) : Int) ≤ r then 2 ^ (n - 1) - 1 else r)

/-- R102-R106, R111: conversion, movement, reductions, dot products and the sum of two blocks. -/
def Obligations.VectorMoves : Prop :=
  (∀ (h : Hdr) (rm : Rm) (z : Bool) (m : BitVec 3) (dt st : NType) (p : BitVec 2) (a b : VQ) (x old : VReg) (s s1 s2 : State),
    let es := st.perLane
    let ed := dt.perLane
    let r := elemsF dt.bits (s.act.getK m) fun n =>
      if es = ed then convert (rmMode rm s.act.rnd) dt st (elem st.bits x n)
      else if ed < es then convert (rmMode rm s.act.rnd) dt st (elem st.bits x (es * (n / ed) + (p.toNat * ed + n % ed)))
      else if p.toNat * es ≤ n % ed ∧ n % ed < p.toNat * es + es then
        convert (rmMode rm s.act.rnd) dt st (elem st.bits x (es * (n / ed) + (n % ed - p.toNat * es)))
      else (elem dt.bits old n, 0)
    dt.bits ≠ 64 → st.bits ≠ 64 → Ready h s → Gives (readV b) s x s1 → Gives (oldV a) s1 old s1 →
    Gives (writeMasked a (s.act.getK m) z r.1) s1 () s2 →
    exec (.vcvt h rm z m dt st p a b) s = .next ((s2.retire h).raise s.pc r.2)) ∧
  (∀ (h : Hdr) (sz : ESize) (z : Bool) (m : BitVec 3) (a : VQ) (b : GQ) (x : Word) (s s1 s2 : State),
    Ready h s → Gives (readG b) s x s1 →
    Gives (writeMasked a (s.act.getK m) z (elems sz.bits (s.act.getK m) fun _ => x.toNat % 2 ^ sz.bits)) s1 () s2 →
    exec (.vbcast h sz z m a b) s = .next (s2.retire h)) ∧
  (∀ (h : Hdr) (sz : ESize) (u : Bool) (a : GQ) (b : VQ) (i : Idx) (x : VReg) (n : Nat) (s s1 s2 s3 : State),
    Ready h s → Gives (readV b) s x s1 →
    (match i with | .imm j => n = j.toNat ∧ s2 = s1 | .reg c => ∃ w, Gives (readG c) s1 w s2 ∧ n = w.toNat % (512 / sz.bits)) →
    Gives (writeG a (extend u (BitVec.ofNat sz.bits (elem sz.bits x n)))) s2 () s3 →
    exec (.vextr h sz u a b i) s = .next (s3.retire h)) ∧
  (∀ (h : Hdr) (sz : ESize) (a : BitVec 5) (b : GQ) (i : Idx) (x : Word) (old : VReg) (n : Nat) (s s1 s2 s3 : State),
    Ready h s → Gives (readG b) s x s1 →
    (match i with | .imm j => n = j.toNat ∧ s2 = s1 | .reg c => ∃ w, Gives (readG c) s1 w s2 ∧ n = w.toNat % (512 / sz.bits)) →
    Gives (oldV (.v a)) s2 old s2 →
    Gives (writeV (.v a) (elems sz.bits 0xFFFF fun e => if e = n then x.toNat % 2 ^ sz.bits else elem sz.bits old e)) s2 () s3 →
    exec (.vins h sz a b i) s = .next (s3.retire h)) ∧
  (∀ (h : Hdr) (sz : ESize) (z : Bool) (m : BitVec 3) (a b c : VQ) (x y : VReg) (s s1 s2 s3 : State),
    let n := sz.bits
    Ready h s → Gives (readV b) s x s1 → Gives (readV c) s1 y s2 →
    Gives (writeMasked a (s.act.getK m) z (elems n (s.act.getK m) fun e =>
      if 2 ^ (n - 1) ≤ elem n y e then 0 else elem n x (elem n y e % (512 / n)))) s2 () s3 →
    exec (.vperm h sz z m a b c) s = .next (s3.retire h)) ∧
  (∀ (h : Hdr) (op : VRedOp) (m : BitVec 3) (a : GQ) (b : VQ) (x : VReg) (r : Nat) (fl : BitVec 5) (s s1 s2 : State),
    let f := (redOp (rmMode (redRm op) s.act.rnd) op).1
    let unit := (redOp (rmMode (redRm op) s.act.rnd) op).2
    let node (p q : Nat × BitVec 5) : Nat × BitVec 5 := ((f p.1 q.1).1, p.2 ||| q.2 ||| (f p.1 q.1).2)
    Ready h s → Gives (readV b) s x s1 →
    tree16 node ((List.range 16).map fun j => (if (s.act.getK m).getLsbD j then (lane x j).toNat else unit, 0)) = [(r, fl)] →
    Gives (writeG a (extend (!redSigned op) (BitVec.ofNat 32 r))) s1 () s2 →
    exec (.vred h op m a b) s = .next ((s2.retire h).raise s.pc fl)) ∧
  (∀ (h : Hdr) (half : Bool) (rm : Rm) (z : Bool) (m : BitVec 3) (a : BitVec 5) (b c : VQ) (x y old : VReg) (s s1 s2 s3 : State),
    let r := elemsF 32 (s.act.getK m) fun j => dot2 (if half then fmtF16 else fmtBF16) (rmMode rm s.act.rnd) (elem 32 old j)
      (elem 16 x (2 * j)) (elem 16 y (2 * j)) (elem 16 x (2 * j + 1)) (elem 16 y (2 * j + 1))
    Ready h s → Gives (readV b) s x s1 → Gives (readV c) s1 y s2 → Gives (oldV (.v a)) s2 old s2 →
    Gives (writeMasked (.v a) (s.act.getK m) z r.1) s2 () s3 →
    exec (.vdot2 h half rm z m a b c) s = .next ((s3.retire h).raise s.pc r.2)) ∧
  (∀ (h : Hdr) (u sat z : Bool) (m : BitVec 3) (a : BitVec 5) (b c : VQ) (x y old : VReg) (s s1 s2 s3 : State),
    let four (v : VReg) (j : Nat) : List Nat := [elem 8 v (4 * j), elem 8 v (4 * j + 1), elem 8 v (4 * j + 2), elem 8 v (4 * j + 3)]
    Ready h s → Gives (readV b) s x s1 → Gives (readV c) s1 y s2 → Gives (oldV (.v a)) s2 old s2 →
    Gives (writeMasked (.v a) (s.act.getK m) z (elems 32 (s.act.getK m) fun j =>
      dot4 u sat (elem 32 old j) (four x j) (four y j))) s2 () s3 →
    exec (.vdot4 h u sat z m a b c) s = .next (s3.retire h)) ∧
  (∀ (h : Hdr) (fmt : TBFmt) (rne : Bool) (a b c : VQ) (x y : VReg) (s s1 s2 s3 : State),
    Ready h s → Gives (readV b) s x s1 → Gives (readV c) s1 y s2 → Gives (writeV a (addBlocks fmt x y).1) s2 () s3 →
    exec (.baddq h fmt rne a b c) s = .next ((s3.retire h).raise s.pc (addBlocks fmt x y).2))

/-- R56-R59, R109, R110: VLDF converts a block of a format window, checked whole and then read with its scale pair; VSTF enters checking
with its data, and raises its flags at its issue where the window's format is known then, which is the model's reading (DEDUCED,
notes/assumptions/14.md). That VSTF.f32 pops a queue register in both FA and FC for elements 0-15 first, and takes a block of 64 bytes
while the format is not known, is the model's choice (DESIGN CHOICE, notes/assumptions/77.md). A window of BF16 or FP16 holds 32
elements of 16 bits, which .raw copies both ways, and which .bf16 and .f32 convert; a packed block has its element bytes, zeros, and the
scale pair in bytes 60 and 61, and unpacking ignores what R110 says it ignores. -/
def Obligations.FormatWindows : Prop :=
  (∀ (h : Hdr) (f : VldfForm) (rm : Rm) (a : VQ) (b : GQ) (disp : BitVec 24) (x : Word) (w : FormatWin) (p : Nat)
    (l : List (Nat × Place)) (bs : List Byte) (s s1 s2 s3 s4 : State),
    let r := vldfValue f (rmMode rm s.act.rnd) w.fmt bs
    Ready h s → Gives (readG b) s x s1 → Gives (roomV a) s1 () s1 →
    Gives (blockPlaces (x + disp.signExtend 64)) s1 (w, p, l) s2 →
    Gives (seamLoad l (loadBlock (x + disp.signExtend 64) w p l)) s2 bs s3 →
    Gives (writeV a r.1) s3 () s4 → exec (.vldf h f rm a b disp) s = .next ((s4.retire h).raise s.pc r.2)) ∧
  (∀ (h : Hdr) (f : VstfForm) (rne : Bool) (a : VQ) (b : GQ) (disp : BitVec 24) (v c : VReg) (x : Word) (s s1 s2 s3 s4 : State),
    let rnd : BitVec 2 := if rne then 0 else s.act.rnd
    let fmt := s3.vstfFormat (x + disp.signExtend 64)
    Ready h s → Gives (readV a) s v s1 → Gives (readG b) s1 x s2 →
    (match f with | .f32 q => Gives (readV q) s2 c s3 | .bf16 | .raw => c = vzero ∧ s3 = s2) →
    Gives (enterStore (.block f v c rnd fmt.isSome) (x + disp.signExtend 64) [] false (blockBytes (fmt.getD 0))) s3 () s4 →
    exec (.vstf h f rne a b disp) s = .next ((s4.retire h).raise s.pc
      (match fmt with | some n => (vstfEncode f v c rnd n).2.2 | none => 0))) ∧
  (∀ (fmt : Nat) (mode : Mode) (bs : List Byte), fmt < 5 →
    bs.length = (if fmt < 2 then 64 else if fmt = 2 then 34 else if fmt = 3 then 26 else 18) →
    (vldfValue .raw mode fmt bs).2 = 0 ∧
    (vstfRaw (vldfValue .raw mode fmt bs).1 fmt).1 ++ (vstfRaw (vldfValue .raw mode fmt bs).1 fmt).2.1 = bs) ∧
  (∀ (f : TBFmt) (e0 e1 body b : Nat), e0 < 256 → e1 < 256 → body < 2 ^ (8 * tbBytes f) → b < 64 →
    (lane (tbPack e0 e1 body) (b / 4)).toNat / 2 ^ (8 * (b % 4)) % 256 =
      (if b < tbBytes f then body / 2 ^ (8 * b) % 256 else if b = 60 then e0 else if b = 61 then e1 else 0) ∧
    tbUnpack f (tbPack e0 e1 body) = (body, e0, e1)) ∧
  tbBytes .tb8 = 32 ∧ tbBytes .tb6 = 24 ∧ tbBytes .tb4 = 16 ∧
  (∀ (mode : Mode) (bs : List Byte) (i : Nat), i < 32 → bs.length = 64 →
    elem 16 (vldfValue .bf16 mode 0 bs).1 i =
      (if (fmtBF16.decode (fieldLE bs (2 * i) 2)).isNan then 0x7FC0 else fieldLE bs (2 * i) 2) ∧
    elem 16 (vldfValue .bf16 mode 1 bs).1 i = (fmtBF16.encode mode (fmtF16.decode (fieldLE bs (2 * i) 2))).1 ∧
    (∀ hi, i < 16 → elem 32 (vldfValue (.f32 hi) mode 0 bs).1 i =
      (let x := fieldLE bs (2 * (i + if hi then 16 else 0)) 2
       if (fmtBF16.decode x).isNan then 0x7FC00000 else x * 65536))) ∧
  (∀ (mode : Mode) (bs : List Byte) (fmt i : Nat), i < 32 → fmt = 2 ∨ fmt = 3 ∨ fmt = 4 → bs.length = blockBytes fmt + 2 →
    bs[blockBytes fmt]? = some 0xFF ∨ bs[blockBytes fmt + 1]? = some 0xFF →
    elem 16 (vldfValue .bf16 mode fmt bs).1 i = 0x7FC0 ∧
    (i < 16 → ∀ hi, elem 32 (vldfValue (.f32 hi) mode fmt bs).1 i = 0x7FC00000))

/-- R116-R120: the special functions, in their scalar and vector forms, and the values that the manual lists: signed zeros,
infinities, NaNs and the cases with DZ, NV, OF and NX; EXP2A and LOG2A are exact on powers of two, SINCOS on integers and halves, and a
pair (−∞, +0) is an identity of PMERGE. -/
def Obligations.SpecialFunctions : Prop :=
  (∀ rne : Bool, Special (fun h x => .rcpa h rne x) (fun _ => rcpa) ∧ Special (fun h x => .rsqa h rne x) (fun _ => rsqa) ∧
    Special (fun h x => .exp2a h rne x) (fun _ => exp2a) ∧ Special (fun h x => .log2a h rne x) (fun _ => log2a) ∧
    Special (fun h x => .tanha h rne x) (fun _ => tanha) ∧ Special (fun h x => .gelua h rne x) (fun _ => gelua)) ∧
  (∀ rm : Rm, Special (fun h x => .sqrtf h rm x) (fun s => sqrtF (rmMode rm s.act.rnd))) ∧
  (∀ (h : Hdr) (rm : Rm) (a b c : GQ) (x y : Word) (s s1 s2 s3 : State),
    let r := divF (rmMode rm s.act.rnd) (x.toNat % 2 ^ 32) (y.toNat % 2 ^ 32)
    Ready h s → Gives (readG b) s x s1 → Gives (readG c) s1 y s2 → Gives (writeG a (BitVec.ofNat 64 r.1)) s2 () s3 →
    exec (.divf h rm (.sca a b c)) s = .next ((s3.retire h).raise s.pc r.2)) ∧
  (∀ (h : Hdr) (rm : Rm) (z : Bool) (m : BitVec 3) (a b : VQ) (c : VSrc) (x y : VReg) (s s1 s2 s3 : State),
    let r := elemsF 32 (s.act.getK m) fun j => divF (rmMode rm s.act.rnd) (lane x j).toNat (lane y j).toNat
    Ready h s → Gives (readV b) s x s1 → Gives (readVSrc 32 c) s1 y s2 →
    Gives (writeMasked a (s.act.getK m) z r.1) s2 () s3 →
    exec (.divf h rm (.vec z m a b c)) s = .next ((s3.retire h).raise s.pc r.2)) ∧
  (∀ (h : Hdr) (rne : Bool) (a b : GQ) (x : Word) (s s1 s2 : State),
    let r := sincos (x.toNat % 2 ^ 32)
    Ready h s → Gives (readG b) s x s1 → Gives (writeG a (BitVec.ofNat 64 (r.1.1 + 2 ^ 32 * r.2.1))) s1 () s2 →
    exec (.sincos h rne (.sca a b)) s = .next ((s2.retire h).raise s.pc (r.1.2 ||| r.2.2))) ∧
  (∀ (h : Hdr) (rne z : Bool) (m : BitVec 3) (a : BitVec 4) (b : VQ) (x : VReg) (s s1 s2 s3 : State),
    let r := elemsF 32 (s.act.getK m) fun j => (sincos (lane x j).toNat).1
    let c := elemsF 32 (s.act.getK m) fun j => (sincos (lane x j).toNat).2
    Ready h s → Gives (readV b) s x s1 → Gives (writeMasked (.v (a ++ 0#1)) (s.act.getK m) z r.1) s1 () s2 →
    Gives (writeMasked (.v (a ++ 1#1)) (s.act.getK m) z c.1) s2 () s3 →
    exec (.sincos h rne (.vec z m a b)) s = .next ((s3.retire h).raise s.pc (r.2 ||| c.2))) ∧
  (∀ (h : Hdr) (rm : Rm) (a b c : GQ) (x y : Word) (s s1 s2 s3 : State),
    let r := pmergePair (rmMode rm s.act.rnd) (x.toNat % 2 ^ 32) (x.toNat / 2 ^ 32) (y.toNat % 2 ^ 32) (y.toNat / 2 ^ 32)
    Ready h s → Gives (readG b) s x s1 → Gives (readG c) s1 y s2 →
    Gives (writeG a (BitVec.ofNat 64 (r.1 + 2 ^ 32 * r.2.1))) s2 () s3 →
    exec (.pmerge h rm (.sca a b c)) s = .next ((s3.retire h).raise s.pc r.2.2)) ∧
  (∀ (h : Hdr) (rm : Rm) (z : Bool) (m : BitVec 3) (a b c : VQ) (x y w : VReg) (k : BitVec 16) (s s1 s2 s3 : State),
    let r (i : Nat) := pmergePair (rmMode rm s.act.rnd) (lane x (2 * i)).toNat (lane x (2 * i + 1)).toNat
      (lane y (2 * i)).toNat (lane y (2 * i + 1)).toNat
    Ready h s → Gives (readV b) s x s1 → Gives (readV c) s1 y s2 →
    (∀ j, j < 16 → k.getLsbD j = (s.act.getK m).getLsbD (2 * (j / 2))) →
    (∀ j : Fin 16, w[j] = BitVec.ofNat 32 (if j.val % 2 = 0 then (r (j.val / 2)).1 else (r (j.val / 2)).2.1)) →
    Gives (writeMasked a k z w) s2 () s3 →
    exec (.pmerge h rm (.vec z m a b c)) s = .next ((s3.retire h).raise s.pc
      ((List.range 8).foldl (fun fl i => if (s.act.getK m).getLsbD (2 * i) then fl ||| (r i).2.2 else fl) 0))) ∧
  (∀ (x : Nat) (sig : Bool), fmtF32.decode x = .nan sig →
    let r : Nat × BitVec 5 := (0x7FC00000, if sig then flNV else 0)
    rcpa x = r ∧ rsqa x = r ∧ exp2a x = r ∧ log2a x = r ∧ tanha x = r ∧ gelua x = r ∧ sincos x = (r, r) ∧
    ∀ mode, sqrtF mode x = r) ∧
  (rcpa 0 = (0x7F800000, flDZ) ∧ rcpa 0x80000000 = (0xFF800000, flDZ) ∧ rcpa 0x7F800000 = (0, 0) ∧
    rcpa 0xFF800000 = (0x80000000, 0) ∧ rcpa 0x7F000000 = (0x00400000, 0) ∧
    (∀ x, 0 < x → x ≤ 0x00200040 → rcpa x = (0x7F800000, flOF ||| flNX) ∧ rcpa (0x80000000 + x) = (0xFF800000, flOF ||| flNX))) ∧
  (rsqa 0 = (0x7F800000, flDZ) ∧ rsqa 0x80000000 = (0xFF800000, flDZ) ∧ rsqa 0x7F800000 = (0, 0) ∧
    ∀ x, 0x80000000 < x → x ≤ 0xFF800000 → rsqa x = (0x7FC00000, flNV)) ∧
  (exp2a 0 = (0x3F800000, 0) ∧ exp2a 0x80000000 = (0x3F800000, 0) ∧ exp2a 0xFF800000 = (0, 0) ∧ exp2a 0xC1000000 = (0x3B800000, 0) ∧
    exp2a 0x43000000 = (0x7F800000, flOF ||| flNX) ∧
    ∀ (x m : Nat) (e n : Int) (neg : Bool), fmtF32.decode x = .fin neg m e → -149 ≤ n → n ≤ 127 →
      (if neg then -1 else 1) * (m : Int) * 2 ^ e.toNat = n * 2 ^ (-e).toNat → exp2a x = ((fmtF32.round .rne false 1 n).1, 0)) ∧
  (log2a 0 = (0xFF800000, flDZ) ∧ log2a 0x80000000 = (0xFF800000, flDZ) ∧ log2a 0x7F800000 = (0x7F800000, 0) ∧
    log2a 0x3F800000 = (0, 0) ∧ (∀ x, 0x80000000 < x → x ≤ 0xFF800000 → log2a x = (0x7FC00000, flNV)) ∧
    ∀ (x b : Nat) (e : Int), fmtF32.decode x = .fin false (2 ^ b) e →
      log2a x = ((fmtF32.round .rne (decide (e + b < 0)) (e + b).natAbs 0).1, 0)) ∧
  (tanha 0 = (0, 0) ∧ tanha 0x80000000 = (0x80000000, 0) ∧ tanha 0x7F800000 = (0x3F800000, 0) ∧ tanha 0xFF800000 = (0xBF800000, 0) ∧
    gelua 0 = (0, 0) ∧ gelua 0x80000000 = (0x80000000, 0) ∧ gelua 0x7F800000 = (0x7F800000, 0) ∧ gelua 0xFF800000 = (0x80000000, 0)) ∧
  (∀ mode, sqrtF mode 0 = (0, 0) ∧ sqrtF mode 0x80000000 = (0x80000000, 0) ∧ sqrtF mode 0x7F800000 = (0x7F800000, 0) ∧
    (∀ x, 0x80000000 < x → x ≤ 0xFF800000 → sqrtF mode x = (0x7FC00000, flNV))) ∧
  (∀ (mode : Mode) (a b : Nat) (na nb : Bool),
    let sgn := if na = nb then 0 else 0x80000000
    (fmtF32.decode a = .inf na → fmtF32.decode b = .inf nb → divF mode a b = (0x7FC00000, flNV)) ∧
    (∀ m e, fmtF32.decode a = .inf na → fmtF32.decode b = .fin nb m e → divF mode a b = (sgn + 0x7F800000, 0)) ∧
    (∀ m e, fmtF32.decode a = .fin na m e → fmtF32.decode b = .inf nb → divF mode a b = (sgn, 0)) ∧
    (∀ m e x, fmtF32.decode a = .fin na m e → fmtF32.decode b = .fin nb 0 x →
      divF mode a b = if m = 0 then (0x7FC00000, flNV) else (sgn + 0x7F800000, flDZ)) ∧
    (∀ k e x, fmtF32.decode a = .fin na 0 e → fmtF32.decode b = .fin nb k x → k ≠ 0 → divF mode a b = (sgn, 0))) ∧
  (sincos 0x7F800000 = ((0x7FC00000, flNV), (0x7FC00000, flNV)) ∧ sincos 0xFF800000 = ((0x7FC00000, flNV), (0x7FC00000, flNV)) ∧
    (∀ (x m n : Nat) (e : Int) (neg : Bool), fmtF32.decode x = .fin neg m e → m * 2 ^ e.toNat = n * 2 ^ (-e).toNat →
      sincos x = ((if neg then 0x80000000 else 0, 0), (if n % 2 = 0 then 0x3F800000 else 0xBF800000, 0))) ∧
    (∀ (x m n : Nat) (e : Int) (neg : Bool), fmtF32.decode x = .fin neg m e →
      2 * (m * 2 ^ e.toNat) = (2 * n + 1) * 2 ^ (-e).toNat →
      sincos x = ((if decide (n % 2 = 0) = !neg then 0x3F800000 else 0xBF800000, 0), (0, 0)))) ∧
  (∀ (mode : Mode) (m s : Nat), m < 2 ^ 32 → s < 2 ^ 32 → (fmtF32.decode m).isNan = false → (fmtF32.decode s).isNan = false →
    s ≠ 0x80000000 → pmergePair mode m s 0xFF800000 0 = (m, s, 0)) ∧
  (∀ mode, pmergePair mode 0x40400000 0x3FC00000 0x40A00000 0x40000000 = (0x40A00000, 0x40180000, 0))

/-- R61-R63, R121-R130, R133: the directional instructions on registers. A directional destination takes its lanes and its norm
together, and reads back as written. Renormalisation rounds each lane to the nearest integer, ties to even, gives the zero vector
where the sum of squares is 0, saturates the norm with OF and NX or UF and NX, and gives the worked example of R63; lanes in the band
are not corrected. -/
def Obligations.Directional : Prop :=
  (∀ (h : Hdr) (rne : Bool) (a b : BitVec 4) (s : State),
    let r := renorm (s.act.getD b).lanes 0 ((s.act.getD b).norm.getD 0)
    Ready h s → exec (.dnorm h rne a b .keep) s = .next (((s.modAct fun x => x.setD a r.1).retire h).raise s.pc r.2)) ∧
  (∀ (h : Hdr) (rne : Bool) (a b : BitVec 4) (c : BitVec 16) (s : State), Ready h s →
    exec (.dnorm h rne a b (.imm c)) s =
      .next (((s.modAct fun x => x.setD a (setNorm (x.getD b) c)).retire h).raise s.pc 0)) ∧
  (∀ (h : Hdr) (rne : Bool) (a b : BitVec 4) (c : GQ) (w : Word) (s s1 : State), Ready h s → Gives (readG c) s w s1 →
    exec (.dnorm h rne a b (.reg c)) s = .next ((s1.modAct fun x => x.setD a (setNorm (x.getD b) (w.setWidth 16))).retire h)) ∧
  (∀ (h : Hdr) (rne : Bool) (a : BitVec 4) (b : VQ) (x : VReg) (s s1 : State),
    let r := toD16 ((List.range 32).map fun i => fmtBF16.decode (elem 16 x i))
    Ready h s → Gives (readV b) s x s1 →
    exec (.dcvt h (.fromBf16 rne a b)) s = .next (((s1.modAct fun y => y.setD a r.1).retire h).raise s.pc r.2)) ∧
  (∀ (h : Hdr) (rne : Bool) (a : BitVec 4) (b c : VQ) (x y : VReg) (s s1 s2 : State),
    let r := toD16 ((List.range 32).map fun i => fmtF32.decode (if i < 16 then lane x i else lane y (i - 16)).toNat)
    Ready h s → Gives (readV b) s x s1 → Gives (readV c) s1 y s2 →
    exec (.dcvt h (.fromF32 rne a b c)) s = .next (((s2.modAct fun y => y.setD a r.1).retire h).raise s.pc r.2)) ∧
  (∀ (h : Hdr) (rm : Rm) (a : VQ) (b : BitVec 4) (s s1 : State),
    let r := elemsF 16 0xFFFF (fromD16 fmtBF16 (rmMode rm s.act.rnd) (s.act.getD b))
    Ready h s → Gives (writeV a r.1) s () s1 →
    exec (.dcvt h (.toBf16 rm a b)) s = .next ((s1.retire h).raise s.pc r.2)) ∧
  (∀ (h : Hdr) (rm : Rm) (a b : BitVec 4) (s s1 s2 : State),
    let r0 := elemsF 32 0xFFFF (fromD16 fmtF32 (rmMode rm s.act.rnd) (s.act.getD b))
    let r1 := elemsF 32 0xFFFF fun j => fromD16 fmtF32 (rmMode rm s.act.rnd) (s.act.getD b) (16 + j)
    Ready h s → Gives (writeV (.v (a ++ 0#1)) r0.1) s () s1 → Gives (writeV (.v (a ++ 1#1)) r1.1) s1 () s2 →
    exec (.dcvt h (.toF32 rm a b)) s = .next ((s2.retire h).raise s.pc (r0.2 ||| r1.2))) ∧
  (∀ (h : Hdr) (rm : Rm) (a : GQ) (b c : BitVec 4) (s s1 : State),
    let r := roundPow 0 fmtF32 (rmMode rm s.act.rnd) (dotLanes (s.act.dLanes b) (s.act.dLanes c)) 0 (-28)
    Ready h s → Gives (writeG a (BitVec.ofNat 64 r.1)) s () s1 →
    exec (.ddot h false rm a b c) s = .next ((s1.retire h).raise s.pc r.2)) ∧
  (∀ (h : Hdr) (rm : Rm) (a : GQ) (b c : BitVec 4) (s s1 : State),
    let r : Nat × BitVec 5 := match (s.act.getD b).norm, (s.act.getD c).norm with
      | some n, some k =>
        let p := dotLanes (s.act.getD b).lanes (s.act.getD c).lanes
        roundPow p.natAbs fmtF32 (rmMode rm s.act.rnd) p (n + k) (-28)
      | _, _ => (0, 0)
    Ready h s → Gives (writeG a (BitVec.ofNat 64 r.1)) s () s1 →
    exec (.ddot h true rm a b c) s = .next ((s1.retire h).raise s.pc r.2)) ∧
  (∀ (h : Hdr) (a b : BitVec 4) (c : Src2) (w : Word) (s s1 : State),
    let r : DVec × BitVec 5 := match (s.act.getD b).norm with
      | none => (dzero, 0)
      | some n =>
        if 32767 < n + w.toInt then ({ s.act.getD b with norm := some 32767 }, flOF ||| flNX)
        else if n + w.toInt < -32767 then (dzero, flUF ||| flNX)
        else ({ s.act.getD b with norm := some (n + w.toInt) }, 0)
    Ready h s → Gives (readSrc2 c) s w s1 →
    exec (.dscale h a b c) s = .next (((s1.modAct fun y => y.setD a r.1).retire h).raise s.pc r.2)) ∧
  (∀ (h : Hdr) (sub rne : Bool) (a b c : BitVec 4) (s : State),
    let r := addD sub (s.act.getD b) (s.act.getD c)
    Ready h s → exec (.dadd h sub rne a b c) s = .next (((s.modAct fun x => x.setD a r.1).retire h).raise s.pc r.2)) ∧
  (∀ (h : Hdr) (rne : Bool) (a b c : BitVec 4) (t : BitVec 17) (s : State),
    let r := lerpD t.toNat (s.act.getD b) (s.act.getD c)
    Ready h s → exec (.dlerp h rne a b c t) s = .next (((s.modAct fun x => x.setD a r.1).retire h).raise s.pc r.2)) ∧
  (∀ (h : Hdr) (a b : BitVec 4) (s : State), Ready h s →
    exec (.dneg h a b) s = .next ((s.modAct fun x => x.setD a
      { (x.getD b) with lanes := (x.getD b).lanes.map fun y => if y = -32768 then 32767 else -y }).retire h)) ∧
  (∀ (h : Hdr) (rne : Bool) (a b : BitVec 4) (c : GQ) (e sh : BitVec 5) (w : Word) (s s1 : State),
    let r := rotD (w.toNat % 2 ^ 32) e.toNat sh.toNat (s.act.getD b)
    Ready h s → Gives (readG c) s w s1 →
    exec (.drot h rne a b c e sh) s = .next (((s1.modAct fun y => y.setD a r.1).retire h).raise s.pc r.2)) ∧
  (∀ (h : Hdr) (a b : BitVec 4) (s : State), Ready h s →
    exec (.dmovn h (.dd a b)) s = .next ((s.modAct fun x => x.setD a (x.getD b)).retire h)) ∧
  (∀ (h : Hdr) (a : GQ) (b : BitVec 4) (s s1 : State), Ready h s →
    Gives (writeG a (s.act.n[b.toNat].signExtend 64)) s () s1 → exec (.dmovn h (.gd a b)) s = .next (s1.retire h)) ∧
  (∀ (h : Hdr) (a : GQ) (b : BitVec 4) (s s1 : State), Ready h s →
    Gives (writeG a (BitVec.ofNat 64 (match (s.act.getD b).norm with
      | none => 0xFF800000
      | some n => (fmtF32.round .rne (decide (n < 0)) n.natAbs (-8)).1))) s () s1 →
    exec (.dmovn h (.gf a b)) s = .next (s1.retire h)) ∧
  (∀ (h : Hdr) (p : BitVec 3) (b : BitVec 4) (cond : DtestCond) (s : State), Ready h s →
    exec (.dtest h p b cond) s = .next ((s.modAct fun x => x.setP p (match cond with
      | .zero => decide (x.n[b.toNat] = 0x8000)
      | .sat => decide (x.n[b.toNat] = 0x7FFF)
      | .gt imm => decide (x.n[b.toNat] ≠ 0x8000 ∧ (imm.extractLsb' 0 16).toInt < (x.n[b.toNat]).toInt))).retire h)) ∧
  (∀ (a : Act) (i j : BitVec 4) (v : DVec), j ≠ i →
    (a.setD i v).d[j.toNat] = a.d[j.toNat] ∧ (a.setD i v).n[j.toNat] = a.n[j.toNat]) ∧
  (∀ (a : Act) (i : BitVec 4) (l : List Int) (n : Int), l.length = 32 → (∀ x ∈ l, -32768 ≤ x ∧ x ≤ 32767) → -32767 ≤ n → n ≤ 32767 →
    (a.setD i { lanes := l, norm := some n }).getD i = { lanes := l, norm := some n } ∧
    (a.setD i dzero).getD i = dzero ∧ (a.setD i dzero).n[i.toNat] = 0x8000) ∧
  (∀ (l : List Int) (e ln : Int) (D : Nat),
    (sumSq l = 0 → renorm l e ln D = (dzero, 0)) ∧
    (sumSq l ≠ 0 → 32767 < normCode (sumSq l) e ln D →
      renorm l e ln D = ({ lanes := normLanes l (sumSq l), norm := some 32767 }, flOF ||| flNX)) ∧
    (sumSq l ≠ 0 → normCode (sumSq l) e ln D < -32767 → renorm l e ln D = (dzero, flUF ||| flNX)) ∧
    (sumSq l ≠ 0 → -32767 ≤ normCode (sumSq l) e ln D → normCode (sumSq l) e ln D ≤ 32767 →
      renorm l e ln D = ({ lanes := normLanes l (sumSq l), norm := some (normCode (sumSq l) e ln D) }, 0))) ∧
  (∀ p q : Nat, 0 < q →
    let n := rneSqrt p q
    (0 < n → (2 * n - 1) * (2 * n - 1) * q ≤ 4 * p) ∧ 4 * p ≤ (2 * n + 1) * (2 * n + 1) * q ∧
    (4 * p = (2 * n - 1) * (2 * n - 1) * q ∧ 0 < n ∨ 4 * p = (2 * n + 1) * (2 * n + 1) * q → n % 2 = 0)) ∧
  (∀ (l : List Int) (t : Nat),
    let r := l.map fun x => (if x < 0 then -1 else 1) * (rneSqrt (x.natAbs * x.natAbs * 2 ^ 28) t : Int)
    268369920 ≤ sumSq r → sumSq r ≤ 268500992 → normLanes l t = r) ∧
  (∀ (b : Nat) (e ln : Int), normCode (2 ^ b) e ln 1 = ln + 256 * (e - 14) + 128 * b) ∧
  renorm (49152 :: 65536 :: List.replicate 30 0) 0 0 = ({ lanes := 9830 :: 13107 :: List.replicate 30 0, norm := some 594 }, 0) ∧
  (∀ (sub : Bool) (x : DVec), addD sub dzero dzero = (dzero, 0) ∧
    (addD sub x dzero = match x.norm with
      | none => (dzero, 0)
      | some n => renorm ((x.lanes.zip dzero.lanes).map fun p => p.1 * 2 ^ 30) (-30) n)) ∧
  (∀ (x y : DVec) (e sh : Nat), lerpD 0 x y = (x, 0) ∧ lerpD 65536 x y = (y, 0) ∧ rotD 0 e sh x = (x, 0))

/-- R112, R113: stream generators: SCFG sets one at a base that is a multiple of 4, SBIND binds a register of v28-v31 to one, which
releases other bindings of both, and SUNBIND releases it. -/
def Obligations.StreamGenerators : Prop :=
  (∀ (h : Hdr) (wr : Bool) (sg : BitVec 2) (b c : GQ) (stride : BitVec 16) (x y : Word) (s s1 s2 : State),
    Ready h s → Gives (readG b) s x s1 → Gives (readG c) s1 y s2 → x.toNat % 4 = 0 →
    ∃ t : State, exec (.scfg h wr sg b c stride) s = .next (t.retire h) ∧
      t.act = { s2.act with gens := s2.act.gens.set sg.toNat { wr, base := x, len := y.toNat % 2 ^ 32, stride } } ∧
      t.mem = s2.mem) ∧
  (∀ (h : Hdr) (v sg : BitVec 2) (s : State), Ready h s →
    ∃ t : State, exec (.sbind h v sg) s = .next (t.retire h) ∧
      (∀ u : BitVec 2, t.act.bind[u.toNat] = if u = v then some sg else if s.act.bind[u.toNat] = some sg then none
        else s.act.bind[u.toNat]) ∧ t.act.v = s.act.v ∧ t.mem = s.mem) ∧
  (∀ (h : Hdr) (v : BitVec 2) (s : State), Ready h s →
    exec (.sunbind h v) s = .next ((s.modAct fun a => { a with bind := a.bind.set v.toNat none }).retire h))

/-! ## Messages and mailboxes -/

/-- R165, R179-R182: SEND, SENDL, REPLY and REFUSE place a message in the outbound buffer, where it fits; where causes of R181 hold
for it, the lowest-numbered one parks the activation with notice 0x000C, as if the instruction had not begun. On general registers
and v registers, and for a payload in the own CLM, they complete under conditions on the state and the operands alone. -/
def Obligations.Sends : Prop :=
  (∀ (h : Hdr) (rel : Bool) (d : GQ) (src : SendSrc) (cls : BitVec 4) (c : Option GQ) (dst : Word) (pay : List Byte)
    (tag : BitVec 32) (delay : Nat) (s s1 s2 s3 : State),
    Ready h s → Gives (readG d) s dst s1 → Gives (payloadM src) s1 pay s2 → TagDelay 0 c tag delay s2 s3 →
    SendOk s3 dst cls pay.length false → s3.act.outUsed + 64 * ((16 + pay.length + 63) / 64) ≤ 4096 →
    exec (.send h rel d src cls c) s = .next ((s3.pushOut (.msg
      { dst := dst.setWidth 32, cls, col := 0, rel, src := s3.returnAad, tag, payload := pay, issuer := some s3.issuer }
      delay)).retire h)) ∧
  (∀ (h : Hdr) (rel : Bool) (d b : GQ) (len1 : BitVec 8) (cls : BitVec 4) (c : Option GQ) (dst x : Word) (pay : List Byte)
    (tag : BitVec 32) (delay : Nat) (s s1 s2 s3 s4 : State),
    Ready h s → Gives (readG d) s dst s1 → Gives (readG b) s1 x s2 → TagDelay 0 c tag delay s2 s3 →
    Gives (loadM x (len1.toNat + 1) false) s3 pay s4 →
    SendOk s4 dst cls pay.length false → s4.act.outUsed + 64 * ((16 + pay.length + 63) / 64) ≤ 4096 →
    exec (.sendl h rel d b len1 cls c) s = .next ((s4.pushOut (.msg
      { dst := dst.setWidth 32, cls, col := 0, rel, src := s4.returnAad, tag, payload := pay, issuer := some s4.issuer }
      delay)).retire h)) ∧
  (∀ (h : Hdr) (rel : Bool) (src : SendSrc) (cls : BitVec 4) (c : Option GQ) (pay : List Byte) (tag : BitVec 32) (delay : Nat)
    (s s1 s2 : State),
    let dst : Word := (s.act.hdr1.extractLsb' 0 32).setWidth 64
    Ready h s → Gives (payloadM src) s pay s1 → TagDelay (s.act.hdr1.extractLsb' 32 32) c tag delay s1 s2 →
    SendOk s2 dst cls pay.length true → s2.act.outUsed + 64 * ((16 + pay.length + 63) / 64) ≤ 4096 →
    exec (.reply h rel src cls c) s = .next ((s2.pushOut (.msg
      { dst := dst.setWidth 32, cls, col := 1, rel, src := s2.returnAad, tag, payload := pay, issuer := some s2.issuer }
      delay)).retire h)) ∧
  (∀ (h : Hdr) (code : BitVec 8) (s : State),
    let m := s.act.msg.m
    Ready h s → SendOk s (m.src.setWidth 64) 15 112 true → s.act.outUsed + 128 ≤ 4096 →
    exec (.refuse h code) s = .next ((s.pushOut (.msg
      { dst := m.src, cls := 15, col := 1, src := s.returnAad, tag := m.tag
        payload := (msgBytes m ++ List.replicate 64 0).take 64 ++ bytesLE 2 code.toNat ++ bytesLE 2 0 ++
          bytesLE 4 (aadOf s.idCore s.act.mbx).toNat ++ List.replicate 40 0 } 0)).retire h)) ∧
  (∀ (h : Hdr) (rel : Bool) (d : GQ) (src : SendSrc) (cls : BitVec 4) (c : Option GQ) (dst : Word) (pay : List Byte)
    (tag : BitVec 32) (delay : Nat) (s s1 s2 s3 : State),
    Ready h s → Gives (readG d) s dst s1 → Gives (payloadM src) s1 pay s2 → TagDelay 0 c tag delay s2 s3 →
    (¬ SendOk s3 dst cls pay.length false → ∃ cause, 1 ≤ cause ∧ cause ≤ 6 ∧ SendFaults s3 dst cls pay.length false cause) ∧
    ∀ cause, SendFaults s3 dst cls pay.length false cause →
      exec (.send h rel d src cls c) s = .next (s.park { code := 0x000C, reason := cause, info := dst })) ∧
  (∀ (h : Hdr) (rel : Bool) (d b : GQ) (len1 : BitVec 8) (cls : BitVec 4) (c : Option GQ) (dst x : Word) (pay : List Byte)
    (tag : BitVec 32) (delay cause : Nat) (s s1 s2 s3 s4 : State),
    Ready h s → Gives (readG d) s dst s1 → Gives (readG b) s1 x s2 → TagDelay 0 c tag delay s2 s3 →
    Gives (loadM x (len1.toNat + 1) false) s3 pay s4 → SendFaults s4 dst cls pay.length false cause →
    exec (.sendl h rel d b len1 cls c) s = .next (s.park { code := 0x000C, reason := cause, info := dst })) ∧
  (∀ (h : Hdr) (rel : Bool) (src : SendSrc) (cls : BitVec 4) (c : Option GQ) (pay : List Byte) (tag : BitVec 32)
    (delay cause : Nat) (s s1 s2 : State),
    let dst : Word := (s.act.hdr1.extractLsb' 0 32).setWidth 64
    Ready h s → Gives (payloadM src) s pay s1 → TagDelay (s.act.hdr1.extractLsb' 32 32) c tag delay s1 s2 →
    SendFaults s2 dst cls pay.length true cause →
    exec (.reply h rel src cls c) s = .next (s.park { code := 0x000C, reason := cause, info := dst })) ∧
  (∀ (h : Hdr) (code : BitVec 8) (cause : Nat) (s : State), Ready h s →
    SendFaults s (s.act.msg.m.src.setWidth 64) 15 112 true cause →
    exec (.refuse h code) s = .next (s.park { code := 0x000C, reason := cause, info := s.act.msg.m.src.setWidth 64 })) ∧
  (∀ w : Word, aadOk w = true ↔
    2 ^ 31 ≤ w.toNat ∧ w.toNat < 2 ^ 31 + 2 ^ 20 ∧ w.toNat / 512 % 2048 < 530 ∧
    (512 ≤ w.toNat / 512 % 2048 ∧ w.toNat / 512 % 2048 < 528 → w.toNat / 64 % 8 < 4)) ∧
  (∀ (h : Hdr) (rel : Bool) (d : BitVec 5) (src : SendSrc) (cls : BitVec 4) (c : Option (BitVec 5)) (pay : List Byte) (s : State),
    let dst := s.act.getG d
    let fc : Word := match c with | none => 0 | some q => s.act.getG q
    (match src with
      | .regs (.g b) n => pay = (List.range n.toNat).flatMap fun i => bytesLE 8 (s.act.getG (b + BitVec.ofNat 5 i)).toNat
      | .lanes (.v b) => s.act.boundTo b = none ∧
          pay = (List.range 12).flatMap fun j => bytesLE 4 (lane s.act.v[b.toNat] j).toNat
      | _ => False) →
    Ready h s → SendOk s dst cls pay.length false → s.act.outUsed + 64 * ((16 + pay.length + 63) / 64) ≤ 4096 →
    exec (.send h rel (.g d) src cls (c.map .g)) s = .next ((s.pushOut (.msg
      { dst := dst.setWidth 32, cls, col := 0, rel, src := s.returnAad, tag := fc.setWidth 32, payload := pay
        issuer := some s.issuer } (min (fc.extractLsb' 32 17).toNat 65536))).retire h)) ∧
  (∀ (h : Hdr) (rel : Bool) (d b : BitVec 5) (len1 : BitVec 8) (cls : BitVec 4) (off : Nat) (s : State),
    let dst := s.act.getG d
    let x := s.act.getG b
    let n := len1.toNat + 1
    Ready h s → x.toNat + n ≤ 2 ^ 64 → s.act.checks = [] → s.poison = [] →
    (∀ i, i < n → s.place s.who (x.toNat + i) .read = .ok (.clm (off + i))) →
    SendOk s dst cls n false → s.act.outUsed + 64 * ((16 + n + 63) / 64) ≤ 4096 →
    exec (.sendl h rel (.g d) (.g b) len1 cls none) s = .next ((s.pushOut (.msg
      { dst := dst.setWidth 32, cls, col := 0, rel, src := s.returnAad, tag := 0
        payload := (List.range n).map fun i => s.mem.read (clmKey s.cctx s.ccore (off + i)), issuer := some s.issuer } 0)).retire h)) ∧
  (∀ (h : Hdr) (rel : Bool) (b : BitVec 5) (n : BitVec 3) (cls : BitVec 4) (s : State),
    let dst : Word := (s.act.hdr1.extractLsb' 0 32).setWidth 64
    let pay := (List.range n.toNat).flatMap fun i => bytesLE 8 (s.act.getG (b + BitVec.ofNat 5 i)).toNat
    Ready h s → SendOk s dst cls pay.length true → s.act.outUsed + 64 * ((16 + pay.length + 63) / 64) ≤ 4096 →
    exec (.reply h rel (.regs (.g b) n) cls none) s = .next ((s.pushOut (.msg
      { dst := dst.setWidth 32, cls, col := 1, rel, src := s.returnAad, tag := s.act.hdr1.extractLsb' 32 32, payload := pay
        issuer := some s.issuer } 0)).retire h)) ∧
  (∀ (s : State) (i : BitVec 5), Gives (payloadM (.regs (.g i) 1)) s (bytesLE 8 (s.act.getG i).toNat) s ∧
    Gives (payloadM (.regs (.g i) 2)) s (bytesLE 8 (s.act.getG i).toNat ++ bytesLE 8 (s.act.getG (i + 1)).toNat) s)

/-- R183-R187: the mailbox instructions change the mailboxes of the present actor, and MBSTAT and SELF read them; MBCFG.off holds
its stream until the pages of the bobbin whose messages it refuses translate (DESIGN CHOICE, notes/assumptions/56.md), and leaves the
policy and the priority (DESIGN CHOICE, 81.md). What a copy of an
activation under lockstitch does (it changes nothing, and has its primary's AADs) is the model's reading of R350 (DEDUCED,
notes/assumptions/32.md); that MBCFG.bob finds an unconfigured mailbox of the wrong kind is the model's (DEDUCED, 48.md), and the INFO of
notice 0x000D is open (DESIGN CHOICE, 7.md). -/
def Obligations.Mailboxes : Prop :=
  (∀ (h : Hdr) (m : BitVec 2) (b : GQ) (w : Word) (s s1 : State),
    let depth := (w.extractLsb' 0 7).toNat
    let old := s1.ownBox m
    Ready h s → Gives (readG b) s w s1 → 1 ≤ depth → depth ≤ 64 →
    s1.depthSum s1.cctx s1.idCore (s1.ownMbx m) + depth ≤ 96 → old.used ≤ depth →
    old.kind = .queue ∨ old.busy = false → w &&& ~~~0x1317F = 0 →
    ∃ t t1 : State, exec (.mbcfgQ h m b) s = .next (t.retire h) ∧
      BoxSet s1 t1 m (fun x => { x with
        kind := .queue, depth, spill := w.getLsbD 8, prio := w.extractLsb' 12 2, comb := {} }) ∧
      (w.getLsbD 16 = false → t = t1) ∧
      (∀ a, w.getLsbD 16 = true → s1.isCopy = false → s1.cactor? = some a → t.cactor? = some { a with ret := m })) ∧
  (∀ (h : Hdr) (m : BitVec 2) (b : GQ) (s s1 : State), Ready h s → Gives (readG b) s 0 s1 →
    (s1.ownBox m).busy = false ∨ (s1.ownBox m).kind = .combining →
    ∃ t : State, exec (.mbcfgComb h m b) s = .next (t.retire h) ∧
      BoxSet s1 t m fun x => { x with kind := .combining, depth := 0, comb := {} }) ∧
  (∀ (h : Hdr) (m : BitVec 2) (b c : GQ) (base size : Word) (s s1 s2 : State),
    Ready h s → s.isPriv = true → Gives (readG b) s base s1 → Gives (readG c) s1 size s2 →
    base.toNat % 4096 = 0 → size.toNat % 4096 = 0 → 4096 ≤ size.toNat → size.toNat ≤ 2 ^ 30 →
    base.toNat + size.toNat ≤ 2 ^ 55 → (∀ x, (s2.ownBox m).bobbin = some x → x.msgs = []) →
    (s2.ownBox m).limbo = [] → (s2.ownBox m).kind ≠ .unconfigured →
    ∃ t : State, exec (.mbcfgBob h m b c) s = .next (t.retire h) ∧
      BoxSet s2 t m fun x => { x with bobbin := some { base, entries := size.toNat / 256, head := 0 } }) ∧
  (∀ (h : Hdr) (m : BitVec 2) (cls : BitVec 4) (idem : Bool) (b : GQ) (w : Word) (a : Actor) (s s1 : State),
    Ready h s → Gives (readG b) s w s1 → w = 0 ∨ w.toNat % 128 < 120 ∧ w.toNat % 128 % 12 = 0 → s1.isCopy = false →
    s1.cactor? = some a →
    ∃ (t : State) (k : Actor), exec (.mbcfgHnd h m cls idem b) s = .next (t.retire h) ∧ t.cactor? = some k ∧
      k.handler m cls = (if w = 0 then none else some (w, idem)) ∧
      (∀ n d, (n, d) ≠ (m, cls) → k.handler n d = a.handler n d) ∧ t = { s1 with actors := t.actors }) ∧
  (∀ (h : Hdr) (m : BitVec 2) (cls : BitVec 4) (idem : Bool) (b : GQ) (w : Word) (s s1 : State),
    Ready h s → Gives (readG b) s w s1 → w = 0 ∨ w.toNat % 128 < 120 ∧ w.toNat % 128 % 12 = 0 → s1.isCopy = true →
    exec (.mbcfgHnd h m cls idem b) s = .next (s1.retire h)) ∧
  (∀ (h : Hdr) (m : BitVec 2) (b : GQ) (s s1 : State), Ready h s → Gives (readG b) s 0 s1 → s1.isCopy = false →
    (s1.coreAt s1.cctx s1.ccore).closing = [] →
    (∀ x, (s1.ownBox m).bobbin = some x → s1.bobbinGap s1.cctx s1.ccore x x.count = none ∧ (s1.ctxAt s1.cctx).running = true ∧
      (s1.coreAt s1.cctx s1.ccore).stopped = false) →
    ∃ t : State, exec (.mbcfgOff h m b) s = .next (t.retire h) ∧ t.ownBox m = { s1.ownBox m with
      kind := .unconfigured, depth := 0, bobbin := none, comb := {}, digest := 0, ring := [], put := [], reserve := [], limbo := [] }) ∧
  (∀ (h : Hdr) (m : BitVec 2) (b : GQ) (x : Bobbin) (s s1 : State), Ready h s → Gives (readG b) s 0 s1 → s1.isCopy = false →
    (s1.coreAt s1.cctx s1.ccore).closing = [] → (s1.ownBox m).bobbin = some x → x.msgs ≠ [] →
    s1.xlat s1.cctx s1.ccore (x.entryAt x.head) = none →
    ∃ t : State, exec (.mbcfgOff h m b) s = .next t ∧ (t.act.str s.cur.stream).wait = .closing (s1.ownMbx m) ∧
      (t.ownBox m).kind = .unconfigured ∧ (t.ownBox m).bobbin = none) ∧
  (∀ (h : Hdr) (m : BitVec 2) (b : GQ) (s s1 : State), Ready h s → Gives (readG b) s 0 s1 → s1.isCopy = true →
    exec (.mbcfgOff h m b) s = .next (s1.retire h)) ∧
  (∀ (h : Hdr) (m : BitVec 2) (mask : BitVec 14) (s : State), Ready h s →
    ∃ t : State, exec (.cmask h m mask) s = .next (t.retire h) ∧ BoxSet s t m fun x => { x with mask := x.mask ||| mask }) ∧
  (∀ (h : Hdr) (m : BitVec 2) (mask : BitVec 14) (s : State), Ready h s →
    ∃ t : State, exec (.cunmask h m mask) s = .next (t.retire h) ∧
      BoxSet s t m fun x => { x with mask := x.mask &&& ~~~mask }) ∧
  (∀ (h : Hdr) (dig : Bool) (a : GQ) (m : BitVec 2) (s t : State), Ready h s →
    Gives (writeG a (if dig then (s.ownBox m).digest else (s.ownBox m).stat)) s () t →
    exec (.mbstat h dig a m) s = .next (t.retire h)) ∧
  (∀ b : Mailbox, b.used < 256 → b.drop < 4 → b.comb.left < 2048 →
    (b.stat.extractLsb' 8 8).toNat = b.used ∧ b.stat.extractLsb' 16 14 = b.mask ∧
    (b.stat.extractLsb' 30 2).toNat = (match b.kind with | .unconfigured => 0 | .queue => 1 | .combining => 2) ∧
    (b.stat.extractLsb' 32 16).toNat = (match b.bobbin with | some x => min 65535 x.count | none => 0) ∧
    b.stat.getLsbD 48 = b.spill ∧ b.stat.extractLsb' 49 2 = b.prio ∧ (b.stat.extractLsb' 51 2).toNat = b.drop ∧
    (b.stat.extractLsb' 53 11).toNat = if b.comb.armed then b.comb.left else 0) ∧
  (∀ (h : Hdr) (op : ArmOp) (m : BitVec 2) (b c : GQ) (acc n : Word) (s s1 s2 : State),
    Ready h s → Gives (readG b) s acc s1 → Gives (readG c) s1 n s2 → (s2.ownBox m).kind = .combining → 1 ≤ n.toNat →
    n.toNat ≤ 1024 →
    ∃ t : State, exec (.mbarm h op m b c) s = .next (t.retire h) ∧
      BoxSet s2 t m fun x => { x with comb := { armed := true, op, acc, count := n.toNat, left := n.toNat, flags := 0 } }) ∧
  (∀ (h : Hdr) (f : SelfForm) (a : GQ) (k : Actor) (s t : State), Ready h s → s.cactor? = some k →
    Gives (writeG a (match f with
      | .aad => (aadOf s.idCore s.act.mbx).setWidth 64
      | .aid => k.aid.setWidth 64
      | .grp => k.group.setWidth 64
      | .mbx m => (aadOf s.idCore (BitVec.ofNat 6 (4 * s.act.actor + m.toNat))).setWidth 64)) s () t →
    exec (.self h f a) s = .next (t.retire h)) ∧
  (∀ (h : Hdr) (m : BitVec 2) (b : BitVec 5) (s : State),
    let w := s.act.getG b
    let depth := (w.extractLsb' 0 7).toNat
    Ready h s →
    (mbcfgQCause (s.ownBox m) (s.depthSum s.cctx s.idCore (s.ownMbx m)) w = none ↔
      1 ≤ depth ∧ depth ≤ 64 ∧ s.depthSum s.cctx s.idCore (s.ownMbx m) + depth ≤ 96 ∧ (s.ownBox m).used ≤ depth ∧
      ((s.ownBox m).kind = .queue ∨ (s.ownBox m).busy = false) ∧ w &&& ~~~0x1317F = 0) ∧
    (∀ n, mbcfgQCause (s.ownBox m) (s.depthSum s.cctx s.idCore (s.ownMbx m)) w = some n →
      exec (.mbcfgQ h m (.g b)) s = .next (s.park { code := 0x000D, reason := n, openInfo := true })))

/-! ## Domains -/

/-- R192, R194, R199-R206: CALLD fetches its target, whose word it keeps for the next instruction, and pushes a thimble record that RETD
pops, LEND and UNLEND set windows, and DOMQ reads, once its
probe has waited for a translation that a walk may bring. -/
def Obligations.DomainInstructions : Prop :=
  (∀ (h : Hdr) (j hs : Bool) (s : State), Ready h s → exec (.entry h j hs) s = .next (s.retire h)) ∧
  (∀ (h : Hdr) (tgt : CalldTgt) (x : Word) (edom : BitVec 6) (w : IWord) (s s1 : State),
    Ready h s → s.cur.stream = .main → s.act.strm = false → s.act.thimble.length < 8 →
    (match tgt with | .off imm => x = relPc s.pc imm ∧ s1 = s | .reg b => Gives (readG b) s x s1) →
    (s1.fetch s1.cctx s1.ccore s1.cur.dom .calld s1.pc x (s1.act.str s1.cur.stream).refused
      (s1.act.str s1.cur.stream).given).1 = .word edom w →
    ∃ t, exec (.calld h tgt) s = .next t ∧
      t.act.thimble = { rpc := nextPc s.pc, sp := s.act.getG 13, w0 := s.act.pend0, w1 := s.act.pend1, cdom := s.cur.dom, edom } ::
        s.act.thimble ∧
      t.act.pend0 = none ∧ t.act.pend1 = none ∧ t.act.main.pc = x ∧ t.act.main.arrival = .calld ∧
      t.act.main.notBefore = s.cycle + 4 ∧ t.act.main.fetched = some (edom, w) ∧ t.act.g = s.act.g) ∧
  (∀ (h : Hdr) (r : ThimbleRec) (l : List ThimbleRec) (s : State),
    Ready h s → s.cur.stream = .main → s.act.strm = false → s.act.thimble = r :: l → s.cur.dom = r.edom →
    (∀ w, r.w0 = some w ∨ r.w1 = some w → s.windowBusy w = false) →
    ∃ t, exec (.retd h) s = .next t ∧ t.act.thimble = l ∧ t.act.pend0 = none ∧ t.act.pend1 = none ∧
      (∀ j : BitVec 5, t.act.getG j = if j = 13 then r.sp else s.act.getG j) ∧ t.act.main.pc = r.rpc ∧
      t.act.main.arrival = .retd ∧ t.act.main.notBefore = s.cycle + 4 ∧ t.mem = s.mem) ∧
  (∀ (h : Hdr) (w n : Bool) (b c : GQ) (base len : Word) (s s1 s2 : State),
    let win : Option Window := if len = 0 then none
      else some { base := base.setWidth 56, len := len.toNat, ldom := s.cur.dom, write := w, no := s.act.lends }
    let fits := len.toNat ≤ 2 ^ 40 ∧ base.toNat < 2 ^ 56 ∧
      (len ≠ 0 → (base.toNat + len.toNat - 1) / 2 ^ 55 = base.toNat / 2 ^ 55)
    Ready h s → Gives (readG b) s base s1 → Gives (readG c) s1 len s2 →
    (fits → ∃ t : State, exec (.lend h w n b c) s = .next (t.retire h) ∧
      t.act = { s2.act with pend0 := if n then s2.act.pend0 else win, pend1 := if n then win else s2.act.pend1
                            lends := if len = 0 then s.act.lends else s.act.lends + 1 } ∧
      t.mem = s2.mem) ∧
    (¬fits → exec (.lend h w n b c) s = .next (s.park { code := 0x0012, reason := 6, info := base }))) ∧
  (∀ (h : Hdr) (n : Bool) (s : State), Ready h s →
    ∃ t : State, exec (.unlend h true n) s = .next (t.retire h) ∧
      t.act = { s.act with pend0 := if n then s.act.pend0 else none, pend1 := if n then none else s.act.pend1 } ∧
      t.mem = s.mem) ∧
  (∀ (h : Hdr) (n : Bool) (s : State), Ready h s → s.act.thimble = [] → exec (.unlend h false n) s = .next (s.retire h)) ∧
  (∀ (h : Hdr) (n : Bool) (r : ThimbleRec) (l : List ThimbleRec) (s : State), Ready h s → s.act.thimble = r :: l →
    (∀ w, (if n then r.w1 else r.w0) = some w → s.windowBusy w = false) →
    ∃ t : State, exec (.unlend h false n) s = .next (t.retire h) ∧
      t.act = { s.act with thimble := (if n then { r with w1 := none } else { r with w0 := none }) :: l }) ∧
  (∀ (h : Hdr) (a b : GQ) (disp : BitVec 32) (loc : Bool) (x : Word) (s s1 s2 s3 : State),
    let y := (withLocal loc (x + disp.signExtend 64)).toNat
    Ready h s → Gives (readG b) s x s1 → Gives (probeM [y]) s1 () s2 → Gives (writeG a (s2.domProbe y)) s2 () s3 →
    exec (.domq h (.probe a b disp loc)) s = .next (s3.retire h)) ∧
  (∀ (h : Hdr) (a : GQ) (s t : State), Ready h s → Gives (writeG a (BitVec.ofNat 64 s.act.thimble.length)) s () t →
    exec (.domq h (.depth a)) s = .next (t.retire h)) ∧
  (∀ (h : Hdr) (a : GQ) (s t : State), Ready h s →
    Gives (writeG a (match s.act.thimble with | [] => BitVec.allOnes 64 | r :: _ => r.cdom.setWidth 64)) s () t →
    exec (.domq h (.caller a)) s = .next (t.retire h))

/-! ## The matrix unit, the engines, synchronisation -/

/-- R245-R248, R258-R263: a tile instruction that its swatches, K and the queue allow puts its command into the queue of its core,
and MCFG sets a swatch slot or reads the status of the queue; one whose check at issue fails parks with 0x0015 and has no effect. -/
def Obligations.TileCommands : Prop :=
  (∀ (h : Hdr) (acc : Bool) (k : KSrc) (swA swB : BitVec 4) (n : Nat) (a b : Swatch) (s s1 : State),
    Ready h s → (match k with | .imm x => n = x.toNat ∧ s1 = s | .reg q => ∃ w, Gives (readG q) s w s1 ∧ n = w.toNat) →
    HasSwatch s1 swA a → HasSwatch s1 swB b → 32 ≤ n → n ≤ 65536 → InTile (a.regions n ++ b.regions n) →
    (a.fmt = b.fmt → a.fmt = 0 ∨ a.fmt = 1 ∨ a.fmt = 3 ∨ a.fmt = 4 ∨ a.fmt = 5 → n % 32 = 0 →
      TileRoom s1 (.mma acc a b n) → TileDone (.mma h acc k swA swB) h s s1 (.mma acc a b n)) ∧
    (a.fmt = 6 → b.fmt = 3 → n % 192 = 0 →
      TileRoom s1 (.mmas acc a b n) → TileDone (.mmas h acc k swA swB) h s s1 (.mmas acc a b n))) ∧
  (∀ (h : Hdr) (acc : Bool) (k : GQ) (swA swB swM : BitVec 4) (w : Word) (a b m : Swatch) (s s1 : State),
    let n := w.toNat
    Ready h s → s.isPriv = true → Gives (readG k) s w s1 → HasSwatch s1 swA a → HasSwatch s1 swB b → HasSwatch s1 swM m →
    a.fmt = 3 → b.fmt = 3 → m.fmt = 7 → 64 ≤ n → n ≤ 65536 → n % 64 = 0 →
    InTile (a.regions (n / 2) ++ m.regions n ++ b.regions n) → TileRoom s1 (.mmasx acc a b m n) →
    TileDone (.mmasx h acc k swA swB swM) h s s1 (.mmasx acc a b m n)) ∧
  (∀ (h : Hdr) (acc : Bool) (s : State), Ready h s → TileRoom s (.mzero acc) → TileDone (.mzero h acc) h s s (.mzero acc)) ∧
  (∀ (h : Hdr) (acc : Bool) (sw : BitVec 4) (x : Swatch) (s : State), Ready h s → HasSwatch s sw x → x.fmt ≠ 6 → x.fmt ≠ 7 →
    InTile (x.regions 64) →
    (TileRoom s (.mload acc x) → TileDone (.mload h acc sw) h s s (.mload acc x)) ∧
    (∀ rm : Rm, (x.fmt = 3 ∨ x.fmt = 4 ∨ x.fmt = 5 → rm = .dyn ∨ rm = .rne) →
      TileRoom s (.mstore x acc (concreteRm rm s.act.rnd)) →
      TileDone (.mstore h rm sw acc) h s s (.mstore x acc (concreteRm rm s.act.rnd)))) ∧
  (∀ (h : Hdr) (swD swS : BitVec 4) (d x : Swatch) (s : State), Ready h s → HasSwatch s swD d → HasSwatch s swS x →
    d.fmt = x.fmt → x.fmt.toNat ≤ 2 → InTile (d.regions 64 ++ x.regions 64) →
    (∀ r ∈ d.regions 64, ∀ q ∈ x.regions 64, r.2 < q.1 ∨ q.2 < r.1) → TileRoom s (.mxpose d x) →
    TileDone (.mxpose h swD swS) h s s (.mxpose d x)) ∧
  (∀ (h : Hdr) (acc : Bool) (op : EwOp) (o : Nat) (rm : Rm) (b : GQ) (w : Word) (s s1 : State),
    (match op with
      | .mul m q => o = 0 ∧ rm = m ∧ b = q | .add m q => o = 1 ∧ rm = m ∧ b = q
      | .max q => o = 2 ∧ rm = .rne ∧ b = q | .min q => o = 3 ∧ rm = .rne ∧ b = q
      | .mulv .. | .addv .. => False) →
    Ready h s → Gives (readG b) s w s1 → TileRoom s1 (.mewise acc o (concreteRm rm s1.act.rnd) (w.setWidth 32) none) →
    TileDone (.mewise h acc op) h s s1 (.mewise acc o (concreteRm rm s1.act.rnd) (w.setWidth 32) none)) ∧
  (∀ (h : Hdr) (acc : Bool) (rm : Rm) (sw : BitVec 4) (v : Swatch) (s : State), Ready h s → HasSwatch s sw v → v.fmt.toNat ≤ 2 →
    InTile [v.line0] →
    (TileRoom s (.mewise acc 4 (concreteRm rm s.act.rnd) 0 (some v)) →
      TileDone (.mewise h acc (.mulv rm sw)) h s s (.mewise acc 4 (concreteRm rm s.act.rnd) 0 (some v))) ∧
    (TileRoom s (.mewise acc 5 (concreteRm rm s.act.rnd) 0 (some v)) →
      TileDone (.mewise h acc (.addv rm sw)) h s s (.mewise acc 5 (concreteRm rm s.act.rnd) 0 (some v)))) ∧
  (∀ (h : Hdr) (sw : BitVec 4) (b c : GQ) (w0 w1 : Word) (x : Swatch) (s s1 s2 : State),
    Ready h s → Gives (readG b) s w0 s1 → Gives (readG c) s1 w1 s2 → swatchOf w0 w1 = some x →
    ∃ t : State, exec (.mcfgSw h sw b c) s = .next (t.retire h) ∧ HasSwatch t sw x ∧
      (∀ i y, i ≠ sw → HasSwatch s2 i y → HasSwatch t i y) ∧ t = { s2 with coreCtx := t.coreCtx } ∧
      x.base = (w0.extractLsb' 0 23).toNat ∧ x.fmt = w0.extractLsb' 24 3 ∧ x.pitch = (w0.extractLsb' 32 16).toNat) ∧
  (∀ (h : Hdr) (clr : Bool) (a : GQ) (s s1 : State), Ready h s → Gives (writeG a (s.coreAt s.cctx s.ccore).status) s () s1 →
    ∃ t : State, exec (.mcfgSt h clr a) s = .next (t.retire h) ∧ t.act = s1.act ∧ t = { s1 with coreCtx := t.coreCtx } ∧
      t.coreAt s.cctx s.ccore = if clr then { s.coreAt s.cctx s.ccore with mflg := 0, err := false } else s.coreAt s.cctx s.ccore) ∧
  (∀ (h : Hdr) (s : State), Ready h s →
    let parked (n : Nat) (info : Word) : Out := .next (s.park { code := 0x0015, reason := n, info })
    (∀ acc sw, (∀ x, ¬HasSwatch s sw x) → exec (.mload h acc sw) s = parked 1 0 ∧ (∀ rm, exec (.mstore h rm sw acc) s = parked 1 0) ∧
      ∀ k swB, exec (.mma h acc (.imm k) sw swB) s = parked 1 0) ∧
    (∀ acc sw x, HasSwatch s sw x → x.fmt = 6 ∨ x.fmt = 7 → exec (.mload h acc sw) s = parked 2 0 ∧
      ∀ rm, exec (.mstore h rm sw acc) s = parked 2 0) ∧
    (∀ acc sw x, HasSwatch s sw x → x.fmt ≠ 6 → x.fmt ≠ 7 → ¬InTile (x.regions 64) → exec (.mload h acc sw) s = parked 4 0x600000) ∧
    (∀ acc k swA swB a b, HasSwatch s swA a → HasSwatch s swB b →
      (a.fmt ≠ b.fmt → exec (.mma h acc (.imm k) swA swB) s = parked 2 0) ∧
      (a.fmt = b.fmt → a.fmt.toNat ≤ 1 → k.toNat < 32 ∨ 65536 < k.toNat ∨ k.toNat % 32 ≠ 0 →
        exec (.mma h acc (.imm k) swA swB) s = parked 3 (BitVec.ofNat 64 (k.toNat % 2 ^ 17)))) ∧
    (∀ swD swS d x, HasSwatch s swD d → HasSwatch s swS x → d.fmt = x.fmt → x.fmt.toNat ≤ 2 →
      InTile (d.regions 64 ++ x.regions 64) → (∃ r ∈ d.regions 64, ∃ q ∈ x.regions 64, r.1 ≤ q.2 ∧ q.1 ≤ r.2) →
      exec (.mxpose h swD swS) s = parked 5 0) ∧
    (∀ sw b c w0 w1 s1 s2, Gives (readG b) s w0 s1 → Gives (readG c) s1 w1 s2 → swatchOf w0 w1 = none →
      exec (.mcfgSw h sw b c) s = parked 7 0))

/-- R217, R268, R271-R273: COPY, GATHER and CKPT put a command into the queue of their engine and give its number; COPY and GATHER whose
descriptor or shape R271 turns away park with 0x0018, whose INFO is a free value (DESIGN CHOICE, notes/assumptions/7.md). -/
def Obligations.EngineCommands : Prop :=
  (∀ (gth : Bool) (i : BitVec 5) (mk : EngCmd → EngCmd) (s : State),
    let k := s.coreAt s.cctx s.ccore
    let q := if gth then 2 else 1
    let n := (k.tlcAt q).assigned + 1
    (k.engQ gth).length < 16 → (∀ e, (mk e).n = e.n) →
    ∃ (t : State) (e : EngCmd), Gives (enterCmd gth (.g i) mk) s () t ∧
      (t.coreAt s.cctx s.ccore).engQ gth = k.engQ gth ++ [e] ∧ e.n = n ∧ e.owner = (mk (s.newCmd n)).owner ∧
      e.src = (mk (s.newCmd n)).src ∧ e.dst = (mk (s.newCmd n)).dst ∧ e.x = (mk (s.newCmd n)).x ∧ e.y = (mk (s.newCmd n)).y ∧
      e.z = (mk (s.newCmd n)).z ∧ e.leave = decide (e.total ≤ 65536) ∧
      ((t.coreAt s.cctx s.ccore).tlcAt q).assigned = n ∧
      (∀ j : BitVec 5, t.act.getG j = if j = i ∧ i ≠ 0 then BitVec.ofNat 64 n else s.act.getG j) ∧ t.mem = s.mem) ∧
  (∀ (h : Hdr) (a b : GQ) (cb : Option (BitVec 3)) (x : Word) (d : List Byte) (s s1 s2 s3 : State),
    Ready h s → Gives (readG b) s x s1 → Gives (roomG a) s1 () s1 → s1.descPlace x.toNat 64 = true →
    Gives (loadM x 64 false) s1 d s2 → copyCause d (cb.map fun n => s2.cbufAt s2.cctx s2.ccl n) = none →
    Gives (enterCmd false a fun e => { e with
      src := descWord d 0, dst := descWord d 8, x := fieldLE d 16 4, y := fieldLE d 20 4, z := fieldLE d 24 4,
      sys := descWord d 32, szs := descWord d 40, dys := descWord d 48, dzs := descWord d 56,
      cb := cb.map fun n => (n, none) }) s2 () s3 →
    exec (.copy h a b cb) s = .next (s3.retire h)) ∧
  (∀ (h : Hdr) (sc : Bool) (a b : GQ) (x : Word) (d : List Byte) (s s1 s2 s3 : State),
    Ready h s → Gives (readG b) s x s1 → Gives (roomG a) s1 () s1 → s1.descPlace x.toNat 64 = true →
    Gives (loadM x 64 false) s1 d s2 → gatherCause d sc = none →
    Gives (enterCmd true a fun e => { e with
      src := descWord d 0, dst := descWord d 8, x := fieldLE d 16 4, y := fieldLE d 20 4, sys := descWord d 32,
      dys := descWord d 40, idx := some (descWord d 24, sc) }) s2 () s3 →
    exec (.gather h sc a b) s = .next (s3.retire h)) ∧
  (∀ (h : Hdr) (ts : Bool) (a b : GQ) (x : Word) (s s1 s2 : State),
    let u := if ts then s1.modCl s1.cctx s1.ccl fun k => { k with dirty := 0 } else s1.cleanClm s1.cctx s1.ccore
    Ready h s → s.isPriv = true → Gives (readG b) s x s1 → Gives (roomG a) s1 () s1 → x.getLsbD 55 = false →
    x.toNat % 4096 = 0 →
    Gives (enterCmd false a fun e => { e with dst := x, ckpt := some (ts,
      if ts then onesOf (s1.clAt s1.cctx s1.ccl).dirty else onesOf (s1.dirtyBlocks s1.cctx s1.ccore)) }) u () s2 →
    exec (.ckpt h ts a b) s = .next (s2.retire h) ∧
      (if ts then (u.clAt s.cctx s.ccl).dirty = 0
        else (u.coreAt s.cctx s.ccore).dirty = 0 ∧
          ∀ i v, s1.actAt { ctx := s.cctx, core := s.ccore, slot := i } = some v →
            u.actAt { ctx := s.cctx, core := s.ccore, slot := i } = some { v with dirtyWs := 0 }) ∧ u.mem = s1.mem) ∧
  (∀ (h : Hdr) (a b : GQ) (x : Word) (s s1 : State), Ready h s → Gives (readG b) s x s1 → Gives (roomG a) s1 () s1 →
    let parked (n : Nat) : Out := .next (s.park { code := 0x0018, reason := n, openInfo := true })
    (s1.descPlace x.toNat 64 = false → (∀ cb, exec (.copy h a b cb) s = parked 1) ∧ ∀ sc, exec (.gather h sc a b) s = parked 1) ∧
    (∀ d s2 n, s1.descPlace x.toNat 64 = true → Gives (loadM x 64 false) s1 d s2 →
      (∀ cb : Option (BitVec 3), copyCause d (cb.map fun k => s2.cbufAt s2.cctx s2.ccl k) = some n →
        exec (.copy h a b cb) s = parked n) ∧
      ∀ sc, gatherCause d sc = some n → exec (.gather h sc a b) s = parked n)) ∧
  (∀ (d : List Byte) (n : Nat), (copyCause d none = some n → n = 2 ∨ n = 3 ∨ n = 4) ∧
    (∀ sc, gatherCause d sc = some n → n = 2 ∨ n = 3 ∨ n = 4 ∨ n = 6) ∧
    (fieldLE d 16 4 < 1 ∨ 16777216 < fieldLE d 16 4 → ∀ cb, copyCause d cb = some 2) ∧
    (fieldLE d 16 4 < 1 ∨ 65536 < fieldLE d 16 4 → ∀ sc, gatherCause d sc = some 2))

/-- R271, R274-R281: circular buffers, timeline counters and barriers; what R271 turns away parks with 0x0018, whose INFO is a free
value (DESIGN CHOICE, notes/assumptions/7.md). -/
def Obligations.Synchronisation : Prop :=
  (∀ (h : Hdr) (cb : BitVec 3) (b c : GQ) (base w : Word) (s s1 s2 : State),
    let slot := (w.extractLsb' 0 21).toNat
    let cnt := (w.extractLsb' 32 7).toNat
    Ready h s → Gives (readG b) s base s1 → Gives (readG c) s1 w s2 → base.toNat ≤ 0x5FFFFF → base.toNat % 128 = 0 →
    w &&& ~~~0x7F001FFFFF = 0 → slot % 128 = 0 → 128 ≤ slot → slot ≤ 1048576 → 1 ≤ cnt → cnt ≤ 64 →
    base.toNat + cnt * slot ≤ 0x600000 → s2.cbBusy s2.cctx s2.ccl cb = false →
    ∃ t : State, exec (.cbinit h cb b c) s = .next (t.retire h) ∧ t.cbufAt s.cctx s.ccl cb =
        some { base := base.toNat, slot, cnt, head := 0, tail := 0, free := cnt, fill := 0, resv := [] } ∧
      t = { s2 with clCtx := t.clCtx }) ∧
  (∀ (h : Hdr) (a : GQ) (cb : BitVec 3) (c : Option GQ) (i : Nat) (x : CBuf) (s s1 : State),
    Ready h s → (match c with | none => i = 0 ∧ s1 = s | some q => ∃ w, Gives (readG q) s w s1 ∧ i = w.toNat) →
    Gives (firstPush a) s1 () s1 → s1.cbufAt s1.cctx s1.ccl cb = some x → i < x.cnt →
    ∃ t, exec (.cbwait h a cb c) s = .next t ∧ (t.act.str s.cur.stream).wait = .cbwait a cb i ∧
      (t.act.str s.cur.stream).pc = s.pc ∧ t.act.g = s.act.g ∧ t.mem = s.mem) ∧
  (∀ (h : Hdr) (cb : BitVec 3) (k : BitVec 32) (x : CBuf) (s : State),
    Ready h s → (∀ p ∈ s.act.checks, p.stream = s.cur.stream → ∀ b ∈ p.bytes, tileOffset b.1 = none) →
    s.cbufAt s.cctx s.ccl cb = some x → k.toNat ≤ x.fill →
    ∃ t : State, exec (.cbrel h cb k) s = .next (t.retire h) ∧ t.cbufAt s.cctx s.ccl cb =
        some { x with fill := x.fill - k.toNat, head := (x.head + k.toNat) % x.cnt, free := x.free + k.toNat } ∧
      t.act = s.act ∧ t.mem = s.mem) ∧
  (∀ (h : Hdr) (q : BitVec 2) (src : WaitSrc) (n : Nat) (s s1 : State),
    Ready h s → (match src with | .imm x => n = x.toNat ∧ s1 = s | .reg c => ∃ w, Gives (readG c) s w s1 ∧ n = w.toNat) →
    (n ≤ ((s.coreAt s.cctx s.ccore).tlcAt q.toNat).present → exec (.waitc h q src) s = .next (s1.retire h)) ∧
    (((s.coreAt s.cctx s.ccore).tlcAt q.toNat).present < n →
      ∃ t, exec (.waitc h q src) s = .next t ∧ (t.act.str s.cur.stream).wait = .waitc q n ∧
        (t.act.str s.cur.stream).pc = s.pc ∧ t.act.g = s.act.g ∧ t.mem = s.mem)) ∧
  (∀ (h : Hdr) (f : ReadcForm) (a : GQ) (q : BitVec 2) (s t : State),
    let x := (s.coreAt s.cctx s.ccore).tlcAt q.toNat
    Ready h s → Gives (writeG a (BitVec.ofNat 64 (match f with
      | .assigned => x.assigned | .present => x.present | .failed => x.failed))) s () t →
    exec (.readc h f a q) s = .next (t.retire h)) ∧
  (∀ (h : Hdr) (bar : BitVec 2) (b : GQ) (w : Word) (k : Barrier) (s s1 : State),
    Ready h s → Gives (readG b) s w s1 → (s1.clAt s1.cctx s1.ccl).barriers[bar.toNat]? = some k → 1 ≤ w.toNat → w.toNat ≤ 64 →
    k.holders = [] ∨ k.expect = w.toNat →
    (∀ p ∈ s1.act.checks, p.stream = s1.cur.stream → ∀ x ∈ p.bytes, x.1 < 2 ^ 55) →
    ∃ t, exec (.cbar h bar b) s = .next t ∧ (t.act.str s.cur.stream).wait = .barrier bar ∧
      (t.act.str s.cur.stream).pc = s.pc ∧ t.act.g = s.act.g ∧ t.mem = s.mem ∧
      (w.toNat ≤ k.holders.length + 1 → (s.cycle + 6, Instr.barrierRelease s.cctx s.ccl bar) ∈ t.agenda ∧
        (t.clAt s.cctx s.ccl).barriers[bar.toNat]? = some
          { expect := 0, holders := []
            opening := k.opening ++ (k.holders ++ [(s.cur.sid, s.cur.stream)]).map fun x => (s.cycle + 6, x) }) ∧
      (k.holders.length + 1 < w.toNat → (t.clAt s.cctx s.ccl).barriers[bar.toNat]? =
        some { k with expect := w.toNat, holders := k.holders ++ [(s.cur.sid, s.cur.stream)] })) ∧
  (∀ (h : Hdr) (b : GQ) (w : Word) (s s1 : State), Ready h s → Gives (readG b) s w s1 →
    let parked (n : Nat) : Out := .next (s.park { code := 0x0018, reason := n, openInfo := true })
    (∀ bar k, (s1.clAt s1.cctx s1.ccl).barriers[bar.toNat]? = some k →
      w.toNat < 1 ∨ 64 < w.toNat ∨ (k.holders ≠ [] ∧ k.expect ≠ w.toNat) → exec (.cbar h bar b) s = parked 8) ∧
    (∀ cb c w1 s2, Gives (readG c) s1 w1 s2 → 0x5FFFFF < w.toNat ∨ w.toNat % 128 ≠ 0 ∨ s2.cbBusy s2.cctx s2.ccl cb = true →
      exec (.cbinit h cb b c) s = parked 7) ∧
    (∀ a cb x, Gives (firstPush a) s1 () s1 → s1.cbufAt s1.cctx s1.ccl cb = some x → x.cnt ≤ w.toNat → exec (.cbwait h a cb (some b)) s = parked 9)) ∧
  (∀ (h : Hdr) (cb : BitVec 3) (k : BitVec 32) (s : State), Ready h s →
    (∀ p ∈ s.act.checks, p.stream = s.cur.stream → ∀ b ∈ p.bytes, tileOffset b.1 = none) →
    s.cbufAt s.cctx s.ccl cb = none ∨ (∃ x, s.cbufAt s.cctx s.ccl cb = some x ∧ x.fill < k.toNat) →
    exec (.cbrel h cb k) s = .next (s.park { code := 0x0018, reason := 7, openInfo := true }))

/-- R325, R326: GSUB submits and is held until the answer, which it then writes; GSIG adds to an event counter and GSIG.set sets
it. That on a copy under lockstitch GSUB submits nothing and GSIG and GSIG.set change no counter is the model's reading of R350
(DEDUCED, notes/assumptions/32.md). A descriptor that R325 turns away parks with 0x001C, whose INFO is a free value (DESIGN CHOICE,
notes/assumptions/7.md). -/
def Obligations.GraphInstructions : Prop :=
  (∀ (h : Hdr) (a b : GQ) (x : Word) (d : List Byte) (s s1 s2 s3 : State),
    Ready h s → (s.act.str s.cur.stream).answer = none → s.isCopy = false → Gives (readG b) s x s1 → Gives (roomG a) s1 () s1 →
    s1.descPlace x.toNat 192 = true → Gives (loadM x 192 false) s1 d s2 → s2.submitCause s2.cctx d = none →
    Gives commitM s2 () s3 → s3.isCopy = false →
    ∃ t, exec (.gsub h a b) s = .next t ∧ (t.act.str s.cur.stream).wait = .gsub a ∧ (t.act.str s.cur.stream).pc = s3.pc ∧
      (s3.cycle + 1, Instr.nodeAccept s3.cctx d s3.returnAad s3.ccl s3.cur.dom (s3.act.openWindows s3.cur.dom)
        (.stream s3.cur.sid s3.cur.stream)) ∈ t.agenda ∧ t.act.g = s3.act.g ∧ t.mem = s3.mem) ∧
  (∀ (h : Hdr) (a b : GQ) (x : Word) (d : List Byte) (s s1 s2 s3 : State),
    Ready h s → (s.act.str s.cur.stream).answer = none → s.isCopy = true → Gives (readG b) s x s1 → Gives (roomG a) s1 () s1 →
    s1.descPlace x.toNat 192 = true → Gives (loadM x 192 false) s1 d s2 → s2.submitCause s2.cctx d = none →
    Gives commitM s2 () s3 → s3.isCopy = true →
    ∃ t, exec (.gsub h a b) s = .next t ∧ (t.act.str s.cur.stream).wait = .gsub a ∧ (t.act.str s.cur.stream).pc = s3.pc ∧
      t.agenda = s3.agenda ∧ t.act.g = s3.act.g ∧ t.mem = s3.mem) ∧
  (∀ (h : Hdr) (a b : GQ) (x : Word) (s s1 : State), Ready h s → (s.act.str s.cur.stream).answer = none →
    Gives (readG b) s x s1 → Gives (roomG a) s1 () s1 →
    let parked (n : Nat) : Out := .next (s.park { code := 0x001C, reason := n, openInfo := true })
    (s1.descPlace x.toNat 192 = false → exec (.gsub h a b) s = parked 1) ∧
    (∀ d s2, s1.descPlace x.toNat 192 = true → Gives (loadM x 192 false) s1 d s2 →
      (∀ n, s2.submitCause s2.cctx d = some n → exec (.gsub h a b) s = parked n) ∧ (3 < fieldLE d 0 1 → s2.submitCause s2.cctx d = some 2))) ∧
  (∀ (h : Hdr) (a b : GQ) (v : Word) (s t : State), (s.act.str s.cur.stream).answer = some v → Gives (writeG a v) s () t →
    exec (.gsub h a b) s = .next (t.goTo (nextPc s.pc) .transfer (s.act.str s.cur.stream).issuedAt)) ∧
  (∀ (h : Hdr) (e : EvSrc) (n : AddSrc) (i : Nat) (v : Word) (s s1 s2 s3 : State),
    Ready h s → (match e with | .imm x => i = x.toNat ∧ s1 = s | .reg b => ∃ w, Gives (readG b) s w s1 ∧ i = w.toNat % 256) →
    i < 256 → (match n with | .imm x => v = x.setWidth 64 ∧ s2 = s1 | .reg c => Gives (readG c) s1 v s2) →
    Gives commitM s2 () s3 →
    ∃ t : State, exec (.gsig h e n) s = .next (t.retire h) ∧ t.mem = s3.mem ∧ t.act = s3.act ∧
      ∀ j : Nat, (t.ctxAt s3.cctx).events[j]? =
        ((s3.ctxAt s3.cctx).events[j]?).map fun y => if j = i ∧ s3.isCopy = false then y + v else y) ∧
  (∀ (h : Hdr) (e : EvSrc) (c : GQ) (i : Nat) (v : Word) (s s1 s2 s3 : State),
    Ready h s → s.isPriv = true →
    (match e with | .imm x => i = x.toNat ∧ s1 = s | .reg b => ∃ w, Gives (readG b) s w s1 ∧ i = w.toNat % 256) →
    i < 256 → Gives (readG c) s1 v s2 → Gives commitM s2 () s3 →
    ∃ t : State, exec (.gsigSet h e c) s = .next (t.retire h) ∧ t.mem = s3.mem ∧ t.act = s3.act ∧
      ∀ j : Nat, (t.ctxAt s3.cctx).events[j]? =
        ((s3.ctxAt s3.cctx).events[j]?).map fun y => if j = i ∧ s3.isCopy = false then v else y)

/-! ## System instructions -/

/-- R21-R24, R155, R167, R210, R218, R223, R251: SRD reads a special register and SWR writes it; a register marked RWP needs a
privileged activation, and a write to a register marked RO has no effect. -/
def Obligations.SpecialRegisters : Prop :=
  (∀ (h : Hdr) (a : GQ) (r : SReg) (s t : State), Ready h s → sregPriv r = false ∨ s.isPriv = true →
    Gives (writeG a (s.sreg r)) s () t → exec (.srd h a r) s = .next (t.retire h)) ∧
  (∀ s : State, s.sreg .wsp = BitVec.ofNat 64 (2 ^ 55 + 4096 * s.cur.sid.slot) ∧
    (∀ a, s.cactor? = some a → s.sreg .aid = a.aid.setWidth 64) ∧ s.sreg .aad = (aadOf s.idCore s.act.mbx).setWidth 64 ∧
    s.sreg .dom = s.cur.dom.setWidth 64 ∧ s.sreg .flg = s.act.flg.setWidth 64 ∧ s.sreg .fen = s.act.fen.setWidth 64 ∧
    s.sreg .rnd = s.act.rnd.setWidth 64 ∧ s.sreg .cyc = BitVec.ofNat 64 s.cycle ∧ s.sreg .reft = BitVec.ofNat 64 s.refTicks ∧
    s.sreg .hused = BitVec.ofNat 64 (s.act.hused % 2 ^ 32) ∧ s.sreg .svb = BitVec.ofNat 64 (s.ctxAt s.cctx).svb ∧
    s.sreg .svl = BitVec.ofNat 64 (s.ctxAt s.cctx).svl ∧ s.sreg .mlen = (s.ctxAt s.cctx).mlen.setWidth 64 ∧
    s.sreg .hbud = (s.ctxAt s.cctx).hbud.setWidth 64 ∧ s.sreg .logp = (s.hwAt s.ccore).logp ∧
    s.sreg .sfqh = (s.ctxAt s.cctx).sfqh ∧ s.sreg .mqw = (s.clHwAt s.ccl).mqw.setWidth 64 ∧
    s.sreg .supv = (s.ctxAt s.cctx).supv.setWidth 64 ∧ s.sreg .sid = s.sid.setWidth 64) ∧
  (∀ (h : Hdr) (r : SReg) (b : Src2) (v : Word) (s s1 : State), Ready h s → sregPriv r = false → Gives (readSrc2 b) s v s1 →
    exec (.swr h r b) s = .next ((match r with
      | .flg => s1.modAct fun a => { a with flg := v.setWidth 5 }
      | .fen => s1.modAct fun a => { a with fen := v.setWidth 5 }
      | .rnd => s1.modAct fun a => { a with rnd := v.setWidth 2 }
      | _ => s1).retire h)) ∧
  (∀ (h : Hdr) (b : Src2) (v : Word) (s s1 : State), Ready h s → s.isPriv = true → Gives (readSrc2 b) s v s1 →
    exec (.swrSupv h b) s = .next ((s1.modCtx s1.cctx fun x =>
      { x with supv := if v.getLsbD 31 then v.setWidth 32 else 0 }).retire h) ∧
    exec (.swrSfqh h b) s = .next ((if v.extractLsb' 55 9 = 0 ∧ v.extractLsb' 0 5 = 0
      then s1.modCtx s1.cctx fun x => { x with sfqh := v, sfqhDom := s1.cur.dom } else s1).retire h) ∧
    exec (.swrHbud h b) s = .next ((s1.modCtx s1.cctx fun x =>
      { x with hbud := BitVec.ofNat 19 (max 1024 (min 262144 (v.toNat % 2 ^ 19))) }).retire h) ∧
    exec (.swrMlen h b) s = .next ((if 1 ≤ v.toNat % 8 ∧ v.toNat % 8 ≤ 4
      then s1.modCtx s1.cctx fun x => { x with mlen := v.setWidth 3 } else s1).retire h) ∧
    exec (.swrMqw h b) s = .next ((s1.modClHw s1.ccl fun k => { k with mqw := v.setWidth 32 }).retire h) ∧
    (∃ t : State, exec (.swrLogp h b) s = .next (t.retire h) ∧ t.act = s1.act ∧
      (t.hwAt s.ccore).logp = if v.toNat % 16 ≤ 8 then v &&& 0x00FFFFFFFFFFF00F else (s1.hwAt s.ccore).logp))

/-- R40, R41, R156, R192, R197, R334, R343: TRAP and BRK complete and then park. Parking keeps the activation's registers and sends
notice CODE, whose payload R41 lays out, to the supervisor; with no supervisor, or to itself, it goes to Pelson, which terminates the
context as it arrives. A stream that has completed no instruction keeps HDOM as its from-domain, and the instruction is fetched again
after the park. -/
def Obligations.TrapsPark : Prop :=
  (∀ (h : Hdr) (code : BitVec 16) (s : State), Ready h s →
    exec (.trap h code) s = .next ((s.retire h).parkAt s.pc { code := 0x000A, info := code.setWidth 64 }) ∧
    exec (.brk h code) s = .next ((s.retire h).parkAt s.pc { code := 0x000B, info := code.setWidth 64, toDebug := true })) ∧
  (∀ (s : State) (ipc : Word) (code reason : Nat) (info : Word) (x : Actor), s.seam? = none → s.cactor? = some x →
    (s.ctxAt s.cctx).supv ≠ 0 → s.ownsSupv s.cctx s.ccore s.act.actor = false →
    s.parkAt ipc { code, reason, info } = (s.setAct (s.act.parked x.hdom)).inject s.cctx s.ccore
      { dst := (s.ctxAt s.cctx).supv, cls := 14, src := aadOf s.ccore s.act.mbx
        payload := bytesLE 2 code ++ bytesLE 1 reason ++
          bytesLE 1 (s.cur.sid.slot % 8 + (match s.cur.stream with | .main => 0 | .access => 8)) ++ bytesLE 1 s.cur.dom.toNat ++
          bytesLE 3 0 ++ bytesLE 6 x.aid.toNat ++ bytesLE 2 0 ++ bytesLE 8 ipc.toNat ++ bytesLE 12 s.cur.word.toNat ++
          bytesLE 4 0 ++ bytesLE 8 info.toNat }) ∧
  (∀ (s : State) (ipc : Word) (code reason : Nat) (info : Word) (x : Actor), s.seam? = none → s.cactor? = some x →
    (s.ctxAt s.cctx).supv = 0 ∨ s.ownsSupv s.cctx s.ccore s.act.actor = true →
    s.parkAt ipc { code, reason, info } = (s.setAct (s.act.parked x.hdom)).tellPelson s.cctx s.ccore
      { dst := 0, cls := 14, src := aadOf s.ccore s.act.mbx
        payload := noticeBytes code reason (slotByte s.cur.sid.slot s.cur.stream) s.cur.dom x.aid ipc s.cur.word info } .terminate) ∧
  (∀ (c core : Nat) (m : Msg) (use : PelsonUse) (s : State), nodeOf core < 512 → s.tellPelson c core m use =
    let d := (s.ctxAt c).meshDelay (nodeOf core) (s.ctxAt c).svb + 24
    { s with agenda := insertEvent (s.cycle + d) (.messageArrival c { m with use := some use }) s.agenda }) ∧
  (∀ (c : Nat) (m : Msg) (s : State), m.use = some .terminate → s.update = none →
    ∃ t, exec (.messageArrival c m) s = .next t ∧ (t.ctxAt c).terminated = true ∧ (t.ctxAt c).running = false ∧
      (∀ k ∈ t.acts, k.1.ctx ≠ c) ∧ t.pelson = (c, m) :: s.pelson) ∧
  (∀ (s : State) (n : Notice), n.pages = [] → s.park n = (s.parkAt s.pc n).issueCycle false) ∧
  (∀ (s : State) (n : Notice), s.park n = ((s.touchAll s.cctx s.ccore n.pages).parkAt s.pc n).issueCycle false) ∧
  (∀ (a : Act) (d : BitVec 6), (a.parked d).park = true ∧ (a.parked d).g = a.g ∧ ∀ y : Stream,
    (a.parked d).str y = { a.str y with
      fetched := none, refused := none, given := none, skip := [], fromDom := if (a.str y).fresh then d else (a.str y).fromDom })

/-- R157-R159, R181, R231: WINMAP, RESUME and KILL. A parked stream whose PC is written through the window goes on from there, and no
longer waits at the instruction it was held at. That a WINMAP which finds no parked activation closes the window the issuer has is the
model's choice (DEDUCED, notes/assumptions/50.md), and so is that under lockstitch a WINMAP maps the copy and RESUME continues it
(DEDUCED, 32.md) and what a written PC ends (DEDUCED, 80.md). -/
def Obligations.OtherActivations : Prop :=
  (∀ (b c : GQ) (w x : Word) (s s1 s2 : State), s.isPriv = true ∨ s.ownsSupv s.cctx s.idCore s.act.actor = true →
    Gives (readG b) s w s1 → Gives (readG c) s1 x s2 → aadOk w = true →
    (s2.ctxAt s2.cctx).mayReach (nodeOf (aadCore (w.setWidth 32))) = true →
    Gives (targetM b c) s (w.setWidth 32, x.toNat % 8) s2) ∧
  (∀ (body : M Word) (s : State), s.seam? = none → (seamOnce body).run s = body.run s) ∧
  (∀ (h : Hdr) (a b c : GQ) (d : BitVec 32) (slot : Nat) (v : Word) (s s1 s2 s3 : State),
    let found (s : State) : Option SlotId := s.parkedAt d slot
    let tgt : SlotId := { ctx := s2.cctx, core := aadCore d, slot }
    let to_ : Option SlotId := if v = 0 then none else some (if s2.isCopy then (s2.copyOf tgt).getD tgt else tgt)
    Ready h s → Gives (targetM b c) s (d, slot) s1 →
    Gives (seamOnce (asks fun s => if (found s).isSome then 0x0080000020000000 else 0)) s1 v s2 →
    Gives (writeG a v) (s2.modAct fun x => { x with win := to_ }) () s3 →
    exec (.winmap h a b c) s = .next (s3.retire h)) ∧
  (∀ (h : Hdr) (a b c : GQ) (d : BitVec 32) (slot : Nat) (v : Word) (s s1 s2 s3 : State),
    Ready h s → Gives (targetM b c) s (d, slot) s1 →
    Gives (seamOnce (changeGet fun s => match s.parkedAt d slot with
      | some t => (1, match s.copyOf t with | some u => (s.resumeOne t).resumeOne u | none => s.resumeOne t)
      | none => (0, s))) s1 v s2 → Gives (writeG a v) s2 () s3 →
    exec (.resume h a b c) s = .next (s3.retire h)) ∧
  (∀ (s : State) (t : SlotId) (a : Act), s.actAt t = some a →
    ∃ a', (s.resumeOne t).actAt t = some a' ∧ a'.park = false ∧ a'.g = a.g ∧ ∀ y : Stream,
      (a'.str y).pc = (a.str y).pc ∧ (a'.str y).fromDom = (a.str y).fromDom ∧ (a'.str y).arrival = (a.str y).arrival ∧
      (a'.str y).skipBp = true ∧ (a'.str y).refused = none) ∧
  (∀ (x : StreamSt) (pc : Word), (x.setPc pc).pc = pc ∧ (x.setPc x.pc) = x ∧
    (pc ≠ x.pc → x.wait ≠ .ended → x.wait ≠ .seam → (x.setPc pc).wait = .ready)) ∧
  (∀ (a : Act) (i : Nat) (b : Byte), i < 8 → (a.winWrite (3392 + i) b).main = a.main.setPc (setByte a.main.pc i b) ∧
    (a.winWrite (3392 + i) b).acc = a.acc ∧ (a.winWrite (3400 + i) b).main = a.main ∧
    (a.winWrite (3400 + i) b).acc = if a.strm then a.acc.setPc (setByte a.acc.pc i b) else a.acc) ∧
  (∀ (h : Hdr) (a b c : GQ) (d : BitVec 32) (slot : Nat) (v : Word) (s s1 s2 s3 : State),
    Ready h s → Gives (targetM b c) s (d, slot) s1 → Gives (roomG a) s1 () s1 →
    Gives (seamOnce (changeGet fun s =>
      let t : SlotId := { ctx := s.cctx, core := aadCore d, slot }
      if (s.actAt t).any (fun x => x.actor == aadActor d) = true ∧ t ≠ s.cur.sid then (1, s.killAll [t]) else (0, s))) s1 v s2 →
    Gives (writeG a v) s2 () s3 → exec (.killAct h a b c) s = .next (s3.retire h)) ∧
  (∀ (h : Hdr) (a b : GQ) (w v : Word) (s s1 s2 s3 : State),
    Ready h s → s.isPriv = true ∨ s.ownsSupv s.cctx s.idCore s.act.actor = true → Gives (readG b) s w s1 → aadOk w = true →
    (s1.ctxAt s1.cctx).mayReach (nodeOf (aadCore (w.setWidth 32))) = true → Gives (roomG a) s1 () s1 →
    Gives (seamOnce (changeGet fun s => s.killActors (s.actorsWith fun k _ =>
      k == (aadCore (w.setWidth 32), aadActor (w.setWidth 32))))) s1 v s2 →
    Gives (writeG a v) s2 () s3 → exec (.killActor h a b) s = .next (s3.retire h)) ∧
  (∀ (h : Hdr) (a b : GQ) (w v : Word) (s s1 s2 s3 : State),
    Ready h s → s.isPriv = true ∨ s.ownsSupv s.cctx s.idCore s.act.actor = true → Gives (readG b) s w s1 →
    Gives (roomG a) s1 () s1 →
    Gives (seamOnce (changeGet fun s => s.killActors (s.actorsWith fun _ x => x.group.setWidth 64 == w))) s1 v s2 →
    Gives (writeG a v) s2 () s3 → exec (.killGrp h a b) s = .next (s3.retire h)) ∧
  (∀ (s : State) (t : SlotId) (a : Act), s.actAt t = some a → (s.killOne t).actAt t = none ∧
    (a.tack = [] → (∀ x, s.actorAt t.ctx t.core a.actor = some x → x.dying = false) → (s.killOne t).mem = s.mem))

/-- R224, R232, R233, R312: TLBINV waits for the walks in progress for its pages, at .pkg also until every store checked under the entries
has completed its check, and drops translations; LOGMARK writes a mark; CSTOP and CSTOP.go send their packet to every cluster of an
interval and wait for the acknowledgements. On general registers and constants each completes under conditions on the state and the
operands alone. -/
def Obligations.SystemOthers : Prop :=
  (∀ (h : Hdr) (sc : Scope) (b : BitVec 5) (s : State), Ready h s → s.isPriv = true →
    let a := s.act.getG b
    (a.getLsbD 55 = true → exec (.tlbinvPage h sc (.g b)) s = .next (s.retire h)) ∧
    (a.getLsbD 55 = false → (∀ cl ∈ s.tlbClusters sc, ¬ WalkInWay s cl (some a.toNat)) →
      (sc = .pkg → s.checksLeft (some a.toNat) = false) →
      ∃ t : State, exec (.tlbinvPage h sc (.g b)) s = .next (t.retire h) ∧ TlbDropped s t sc (some a.toNat))) ∧
  (∀ (h : Hdr) (sc : Scope) (s : State), Ready h s → s.isPriv = true → (∀ cl ∈ s.tlbClusters sc, ¬ WalkInWay s cl none) →
    (sc = .pkg → s.checksLeft none = false) →
    ∃ t : State, exec (.tlbinvAll h sc) s = .next (t.retire h) ∧ TlbDropped s t sc none) ∧
  (∀ (h : Hdr) (sc : Scope) (b : GQ) (a : Word) (s s1 s2 : State), Ready h s → s.isPriv = true → Gives (readG b) s a s1 →
    (if a.getLsbD 55 then s2 = s1 else Gives (tlbinvM sc (some a.toNat)) s1 () s2) →
    exec (.tlbinvPage h sc b) s = .next (s2.retire h)) ∧
  (∀ (h : Hdr) (sc : Scope) (b : GQ) (a : Word) (cl : Nat) (s s1 : State), Ready h s → s.isPriv = true → Gives (readG b) s a s1 →
    a.getLsbD 55 = false → cl ∈ s1.tlbClusters sc → WalkInWay s1 cl (some a.toNat) →
    exec (.tlbinvPage h sc b) s = .next (s.hold 3)) ∧
  (∀ (h : Hdr) (sc : Scope) (cl : Nat) (s : State), Ready h s → s.isPriv = true → cl ∈ s.tlbClusters sc → WalkInWay s cl none →
    exec (.tlbinvAll h sc) s = .next (s.hold 3)) ∧
  (∀ (h : Hdr) (b : GQ) (a : Word) (s s1 : State), Ready h s → s.isPriv = true → Gives (readG b) s a s1 → a.getLsbD 55 = false →
    CheckInWay s1 (some a.toNat) → exec (.tlbinvPage h .pkg b) s = .next (s.hold 3)) ∧
  (∀ (h : Hdr) (s : State), Ready h s → s.isPriv = true → CheckInWay s none → exec (.tlbinvAll h .pkg) s = .next (s.hold 3)) ∧
  (∀ (va : Option Nat) (s : State), (∀ k ∈ s.acts, k.1.ctx = s.cctx → ∀ p ∈ k.2.checks, p.held = true ∨ p.waits ≠ none) →
    s.checksLeft va = false) ∧
  (∀ (sc : Scope) (va : Option Nat) (s : State), (∀ cl ∈ s.tlbClusters sc, ¬ WalkInWay s cl va) →
    (sc = .pkg → s.checksLeft va = false) → ∃ t, Gives (tlbinvM sc va) s () t ∧ TlbDropped s t sc va) ∧
  (∀ (h : Hdr) (f : Bool) (v : MarkSrc) (n : Nat) (s : State), Ready h s →
    (match v with | .imm x => n = x.toNat | .reg (.g b) => n = (s.act.getG b).toNat % 2 ^ 24 | .reg (.q _) => False) →
    ∃ t : State, exec (.logmark h f v) s = .next (t.retire h) ∧
      (f = false → t = s.pushRecord s.ccore (logRecord (s.hwAt s.ccore).span.1 62 n)) ∧
      (f = true → t = (s.pushRecord s.ccore (logRecord (s.hwAt s.ccore).span.1 62 n)).drainAll s.ccore)) ∧
  (∀ (h : Hdr) (f : Bool) (v : MarkSrc) (n : Nat) (s s1 : State), Ready h s →
    (match v with | .imm x => n = x.toNat ∧ s1 = s | .reg b => ∃ w, Gives (readG b) s w s1 ∧ n = w.toNat % 2 ^ 24) →
    ∃ t : State, exec (.logmark h f v) s = .next (t.retire h) ∧
      (f = false → t = s1.pushRecord s1.ccore (logRecord (s1.hwAt s1.ccore).span.1 62 n)) ∧
      (f = true → t = (s1.pushRecord s1.ccore (logRecord (s1.hwAt s1.ccore).span.1 62 n)).drainAll s1.ccore) ∧
      (f = false → (s1.hwAt s1.ccore).ringBase = 0 → (s1.hwAt s1.ccore).ring.length < 1024 →
        (t.hwAt s1.ccore).ring = (s1.hwAt s1.ccore).ring ++ [logRecord (s1.hwAt s1.ccore).span.1 62 n])) ∧
  (∀ (h : Hdr) (b c : BitVec 5) (s : State), Ready h s → s.isPriv = true → s.isCopy = false →
    let first := (s.act.getG b).toNat
    let n := (s.act.getG c).toNat
    (s.ctxAt s.cctx).svb ≤ first → first + n ≤ (s.ctxAt s.cctx).svb + (s.ctxAt s.cctx).svl →
    (∃ t, exec (.cstop h (.g b) (.g c)) s = .next t ∧ StopSent s s t first n (.stop s.returnAad)) ∧
    (∃ t, exec (.cstopGo h (.g b) (.g c)) s = .next t ∧ StopSent s s t first n (.go false))) ∧
  (∀ (h : Hdr) (b c : GQ) (first n : Word) (s s1 s2 : State),
    Ready h s → s.isPriv = true → Gives (readG b) s first s1 → Gives (readG c) s1 n s2 → s2.isCopy = false →
    (s2.ctxAt s2.cctx).svb ≤ first.toNat → first.toNat + n.toNat ≤ (s2.ctxAt s2.cctx).svb + (s2.ctxAt s2.cctx).svl →
    (∃ t, exec (.cstop h b c) s = .next t ∧ StopSent s s2 t first.toNat n.toNat (.stop s2.returnAad)) ∧
    (∃ t, exec (.cstopGo h b c) s = .next t ∧ StopSent s s2 t first.toNat n.toNat (.go false)))

/-! ## Events: descriptors and windows -/

/-- R4, R191, R192, R225, R228, R266, R306, R311, R315, R319, R335, R337, R339, R340, R342, R343, R344, R353, R356: what Pelson and a guest
write into descriptors, registers and windows, and what a guest reads in its windows. That DONE of a frame reads 1 before its first
submission (DESIGN CHOICE, notes/assumptions/72.md), that bits 63:41 of a worker entry are dropped (DESIGN CHOICE, 45.md), that a quota or a
time slice out of its range changes nothing (DESIGN CHOICE, 76.md), that the boot ROM patch and the debug lock are set from outside
(DESIGN CHOICE, 79.md), that a submission of a guest has the cluster SVB and no submitter (DEDUCED, 49.md), and that Pelson writes that
memory is exhausted (DEDUCED, 68.md), are the model's choices. -/
def Obligations.Descriptors : Prop :=
  ∀ s : State,
    (∀ d, exec (.registerWrite d) s = .next (s.writeDesc d)) ∧
    (∀ c a, ((s.writeDesc (.root c a)).ctxAt c).root = a.toNat) ∧
    (∀ (c : Nat) (a b : BitVec 6) (v : BitVec 8) (i : Nat), ((s.writeDesc (.rights c a b v)).ctxAt c).rights[i]? =
      ((s.ctxAt c).rights[i]?).map fun r => if i = 64 * a.toNat + b.toNat then v &&& 0x0F else r) ∧
    (∀ c v, ((s.writeDesc (.grant c v)).ctxAt c).grant = v &&& 0x3FFFF) ∧
    (∀ (c : Nat) (i : BitVec 8) (v : Word), (((s.writeDesc (.worker c i v)).ctxAt c).workers[i.toNat]?).map (·.entry) =
      some (v &&& 0x1FFFFFFFFFF)) ∧
    (∀ c n, 1 ≤ n → n ≤ 4096 → n ≤ s.quotaRoom c (s.ctxAt c).die (s.ctxAt c).svb →
      ((s.writeDesc (.quota c n)).ctxAt c).quota = n) ∧
    (∀ c n, n = 0 ∨ 4096 < n ∨ s.quotaRoom c (s.ctxAt c).die (s.ctxAt c).svb < n → s.writeDesc (.quota c n) = s) ∧
    (∀ c n, 65536 ≤ n → n ≤ 2 ^ 32 → ((s.writeDesc (.slice c n)).ctxAt c).slice = n) ∧
    (∀ c n, n < 65536 ∨ 2 ^ 32 < n → s.writeDesc (.slice c n) = s) ∧
    (∀ c cl b tag, b < 96 → ((s.writeDesc (.tileTag c cl b tag)).clAt c cl).tags[b]? = some tag) ∧
    (∀ (c : Nat) (i : BitVec 4) (n : Word), (((s.writeDesc (.counterCount c i n)).ctxAt c).counters[i.toNat]?).map (·.count) =
      some n) ∧
    (∀ (c : Nat) (on : Bool), ((s.writeDesc (.lockstitch c on)).ctxAt c).lockstitch =
      (on && (s.ctxAt c).svl % 2 == 0 && decide (4 ≤ (s.ctxAt c).svl))) ∧
    (∀ k : BitVec 9, k.toNat ∈ (s.writeDesc (.keyHeld k true)).keysHeld) ∧
    (∀ aad, aad ∈ (s.writeDesc (.boxOwner aad true)).owners ∧ aad ∉ (s.writeDesc (.boxOwner aad false)).owners) ∧
    (∀ c, s.update = none → ((s.writeDesc (.exhausted c)).ctxAt c).terminated = true ∧
      ((s.writeDesc (.exhausted c)).ctxAt c).running = false ∧ ∀ k ∈ (s.writeDesc (.exhausted c)).acts, k.1.ctx ≠ c) ∧
    (∀ (v : Word) (b : Bool), s.writeDesc (.fuses v b) = { s with patch := v, debugLock := s.debugLock || b }) ∧
    (∀ w, (s.writeDesc (.powerCap w)).powerCap = if s.sid.getLsbD 8 then s.powerCap else min w 1900) ∧
    (∀ (a : Nat) (v : Byte) (c : Nat) (x : Ctx), s.ctxs.find? (fun x => x.2.inPart a 1) = some (c, x) →
      s.writeDesc (.memory a v) = s.homeWrite c (s.physKey c a) a false v ∧
      (memOk s → (s.writeDesc (.memory a v)).mem.read a = v)) ∧
    (∀ a v, (∀ x ∈ s.ctxs, x.2.inPart a 1 = false) → (a < 2 ^ 39 → memOk s → ∀ x,
        (s.writeDesc (.memory a v)).mem.read x = if x = a then v else s.mem.read x) ∧
      (2 ^ 39 ≤ a → s.writeDesc (.memory a v) = s)) ∧
    (∀ (c a : Nat) (v : Byte),
      let x := s.ctxAt c
      let p := x.svb * 2 ^ 30 + (a - x.guestBase)
      (a < x.guestBase ∨ x.guestBase + x.guestSize ≤ a ∨ x.inPart p 1 = false → s.writeDesc (.guestByte c a v) = s) ∧
      (x.guestBase ≤ a → a < x.guestBase + x.guestSize → x.inPart p 1 = true →
        s.writeDesc (.guestByte c a v) = s.homeWrite c (s.physKey c p) p false v)) ∧
    (∀ (p : BitVec 4) (c : Option Nat) (job : Nat) (rccc : Bool),
      ((s.writeDesc (.portBind p c job rccc)).ports[p.toNat]?).map (fun x => (x.ctx, x.job, x.rccc, x.digest)) =
        some (c, job, rccc, 0)) ∧
    (∀ (x : Ctx) (i : Nat) (k : Counter), x.counters[i]? = some k →
      (∀ j, j < 2 → x.counterByte (16 * i + j) = byteOf k.event j) ∧
      (x.counterByte (16 * i + 2)).toNat = (if k.en then 1 else 0) + (if k.unav then 2 else 0) + (if k.shared then 4 else 0) +
        (if k.ovf then 8 else 0) ∧
      (∀ j, j < 5 → x.counterByte (16 * i + (3 + j)) = 0) ∧ ∀ j, j < 8 → x.counterByte (16 * i + (8 + j)) = byteOf k.count j) ∧
    (∀ (c : Nat) (l : List Byte), s.update = none →
      let x := (s.recordNotice c l).ctxAt c
      x.noticeOff = (s.ctxAt c).noticeOff + 1 ∧ x.irq1 = (s.ctxAt c).irq1 + 1 ∧ ∀ j, j < 64 →
        x.noticeByte (64 + 64 * ((s.ctxAt c).noticeOff % 63) + j) = if j < 48 then l.getD j 0 else 0) ∧
    (∀ w : SubFrame, (∀ j, j < 192 → w.desc[j]? = some (w.byte j)) ∧
      ∀ j, j < 8 → w.byte (192 + j) = 0 ∧ w.byte (200 + j) = byteOf w.node j ∧ w.byte (208 + j) = byteOf w.stat j) ∧
    (∀ (c : Nat) (n : BitVec 3) (aid : BitVec 48) (flags : BitVec 4) (index : Word),
      ∃ t, exec (.breakpointUpdate c n aid flags index) s = .next t ∧
        (t.ctxAt c).bps[n.toNat]? = some { aid, flags, index } ∧ t = { s with ctxs := t.ctxs }) ∧
    (∀ k : BitVec 9, (∃ x ∈ s.ctxs, k.toNat ∈ x.2.keys) → exec (.keyRetire k) s = .next s) ∧
    (∀ k : BitVec 9, (∀ x ∈ s.ctxs, k.toNat ∉ x.2.keys) → exec (.keyRetire k) s =
      .next { s with keysHeld := s.keysHeld.filter fun j => j ≠ k.toNat }) ∧
    (∀ (c : Nat) (i : BitVec 4) (k : Counter), (s.ctxAt c).counters[i.toNat]? = some k →
      ∃ t, exec (.counterWindowRead c i) s = .next t ∧ t = { s with ctxs := t.ctxs } ∧
        (t.ctxAt c).counters[i.toNat]? = some { k with
          count := BitVec.ofNat 64 (k.count.toNat + k.pending), pending := 0
          ovf := k.ovf || decide (2 ^ 64 ≤ k.count.toNat + k.pending) }) ∧
    (∀ (c : Nat) (f : BitVec 4) (w : SubFrame), (s.ctxAt c).frames[f.toNat]? = some w →
      (w.stat.getLsbD 8 = false → exec (.submitDoorbell c f) s = .next s) ∧
      (∀ n, w.stat.getLsbD 8 = true → s.update = none → s.submitCause c w.desc.toList = some n →
        ∃ t, exec (.submitDoorbell c f) s = .next t ∧ (t.ctxAt c).irq0 = (s.ctxAt c).irq0 + 1 ∧
          (t.ctxAt c).frames[f.toNat]? = some { w with node := 0, stat := BitVec.ofNat 64 (256 + n) }) ∧
      (w.stat.getLsbD 8 = true → s.update ≠ none → ∃ t, exec (.submitDoorbell c f) s = .next t ∧
        (t.ctxAt c).frames[f.toNat]? = some { w with stat := w.stat &&& ~~~256#64 } ∧ t.waiting = s.waiting ++ [.bell c f] ∧
        t.agenda = s.agenda) ∧
      (w.stat.getLsbD 8 = true → s.update = none → s.submitCause c w.desc.toList = none →
        ∃ t, exec (.submitDoorbell c f) s = .next t ∧ (t.ctxAt c).frames[f.toNat]? = some { w with stat := w.stat &&& ~~~256#64 } ∧
        (s.cycle + 1, Instr.nodeAccept c w.desc.toList 0 (s.ctxAt c).svb (s.ctxAt c).guestDom [] (.frame f)) ∈ t.agenda))

/-! ## Events: messages and activations -/

/-- R20, R168-R174, R180, R213, R333, R338, R366, R367, R369: where an arriving message goes, the start of an activation, a bobbin that
drains, a delayed message, and the ring of a mailbox that is recorded. The model's choices among them: the layout of the ring (DESIGN
CHOICE, notes/assumptions/74.md), what a bobbin does whose page does not translate (DESIGN CHOICE, 56.md), that a delayed message is
injected whether or not its context is stopped (61.md), that Pelson restores the next context at once (62.md), and what it does with a
message for a mailbox of the general cores (DESIGN CHOICE, 70.md), and the SRC of a refusal (DESIGN CHOICE, 77.md). -/
def Obligations.Arrivals : Prop :=
  (∀ (c : Nat) (m : Msg) (s : State), m.use = some .take ∨ m.use = some .record → s.update = none →
    ∃ t, exec (.messageArrival c m) s = .next t ∧ t.pelson = (c, m) :: s.pelson ∧ t.acts = s.acts ∧ t.mbxs = s.mbxs ∧
      (t.ctxAt c).noticeOff = (s.ctxAt c).noticeOff + (if m.use = some .record then 1 else 0)) ∧
  (∀ (c : Nat) (m : Msg) (s : State), m.use = some .stopped → s.update = none →
    ∃ t, exec (.messageArrival c m) s = .next t ∧ t.pelson = (c, m) :: s.pelson ∧ t.acts = s.acts ∧
      (t.ctxAt c).running = ((s.ctxAt c).running && !(s.allStopped c && !s.noticesComing c)) ∧
      ((s.ctxAt c).running = true → s.allStopped c = true → s.noticesComing c = false →
        ∀ n, (s.modCtx c fun x => { x with running := false }).nextContext c = some n →
          ∃ d, d ≤ s.cycle ∧ (d, Instr.contextRestore n) ∈ t.agenda)) ∧
  (∀ (c : Nat) (m : Msg) (s : State), m.use = none → s.overtakes c m = false → 528 ≤ nodeOf (aadCore m.dst) →
    (s.update = none → m.dst ∈ s.owners →
      ∃ t, exec (.messageArrival c m) s = .next t ∧ t.pelson = (c, m) :: s.pelson ∧ t.mbxs = s.mbxs ∧ t.acts = s.acts) ∧
    (s.update = none → m.dst ∉ s.owners → m.node = none → m.cls ≠ 15 → m.src.msb = true →
      ∃ t u : State, exec (.messageArrival c m) s = .next t ∧ t = u.inject c (aadCore m.dst) (refusalMsg m 3 m.dst) ∧
        u.mbxs = s.mbxs ∧ u.acts = s.acts ∧ u.pelson = s.pelson) ∧
    (s.update ≠ none → ∃ t, exec (.messageArrival c m) s = .next t ∧ t.waiting = s.waiting ++ [.mail c m] ∧
      t.pelson = s.pelson ∧ t.mbxs = s.mbxs ∧ t.acts = s.acts)) ∧
  (∀ (c : Nat) (m : Msg) (s : State), m.use = none → s.overtakes c m = true →
    exec (.messageArrival c m) s = .next (s.after 1 (.messageArrival c m))) ∧
  (∀ (c : Nat) (m : Msg) (s : State),
    let core := aadCore m.dst
    let mb := aadMbx m.dst
    m.use = none → s.overtakes c m = false → nodeOf core < 512 →
    s.actorAt c core (mb.toNat / 4) = none ∨ (s.mbxAt c core mb).kind = .unconfigured → (s.mbxAt c core mb).replay = none →
    m.node = none → m.cls ≠ 15 → m.src.msb = true →
    ∃ (u : State) (q : Queued), q.m = m ∧ exec (.messageArrival c m) s = .next ((u.inject c core
      { dst := m.src, cls := 15, col := 1, src := m.dst, tag := m.tag
        payload := (msgBytes m ++ List.replicate 64 0).take 64 ++ bytesLE 2 3 ++ bytesLE 2 0 ++ bytesLE 4 m.dst.toNat ++
          List.replicate 40 0 }).settled c core mb q) ∧ u.mbxs = s.mbxs ∧ u.acts = s.acts ∧ u.mem = s.mem) ∧
  (∀ (c : Nat) (m : Msg) (a : Actor) (pc : Word) (idem : Bool) (s : State),
    let core := aadCore m.dst
    let mb := aadMbx m.dst
    let b := s.mbxAt c core mb
    m.use = none → s.overtakes c m = false → nodeOf core < 512 → s.actorAt c core (mb.toNat / 4) = some a → b.kind = .queue →
    b.replay = none → s.stoppedAt c core = false → a.handler (mb.extractLsb' 0 2) m.cls = some (pc, idem) → b.spilled = false →
    b.ring ≠ [] → b.used + msgFlits m ≤ b.depth →
    ∃ (t : State) (q : Queued), exec (.messageArrival c m) s = .next t ∧ (t.mbxAt c core mb).ring = b.ring ++ [q] ∧ q.m = m ∧
      (t.mbxAt c core mb).digest = (if m.cls = 15 then b.digest else feedDigest b.digest ((msgBytes m).take 16) m.payload) ∧
      (∃ d, d ≤ s.cycle ∧ (d, Instr.activationStart c core) ∈ t.agenda) ∧ t.acts = s.acts ∧ (b.ring_ = none → t.mem = s.mem) ∧
      ∀ base size, b.ring_ = some (base, size) → 8 ≤ size →
        (t.mbxAt c core mb).recorded = if m.cls = 15 then b.recorded else b.recorded + 1) ∧
  (∀ (c core base size : Nat) (mb : BitVec 6) (m : Msg) (s : State),
    (s.mbxAt c core mb).ring_ = some (base, size) → 8 ≤ size → m.cls ≠ 15 →
    s.recordArrival c core mb m = (s.physWrite c core (base + 8 * ((s.mbxAt c core mb).recorded % (size / 8)))
      (bytesLE 4 m.src.toNat ++ bytesLE 2 m.seq.toNat ++ bytesLE 2 m.cls.toNat)).modMbx c core mb fun x =>
        { x with recorded := x.recorded + 1 }) ∧
  (∀ (c core : Nat) (mb : BitVec 6) (q : Queued) (s : State), q.m.cls = 15 → s.takeMsg c core mb q = s.applyRules c core mb q) ∧
  (∀ (c core slot prio : Nat) (mb : BitVec 6) (q : Queued) (a : Actor) (pc : Word) (idem : Bool) (s : State),
    s.stoppedAt c core = false → s.slotFor c core = some slot → bestOf (s.candidates c core) = some (prio, mb, q) →
    (s.ctxAt c).lockstitch = false → s.actorAt c core (mb.toNat / 4) = some a →
    a.handler (mb.extractLsb' 0 2) q.m.cls = some (pc, idem) →
    ∃ (t : State) (x : Act), exec (.activationStart c core) s = .next t ∧ t.actAt { ctx := c, core, slot } = some x ∧
      t.mbxAt c core mb = (s.mbxAt c core mb).without q ∧ x.main.pc = pc ∧ x.main.fromDom = a.hdom ∧
      x.main.arrival = .handler ∧ x.msg = q ∧ x.actor = mb.toNat / 4 ∧ x.mbx = mb ∧ x.budget = (s.ctxAt c).hbud.toNat ∧
      x.strm = false ∧ x.park = false ∧ x.p = 0 ∧ x.flg = q.flags ∧ x.fen = 0 ∧ x.rnd = 0 ∧ x.hused = 0 ∧
      x.hdr1 = msgWord1 q.m ∧ x.getG 1 = msgWord0 q.m ∧
      (∀ i, i < 8 → x.getG (BitVec.ofNat 5 (2 + i)) = BitVec.ofNat 64 (fieldLE q.m.payload (8 * i) 8)) ∧
      x.getG 10 = (if (16 + q.m.payload.length + 63) / 64 = 1 then 0 else BitVec.ofNat 64 (2 ^ 55 + 4096 * slot + 3840)) ∧
      x.getG 11 = q.m.src.setWidth 64 ∧ x.getG 12 = a.stateBase ∧
      x.getG 13 = (if a.parallel then a.stk - BitVec.ofNat 64 (slot * a.stksz) else a.stk) ∧
      (∀ j : BitVec 5, j = 0 ∨ 14 ≤ j.toNat → x.getG j = 0) ∧ (∀ (j : BitVec 5) (n : Nat), lane x.v[j.toNat] n = 0) ∧
      (∀ j : BitVec 4, x.dLanes j = List.replicate 32 0 ∧ x.n[j.toNat] = 0x8000) ∧ (∀ j : BitVec 3, x.getP j = decide (j = 7)) ∧
      (∀ j : BitVec 3, x.getK j = if j = 0 then 0xFFFF else 0) ∧ (∀ j : BitVec 2, x.qg[j.toNat] = [] ∧ x.qv[j.toNat] = []) ∧
      (∀ j : BitVec 5, x.boundTo j = none) ∧ x.acc.pc = 0) ∧
  (∀ (c core : Nat) (s : State), s.stoppedAt c core = true → exec (.activationStart c core) s = .next s) ∧
  (∀ (c i : Nat) (aad : BitVec 32) (x : Bobbin) (s : State),
    let core := aadCore aad
    let mb := aadMbx aad
    let q := (s.bobbinMsg c core x i).1
    (s.coreAt c core).closing = [] → (s.mbxAt c core mb).limbo = [] → s.stoppedAt c core = false → s.bobbinHead c core mb = some (x, i) →
    s.bobbinGap c core x (if i = 0 then 1 else x.count) = none → (s.mbxAt c core mb).kind = .queue →
    (s.mbxAt c core mb).used + msgFlits q.m ≤ (s.mbxAt c core mb).depth →
    ∃ t, exec (.bobbinDrain c aad) s = .next t ∧ (t.mbxAt c core mb).ring = (s.mbxAt c core mb).ring ++ [q] ∧
      (t.mbxAt c core mb).digest = (s.mbxAt c core mb).digest ∧
      ∃ y, (t.mbxAt c core mb).bobbin = some y ∧ y.msgs = x.msgs.eraseIdx i) ∧
  (∀ (c i g : Nat) (aad : BitVec 32) (x : Bobbin) (s : State), (s.coreAt c (aadCore aad)).closing = [] → (s.mbxAt c (aadCore aad) (aadMbx aad)).limbo = [] →
    s.stoppedAt c (aadCore aad) = false → s.bobbinHead c (aadCore aad) (aadMbx aad) = some (x, i) →
    s.bobbinGap c (aadCore aad) x (if i = 0 then 1 else x.count) = some g →
    ∃ t, exec (.bobbinDrain c aad) s = .next t ∧ t.mbxs = s.mbxs ∧ t.acts = s.acts ∧
      (∃ w ∈ (t.clHwAt (nodeOf (aadCore aad))).walks, w.ctx = c ∧ w.granule = g) ∧
      ∃ d, (d, Instr.bobbinDrain c aad) ∈ t.agenda) ∧
  (∀ (c core : Nat) (mb : BitVec 6) (q : Queued) (s : State), (s.mbxAt c core mb).pends q = false →
    s.settled c core mb q = s.msgTaken c q.m) ∧
  (∀ (c core : Nat) (mb : BitVec 6) (q : Queued) (b : Bobbin) (feed held : Bool) (none_ : Nat) (s : State),
    (s.mbxAt c core mb).bobbin = some b → b.count + (s.mbxAt c core mb).onWay < b.entries →
    s.xlat c core (b.entryAt (b.head + b.count)) = none →
    ((s.toBobbin c core mb q none_ feed held).mbxAt c core mb).limbo = (s.mbxAt c core mb).limbo ++ [(q, some (feed, held))] ∧
    ((s.toBobbin c core mb q none_ feed held).mbxAt c core mb).bobbin = some b) ∧
  (∀ (c core due : Nat) (m : Msg) (l : List (Msg × Nat)) (s : State),
    (s.coreAt c core).inject = (m, due) :: l → (∀ y ∈ l, y.1.dst ≠ m.dst) → due ≤ s.cycle →
    exec (.delayedInjection c core m) s = .next ((s.modCore c core fun k => { k with inject := l }).injectNow c core m)) ∧
  (∀ (c core : Nat) (m : Msg) (s : State), (∀ y ∈ (s.coreAt c core).inject, y.1.dst ≠ m.dst) →
    exec (.delayedInjection c core m) s = .next s)

/-- R84, R138, R139, R140, R173, R175, R177, R178, R180, R212, R254, R278: the release at END frees the slot; it takes the next number on
tlc3 and performs the entries of the buffer in their order: a global store at the home, or in the cluster's copy of its line; a message is
injected, or held back for its delay. A store of local bytes that passes its check is performed; one that fails it is dropped, and its
activation will park; a kill frees the slot, and puts its message back at most twice. -/
def Obligations.ReleasesAndKills : Prop :=
  (∀ (u : SlotId) (a : Act) (s : State), s.actAt u = some a → (s.ctxAt u.ctx).lockstitch = false →
    (∀ e ∈ a.outb, s.entryHeld u a e = false) →
    ∃ t : State, exec (.outboundRelease u) s = .next t ∧ t.actAt u = none ∧
      (a.node = none → t = (s.release u.ctx u.core a.outb).leaveSlot u)) ∧
  (∀ (u : SlotId) (a : Act) (e : OutEntry) (s : State), s.actAt u = some a → e ∈ a.outb → s.entryHeld u a e = true →
    exec (.outboundRelease u) s = .next s) ∧
  (∀ (c core : Nat) (es : List OutEntry) (s : State), es ≠ [] → s.mate c core = none →
    let n := ((s.coreAt c core).tlc[3]).assigned + 1
    ∃ u : State, u = { s with coreCtx := u.coreCtx } ∧ ((u.coreAt c core).tlc[3]).assigned = n ∧
      (u.coreAt c core).seqs = (s.coreAt c core).seqs ∧ (u.coreAt c core).inject = (s.coreAt c core).inject ∧
      (∃ o ∈ (u.coreAt c core).releases, o.n = n ∧ o.msgs.map Prod.fst =
        es.filterMap fun e => match e with | .msg m _ => some m.dst | _ => none) ∧
      ((∃ m d, OutEntry.msg m d ∈ es) → s.release c core es = es.foldl (fun v e => v.performEntry c core e) u) ∧
      ((∀ m d, OutEntry.msg m d ∉ es) →
        s.release c core es = (es.foldl (fun v e => v.performEntry c core e) u).now (.releaseDone c core))) ∧
  (∀ (c core d : Nat) (m : Msg) (s : State),
    let s1 := if m.rel then s.releaseWide c core (relScope core m.dst) else s
    s.performEntry c core (.msg m d) =
      if d = 0 ∧ ∀ y ∈ (s1.coreAt c core).inject, y.1.dst ≠ m.dst then s1.injectNow c core m
      else s1.holdBack c core m (s1.cycle + d)) ∧
  (∀ (c core id size : Nat) (va ph : List (Nat × Byte)) (strong : Bool) (rel : Option Scope) (s : State),
    s.performEntry c core (.store id va (some ph) strong rel size) =
      (match rel with | some sc => s.releaseWide c core sc | none => s).performStore c core strong (ph.map Prod.fst) va ph) ∧
  (∀ (c core a p : Nat) (b b' : Byte) (strong : Bool) (all : List Nat) (l q : List (Nat × Byte)) (s : State),
    s.performStore c core strong all ((a, b) :: l) ((p, b') :: q) =
      (s.globalWrite c core ((s.xlat c core a).elim (s.physKey c p) (·.key)) a p strong (wholeSector all p) b).performStore
        c core strong all l q) ∧
  (∀ (c core a p : Nat) (key : BitVec 9) (whole : Bool) (b : Byte) (s : State),
    memOk s → s.stashOf c (nodeOf core) a = none → s.stashHolder c (p / 128) = none →
    (s.globalWrite c core key a p true whole b).mem.read p = b ∧
    (s.lineAt (nodeOf core) (p / 128) = none → (s.globalWrite c core key a p false whole b).mem.read p = b) ∧
    ∀ x, s.lineAt (nodeOf core) (p / 128) = some x →
      (s.globalWrite c core key a p false whole b).mem = s.mem ∧ ∀ strong : Bool,
      ∃ y, (s.globalWrite c core key a p strong whole b).lineAt (nodeOf core) (p / 128) = some y ∧
        y.data = x.data.set! (p % 128) b ∧ y.dirty.getLsbD (p % 128) = !strong) ∧
  (∀ (u : SlotId) (s : State), s.actAt u = none → exec (.outboundRelease u) s = .next s) ∧
  (∀ (u : SlotId) (a : Act) (p : PStore) (k l : List PStore) (strong : Bool) (rel : Option Scope) (off : Nat) (s : State),
    let w : Who := { sid := u, own := true, dom := p.dom, windows := p.windows, win := none }
    memOk s → s.actAt u = some a → (s.ctxAt u.ctx).lockstitch = false → a.checks = k ++ p :: l → p.held = false → p.kind = .plain strong rel →
    p.found = none →
    45056 ≤ off → off + p.bytes.length ≤ 131072 → a.tack.length + p.bytes.length ≤ 512 → a.outb = [] →
    (∀ i x, p.bytes[i]? = some x → x.1 = 2 ^ 55 + off + i ∧ s.place w x.1 .write = .ok (.clm (off + i))) →
    (∀ q ∈ k ++ l, q.held = false ∧ q.id ≠ p.id ∧ (q.id < p.id → (∀ x ∈ p.bytes, ∀ y ∈ q.bytes, x.1 ≠ y.1) ∧
      (rel ≠ none → ∀ y ∈ q.bytes, y.1 < 2 ^ 55))) →
    ∃ t, exec (.storeCheck u p.id) s = .next t ∧
      (∀ x, t.mem.read x = if clmKey u.ctx u.core off ≤ x ∧ x < clmKey u.ctx u.core off + p.bytes.length
        then (p.bytes.map (·.2)).getD (x - clmKey u.ctx u.core off) 0 else s.mem.read x) ∧
      ∃ b, t.actAt u = some b ∧ b.checks = (a.checks.filter fun q => q.id ≠ p.id) ∧ b.g = a.g) ∧
  (∀ (u : SlotId) (n : Nat) (s : State), s.actAt u = none → exec (.storeCheck u n) s = .next s) ∧
  (∀ (u : SlotId) (a : Act) (p q : PStore) (x y : Nat × Byte) (strong : Bool) (rel : Option Scope) (ph : List (Nat × Byte)) (s : State),
    s.actAt u = some a → a.checks.find? (fun k => k.id == p.id && !k.held) = some p → p.kind = .plain strong rel →
    p.found = some (.pass ph) → q ∈ a.checks → q.held = false → q.id < p.id → x ∈ p.bytes → y ∈ q.bytes → 2 ^ 55 ≤ x.1 → x.1 = y.1 →
    ∃ t b, exec (.storeCheck u p.id) s = .next t ∧ t.mem = s.mem ∧ t.agenda = s.agenda ∧ t.actAt u = some b ∧ p ∈ b.checks ∧
      b.g = a.g) ∧
  (∀ (u : SlotId) (a : Act) (p : PStore) (l : List PStore) (strong : Bool) (rel : Option Scope) (q : Nat) (x : Nat × Byte)
      (s : State),
    let w : Who := { sid := u, own := true, dom := p.dom, windows := p.windows, win := none }
    s.actAt u = some a → a.checks = p :: l → p.held = false → p.kind = .plain strong rel → p.found = none → p.bytes = [x] → 2 ^ 55 ≤ x.1 →
    s.place w x.1 .write = .error (.cause q) → (∀ k ∈ l, p.id < k.id) → a.main.wait = .ready → a.acc.wait = .ready →
    (s.ctxAt u.ctx).supv ≠ 0 → s.ownsSupv u.ctx u.core a.actor = false →
    ∃ t b, exec (.storeCheck u p.id) s = .next t ∧ t.actAt u = some b ∧ b.storeFault = true ∧ b.checks = l ∧ b.g = a.g ∧
      b.park = a.park) ∧
  (∀ (u : SlotId) (a : Act) (s : State), s.actAt u = some a → (∀ x ∈ s.seams, x.primary ≠ u ∧ x.secondary ≠ u) →
    ∃ t, exec (.budgetKill u) s = .next t ∧ t.actAt u = none) ∧
  (∀ (u : SlotId) (a : Act) (s : State), s.actAt u = some a → (∀ x ∈ s.seams, x.primary ≠ u ∧ x.secondary ≠ u) →
    (∀ x, s.actorAt u.ctx u.core a.actor = some x → x.dying = false) →
    ∃ t, exec (.uncorrectableErrorKill u) s = .next t ∧ t.actAt u = none ∧
      (a.retryable = true → a.msg.kills < 2 → (t.mbxAt u.ctx u.core a.mbx).put =
        (s.mbxAt u.ctx u.core a.mbx).put ++ [{ a.msg with kills := a.msg.kills + 1 }]) ∧
      (a.retryable = false ∨ 2 ≤ a.msg.kills → t.mbxs = s.mbxs))

/-! ## Events: contexts -/

/-- R9, R161, R192, R213, R214, R315, R328, R330, R334, R338, R188, R235-R239, R372: stops, restores, slices, creation, resizing and
launches, with the values of labels that the loader supplies. The model's choices among them: that a creation or a resize which breaks a
limit, or for which there is no place, does nothing (DESIGN CHOICE, notes/assumptions/76.md), that a launch message comes from core 4224
under Config.loaderAad (41.md), that issuer 0 is Pelson (62.md), the SRC of notice 0x0014 (38.md), that a launch which breaks a limit or
finds no place changes nothing and which pages and actor numbers it takes (DESIGN CHOICE, 58.md), which of two stops a core keeps
(DESIGN CHOICE, 81.md), and where the loader's key comes from (81.md). -/
def Obligations.Contexts : Prop :=
  (∀ (c core : Nat) (issuer : BitVec 32) (s : State), ∃ t, exec (.stop c core issuer) s = .next t ∧
    ((∀ k ∈ s.acts, ∀ p ∈ k.2.checks, p.held = false) → (t.coreAt c core).stop = some (issuer, s.cycle) ∧
      (t.coreAt c core).stopped = false ∧ (s.stepOn c core = false → ∀ e ∈ (t.coreAt c core).tile, e.ranges = []) ∧
      (∀ e l due, headCmd (s.coreAt c core).copyQ = some e → e.ckpt = some (false, l) → e.cut = none →
        (due, Instr.engineChunk c core false) ∈ s.agenda →
        ∃ e2 k, headCmd (t.coreAt c core).copyQ = some e2 ∧ e2.cut = some k ∧ k % 256 = 0 ∧ e.pos ≤ k) ∧
      ∃ d, d ≤ s.cycle ∧ (d, Instr.stopComplete c core) ∈ t.agenda)) ∧
  (∀ (c core t0 : Nat) (issuer : BitVec 32) (s : State), s.stopDue c core = true → (s.coreAt c core).stop = some (issuer, t0) →
    ∃ t, exec (.stopComplete c core) s = .next t ∧ (t.coreAt c core).stopped = true ∧
      (issuer ≠ 0 → (∀ k ∈ s.acts, ∀ p ∈ k.2.checks, p.held = false) → ∃ u : State, t = u.inject c core (noticeMsg issuer (sysAad core)
        (noticeBytes 0x0014 0 0 0 0 ((aadOf core 0).setWidth 64) 0 (BitVec.ofNat 64 (s.cycle - t0))))) ∧
      (issuer = 0 → nodeOf core < 512 → (∀ k ∈ s.acts, ∀ p ∈ k.2.checks, p.held = false) →
        (s.cycle + ((s.ctxAt c).meshDelay (nodeOf core) (s.ctxAt c).svb + 24), Instr.messageArrival c { noticeMsg 0 (sysAad core)
          (noticeBytes 0x0014 0 0 0 0 ((aadOf core 0).setWidth 64) 0 (BitVec.ofNat 64 (s.cycle - t0))) with use := some .stopped }) ∈
            t.agenda)) ∧
  (∀ (c core : Nat) (s : State), s.stopDue c core = false → exec (.stopComplete c core) s = .next s) ∧
  (∀ (c : Nat) (s : State), (s.ctxAt c).running = true ∨ (s.ctxAt c).terminated = true →
    exec (.contextRestore c) s = .next s) ∧
  (∀ (c : Nat) (s : State), (s.ctxAt c).running = false → (s.ctxAt c).terminated = false →
    (∀ y ∈ s.ctxs, y.2.running = true → y.1 ≠ c →
      y.2.svb + y.2.svl ≤ (s.ctxAt c).svb ∨ (s.ctxAt c).svb + (s.ctxAt c).svl ≤ y.2.svb) →
    s.update = none → (s.ctxAt c).moved = [] → (s.ctxAt c).dones = [] → (s.ctxAt c).reports = [] →
    ∃ t, exec (.contextRestore c) s = .next t ∧ (t.ctxAt c).running = true ∧ (t.ctxAt c).used = 0 ∧
      (t.ctxAt c).live = (s.ctxAt c).rights ∧
      (∀ core ∈ s.coresOf c, (t.coreAt c core).stop = none ∧ (t.coreAt c core).stopped = false) ∧ t.mem = s.mem ∧
      ∀ u a, s.actAt u = some a → u.ctx = c → t.actAt u = some a) ∧
  (∀ (c : Nat) (s : State), (s.ctxAt c).running = false → exec (.timeSliceExpiry c) s = .next s) ∧
  (∀ (c : Nat) (s : State), (s.ctxAt c).running = true → ∃ t, exec (.timeSliceExpiry c) s = .next t ∧ t = { s with agenda := t.agenda } ∧
    ∀ i, i < (s.ctxAt c).svl → (s.cycle + 28, Instr.packetRoute c (meshNode 528 (s.ctxAt c).svb) ((s.ctxAt c).svb + i) (.stop 0)) ∈
      t.agenda) ∧
  (∀ (c svb svl : Nat) (s : State), s.partitionOk [c] svb svl = true → s.quotaRoom c (svb / 256) svb ≠ 0 →
    ∃ t, exec (.contextCreation c svb svl) s = .next t ∧
    t.ctxAt c = { svb, svl, quota := min 4096 (s.quotaRoom c (svb / 256) svb) } ∧ (∀ d, d ≠ c → t.ctxAt d = s.ctxAt d) ∧ (∀ k ∈ t.acts, k.1.ctx ≠ c) ∧ (∀ k ∈ t.actors, k.1.1 ≠ c) ∧
    (∀ k ∈ t.mbxs, k.1.1 ≠ c) ∧ (∀ core, t.coreAt c core = {}) ∧ (∀ cl, t.clAt c cl = {})) ∧
  (∀ (c svb svl : Nat) (s : State), s.partitionOk [c] svb svl = false ∨ s.quotaRoom c (svb / 256) svb = 0 →
    exec (.contextCreation c svb svl) s = .next s) ∧
  (∀ (svb svl : Nat) (but : List Nat) (s : State), s.partitionOk but svb svl = true → 1 ≤ svl ∧ svb + svl ≤ 512 ∧
    ∀ y ∈ s.ctxs, y.2.terminated = false → y.1 ∉ but →
      (svb = y.2.svb ∧ svl = y.2.svl) ∨ svb + svl ≤ y.2.svb ∨ y.2.svb + y.2.svl ≤ svb) ∧
  (∀ (c svb svl k : Nat) (s : State), k ∈ s.siblings c → (s.ctxAt k).running = true →
    exec (.partitionResize c svb svl) s = .next s) ∧
  (∀ (c svl : Nat) (s : State),
    let x := s.ctxAt c
    s.siblings c = [c] → x.running = false → x.svl ≤ svl → s.partitionOk [c] x.svb svl = true →
    (∀ y ∈ s.ctxs, y.2.terminated = false → y.1 ≠ c → x.svb + svl ≤ y.2.svb ∨ y.2.svb + y.2.svl ≤ x.svb) →
    (x.lockstitch = true → svl % 2 = 0 ∧ 4 ≤ svl) →
    s.quotaRoom c (x.svb / 256) x.svb ≠ 0 →
    (∀ r ∈ s.namedPieces [c] (x.svb * 2 ^ 30) ((x.svb + x.svl) * 2 ^ 30), r.at_ + r.size ≤ svl * 2 ^ 30) →
    ∃ t, exec (.partitionResize c x.svb svl) s = .next t ∧ (t.ctxAt c).svb = x.svb ∧ (t.ctxAt c).svl = svl) ∧
  (∀ (c svb svl : Nat) (s t : State), s.resizable c svb svl = true → s.resized c svb svl = some t →
    exec (.partitionResize c svb svl) s = .next t ∧ ∀ k ∈ s.siblings c, (t.ctxAt k).svb = svb ∧ (t.ctxAt k).svl = svl) ∧
  (∀ (c svb svl : Nat) (s : State), s.partitionOk (s.siblings c) svb svl = false ∨ s.quotaRoom c (svb / 256) (s.ctxAt c).svb = 0 ∨
      s.resized c svb svl = none →
    exec (.partitionResize c svb svl) s = .next s) ∧
  (∀ (c svb svl : Nat) (y : Nat × Ctx) (s : State), y ∈ s.ctxs → y.2.terminated = false → y.1 ∉ s.siblings c →
    svb < y.2.svb + y.2.svl → y.2.svb < svb + svl → exec (.partitionResize c svb svl) s = .next s) ∧
  (∀ (c : Nat) (a : Actor) (k n k2 n2 : Nat) (s : State), n2 < 16 → k2 < 8192 →
    ((s.actorMoved c a k n k2 n2).ctxAt c).moved = (s.ctxAt c).moved ++ [movedNote a k n k2 n2] ∧
    ((s.ctxAt c).supv ≠ 0 → aadCore (s.ctxAt c).supv = k → aadActor (s.ctxAt c).supv = n →
      aadCore ((s.actorMoved c a k n k2 n2).ctxAt c).supv = k2 ∧ aadActor ((s.actorMoved c a k n k2 n2).ctxAt c).supv = n2)) ∧
  (∀ (p : LaunchPlan) (l : List (BitVec 32)) (s s1 : State), planOk p (s.ctxAt p.ctx) = true →
    s.placeAll p.ctx (resolveLabels p).actors = some (l, s1) →
    ∃ t u : State, exec (.launch p) s = .next t ∧ t.actors = s1.actors ∧ u.actors = s1.actors ∧
      t = (resolveLabels p).msgs.foldl (fun u m => u.inject p.ctx 4224
        { dst := l.getD m.actor 0 ||| m.mbx.setWidth 32, cls := m.cls, src := Config.loaderAad, payload := m.payload }) u ∧
      ∀ e ∈ p.entries, (((t.ctxAt p.ctx).rights[64 * e.1.toNat + e.2.toNat]?).map fun r => r.getLsbD 3) = some true) ∧
  (∀ (p : LaunchPlan) (s : State), planOk p (s.ctxAt p.ctx) = false ∨ s.placeAll p.ctx (resolveLabels p).actors = none →
    exec (.launch p) s = .next s) ∧
  (∀ (p : LaunchPlan) (u : LabelUse) (i off n : Nat) (y : Nat × SectionMap) (x : SectionMap), p.labels = [u] →
    u.place = .part i off n → (planPlaces p)[u.section_]? = some y → p.sections[i]? = some x →
    ((resolveLabels p).sections[i]?).map (·.bytes) = some (putField x.bytes off n ((y.1 + u.offset) / 2 ^ u.shift)) ∧
    (resolveLabels p).actors = p.actors ∧ (resolveLabels p).msgs = p.msgs) ∧
  (∀ (bs : List Byte) (off n v : Nat), off + n ≤ bs.length → (putField bs off n v).length = bs.length ∧
    ∀ j, j < bs.length → (putField bs off n v)[j]? = if off ≤ j ∧ j < off + n
      then some (BitVec.ofNat 8 (v / 256 ^ (j - off))) else bs[j]?) ∧
  (∀ (p : LaunchPlan) (x : Ctx), planOk p x = true → ∀ m ∈ p.msgs, m.actor < p.actors.length ∧ m.payload.length ≤ 240) ∧
  (∀ (c : Nat) (d : ActorDecl) (aad : BitVec 32) (s t : State), s.placeActor c d = some (aad, t) →
    aadCore aad = (8 * d.node + d.core) % 8192 ∧ s.actorAt c (8 * d.node + d.core) (aadActor aad) = none ∧
    ∃ a, t.actorAt c (8 * d.node + d.core) (aadActor aad) = some a ∧ a.aid = d.aid ∧ a.group = d.group ∧ a.hdom = d.hdom ∧
      a.priv = d.priv ∧ a.parallel = d.parallel ∧ a.stateBase.toNat % 4096 = 0) ∧
  (∀ (c root next va : Nat) (key : BitVec 9) (x : SectionMap) (s : State), memOk s → (∀ k ∈ s.clHw, k.2.slice = []) →
    ∀ i b, x.bytes[i]? = some b → (s.mapSection c root key next va x).1.mem.read (x.phys + va % 65536 + i) = b)

/-! ## Events: translation -/

/-- R308-R312: a walk begins where one of the cluster's two walkers is free, and takes the latencies of its reads and 4 cycles; its end
enters the translation and frees its waiters, which go on under it, or ends the probes of its granule, and writes an entry of the fault
queue, or holds in its walker while the queue is full; a completion walks again, and a refusal frees the waiters with the granule
refused. -/
def Obligations.Walks : Prop :=
  (∀ (c cl : Nat) (va : Word) (acc : AccKind) (e : TlbEntry) (s s1 : State),
    let g := va.toNat / 65536
    (∃ w ∈ (s.clHwAt cl).walks, w.ctx = c ∧ w.granule = g ∧ w.begun = true ∧ w.seq = none) → s.walkTable c (g * 65536) = (.leaf e, s1) →
    ∃ t, exec (.walkEnd c cl va acc) s = .next t ∧ e ∈ (t.clHwAt cl).tlb ∧
      (∀ u a, s.actAt u = some a → u.ctx = c → nodeOf u.core = cl → a.main.wait = .walk g →
        ∃ b, t.actAt u = some b ∧ b.main.wait = .ready ∧ b.main.pc = a.main.pc ∧ b.main.given = some e ∧ b.g = a.g)) ∧
  (∀ (c cl : Nat) (va : Word) (acc : AccKind) (kind level entry : Nat) (s s1 : State),
    let g := va.toNat / 65536
    let seq := ((s.ctxAt c).fqSeq + 1) % 2 ^ 32
    (∃ w ∈ (s.clHwAt cl).walks, w.ctx = c ∧ w.granule = g ∧ w.begun = true ∧ w.seq = none) →
    s.walkTable c (g * 65536) = (.bad kind level entry, s1) → acc ≠ .probe → (s.ctxAt c).fqOut.length < 256 →
    ∃ t, exec (.walkEnd c cl va acc) s = .next t ∧ (t.ctxAt c).fqSeq = seq ∧
      (t.ctxAt c).fqOut = (s.ctxAt c).fqOut ++ [{ seq, granule := g, kind := BitVec.ofNat 8 kind, cluster := cl }] ∧
      (∀ u a, s.actAt u = some a → u.ctx = c → nodeOf u.core = cl → a.main.wait = .walk g →
        ∃ b, t.actAt u = some b ∧ b.main.wait = .fault g seq)) ∧
  (∀ (c cl : Nat) (va : Word) (acc : AccKind) (s : State),
    (∀ w ∈ (s.clHwAt cl).walks, w.ctx = c → w.granule = va.toNat / 65536 → w.begun = false ∨ w.seq ≠ none) →
    exec (.walkEnd c cl va acc) s = .next s) ∧
  (∀ (c cl : Nat) (va : Word) (acc : AccKind) (kind level entry : Nat) (s s1 : State),
    let g := va.toNat / 65536
    (∃ w ∈ (s.clHwAt cl).walks, w.ctx = c ∧ w.granule = g ∧ w.begun = true ∧ w.seq = none) →
    s.walkTable c (g * 65536) = (.bad kind level entry, s1) → 256 ≤ (s.ctxAt c).fqOut.length →
    acc ≠ .probe → exec (.walkEnd c cl va acc) s = .next (s1.endProbes c cl g) ∧ s1.clHwAt cl = { s.clHwAt cl with slice := (s1.clHwAt cl).slice }) ∧
  (∀ (c cl : Nat) (va : Word) (kind level entry : Nat) (s s1 : State),
    let g := va.toNat / 65536
    (∃ w ∈ (s.clHwAt cl).walks, w.ctx = c ∧ w.granule = g ∧ w.begun = true ∧ w.seq = none) →
    s.walkTable c (g * 65536) = (.bad kind level entry, s1) →
    exec (.walkEnd c cl va .probe) s = .next ((s1.endProbes c cl g).dropWalk c cl g)) ∧
  (∀ (c cl g : Nat) (u : SlotId) (a : Act) (s : State), s.actAt u = some a → u.ctx = c → nodeOf u.core = cl →
    ∃ b, (s.endProbes c cl g).actAt u = some b ∧ b.g = a.g ∧ ∀ y : Stream, (b.str y).pc = (a.str y).pc ∧
      ((a.str y).wait = .probe g → (b.str y).wait = .ready ∧ g ∈ (b.str y).skip) ∧
      ((a.str y).wait ≠ .probe g → b.str y = a.str y)) ∧
  (∀ (c cl g : Nat) (acc : AccKind) (w : Walk) (s : State), s.walkOf c cl g = some w →
    (w.acc ≠ .probe ∨ acc = .probe → s.startWalk c cl g acc = s) ∧
    (w.acc = .probe → acc ≠ .probe → (s.startWalk c cl g acc).walkOf c cl g = some { w with acc })) ∧
  (∀ (c cl g : Nat) (acc : AccKind) (s : State), (s.clHwAt cl).walks = [] →
    ((s.startWalk c cl g acc).clHwAt cl).walks = [{ ctx := c, granule := g, acc, begun := true }] ∧
    (s.startWalk c cl g acc).acts = s.acts ∧
    (s.cycle + (s.walkReads c cl (g * 65536) (s.ctxAt c).root walkLevels + 4),
      Instr.walkEnd c cl (BitVec.ofNat 64 (g * 65536)) acc) ∈ (s.startWalk c cl g acc).agenda) ∧
  (∀ (c cl g : Nat) (acc : AccKind) (s : State), 2 ≤ ((s.clHwAt cl).walks.filter fun w => w.begun && w.seq.isNone).length →
    (∀ w ∈ (s.clHwAt cl).walks, w.ctx = c → w.granule ≠ g) →
    ((s.startWalk c cl g acc).clHwAt cl).walks = (s.clHwAt cl).walks ++ [{ ctx := c, granule := g, acc, begun := false }] ∧
    (s.startWalk c cl g acc).agenda = s.agenda) ∧
  (∀ (c cl phys : Nat) (s : State),
    let x := s.ctxAt c
    let home := homeOf x.svb x.svl phys
    cl < 512 → s.strongCycles c cl phys = (if home = cl then 30 else 44 + 4 * hops cl home x.svb x.svl) +
      (if (∃ y ∈ (s.clHwAt home).slice, y.line = phys / 128 ∧ y.valid.getLsbD (sectorOf phys) = true) then 0
       else 120 + if s.spared home (sectorOf phys) = true then 8 else 0)) ∧
  (∀ (c : Nat) (seq : BitVec 32) (s : State), (s.ctxAt c).faultEntry seq = none →
    exec (.faultCompletion c seq) s = .next s ∧ exec (.faultRefusal c seq) s = .next s) ∧
  (∀ (c : Nat) (seq : BitVec 32) (e : FaultEntry) (s : State), (s.ctxAt c).faultEntry seq = some e → (s.ctxAt c).running = false →
    exec (.faultCompletion c seq) s = .next (s.modCtx c fun x => { x with fqHeld := x.fqHeld ++ [(seq, true)] }) ∧
    exec (.faultRefusal c seq) s = .next (s.modCtx c fun x => { x with fqHeld := x.fqHeld ++ [(seq, false)] })) ∧
  (∀ (c : Nat) (seq : BitVec 32) (e : FaultEntry) (s : State), (s.ctxAt c).faultEntry seq = some e → (s.ctxAt c).running = true →
    (∃ t, exec (.faultCompletion c seq) s = .next t ∧ (t.ctxAt c).faultEntry seq = none ∧
      (∀ w ∈ (t.clHwAt e.cluster).walks, w.ctx = c → w.granule = e.granule → w.seq = none) ∧
      (∀ u a, s.actAt u = some a → u.ctx = c → nodeOf u.core = e.cluster → a.main.wait = .fault e.granule e.seq →
        ∃ b, t.actAt u = some b ∧ b.main.wait = .walk e.granule)) ∧
    (s.nodesWaiting c e.cluster e.granule = [] → ∃ t, exec (.faultRefusal c seq) s = .next t ∧
      (t.ctxAt c).faultEntry seq = none ∧
      (∀ u a, s.actAt u = some a → u.ctx = c → nodeOf u.core = e.cluster → a.main.wait = .fault e.granule e.seq →
        ∃ b, t.actAt u = some b ∧ b.main.wait = .ready ∧ b.main.refused = some e.granule)))

/-! ## Events: units -/

/-- R66, R249-R262, R268-R270, R278: steps of the matrix unit and what each computes or writes, chunks of the engines, and the
numbers that completed commands reach. That a chunk runs on to the end of a block of a TB6 window, whose bytes are one access, and
moves none of an access while a byte of it waits, is the model's reading of R58 (DEDUCED, notes/assumptions/53.md). -/
def Obligations.Units : Prop :=
  (∀ (c cl q credit : Nat) (t : TileCmd) (s : State), (s.clHwAt cl).busy = 0 → s.chooseQueue c cl = some (q, credit) →
    s.tileReady c (8 * cl + q) = some t → t.checked = true →
    ∃ u, exec (.matrixStep c cl) s = .next u ∧ (u.clHwAt cl).queue = BitVec.ofNat 3 q ∧ (u.clHwAt cl).credit = credit - 1 ∧
      (u.clHwAt cl).busy = s.cycle + t.next.2 ∧ (s.cycle + t.next.2, Instr.matrixStep c cl) ∈ u.agenda ∧ u.mem = s.mem) ∧
  (∀ (c cl : Nat) (s : State), (s.clHwAt cl).busy = 0 → s.chooseQueue c cl = none → exec (.matrixStep c cl) s = .next s) ∧
  (∀ (c core k0 k1 : Nat) (acc : Bool) (s : State),
    ((s.doStep c core (.mzero acc) k0 k1).1.coreAt c core).accum acc = Vector.replicate 4096 0) ∧
  (∀ (c core k0 k1 k : Nat) (acc : Bool) (a b x : Swatch) (s : State),
    let cl := nodeOf core
    let mac (op : TileOp) (g : Nat) (la lb : Nat → List FVal) : Prop :=
      let t := (s.doStep c core op k0 k1).1
      t.mem = s.mem ∧ (t.coreAt c core).accum (!acc) = (s.coreAt c core).accum (!acc) ∧ ∀ m n, m < 64 → n < 64 →
        ((t.coreAt c core).accum acc)[64 * m + n]? = (((s.coreAt c core).accum acc)[64 * m + n]?).map fun old =>
          BitVec.ofNat 32 (macGroups g ((la m).zip (lb n)).length ((la m).zip (lb n)) (old.toNat, 0)).1
    mac (.mma acc a b k) (if a.fmt = 5 then 8 else if a.fmt = 3 ∨ a.fmt = 4 then 4 else 1)
      (fun m => s.tileLine c cl a m k0 k1) (fun n => s.tileLine c cl b n k0 k1) ∧
    mac (.mmas acc a b k) 8 (fun m => s.tileLine c cl a m k0 k1) (fun n => s.tileLine c cl b n k0 k1) ∧
    mac (.mmasx acc a b x k) 8 (fun m => s.maskLine c cl a x m k0 k1) (fun n => s.tileLine c cl b n k0 k1)) ∧
  (∀ (g f : Nat) (p : FVal × FVal) (l : List (FVal × FVal)) (acc : Nat) (fl : BitVec 5), ∃ fl',
    macGroups g (f + 1) (p :: l) (acc, fl) = macGroups g f ((p :: l).drop g)
      ((fmtF32.encode .rne (sumV .rne (fmtF32.decode acc :: ((p :: l).take g).map fun q => (mulV q.1 q.2).1)).1).1, fl')) ∧
  (∀ (g f acc : Nat) (fl : BitVec 5), macGroups g f [] (acc, fl) = (acc, fl)) ∧
  (∀ (c cl i k0 k1 j : Nat) (x : Swatch) (s : State), j < k1 - k0 →
    (x.fmt = 0 → (s.tileLine c cl x i k0 k1)[j]? =
      some (fmtBF16.decode (ofBytesLE (s.tileBytes c cl (x.base + i * x.pitch + 2 * (k0 + j)) 2)))) ∧
    (x.fmt = 1 → (s.tileLine c cl x i k0 k1)[j]? =
      some (fmtF16.decode (ofBytesLE (s.tileBytes c cl (x.base + i * x.pitch + 2 * (k0 + j)) 2)))) ∧
    (x.fmt = 2 → (s.tileLine c cl x i k0 k1)[j]? =
      some (fmtF32.decode (ofBytesLE (s.tileBytes c cl (x.base + i * x.pitch + 4 * (k0 + j)) 4)))) ∧
    (∀ f, swTb x.fmt = some f → k0 % 32 = 0 → k1 % 32 = 0 → (s.tileLine c cl x i k0 k1)[j]? =
      let b := (k0 + j) / 32
      let e := s.tileBytes c cl (x.sbase + i * x.spitch + 2 * b) 2
      (tbDecode f (fieldLE e 0 1) (fieldLE e 1 1)
        (ofBytesLE (s.tileBytes c cl (x.base + i * x.pitch + tbBytes f * b) (tbBytes f))))[(k0 + j) % 32]?)) ∧
  (∀ (c core k0 k1 : Nat) (acc : Bool) (x : Swatch) (s : State),
    let t := (s.doStep c core (.mload acc x) k0 k1).1
    t.mem = s.mem ∧ (t.coreAt c core).accum (!acc) = (s.coreAt c core).accum (!acc) ∧ ∀ m n v, m < 64 → n < 64 →
      (s.tileLine c (nodeOf core) x m 0 64)[n]? = some v →
      ((t.coreAt c core).accum acc)[64 * m + n]? = some (BitVec.ofNat 32 (fmtF32.encode .rne v).1)) ∧
  (∀ (c core k0 k1 : Nat) (acc : Bool) (rm : Rm) (d : Swatch) (s : State), memOk s → d.fmt ≤ 5 →
    let cl := nodeOf core
    let t := (s.doStep c core (.mstore d acc rm) k0 k1).1
    let w := if d.fmt = 2 then 4 else 2
    t.coreAt c core = s.coreAt c core ∧
    (∀ q, (∀ r ∈ d.regions 64, q < tileKey c cl r.1 ∨ tileKey c cl r.2 < q) → t.mem.read q = s.mem.read q) ∧
    (d.fmt ≤ 2 → 64 * w ≤ d.pitch → ∀ m n j v, m < 64 → n < 64 → j < w → ((s.coreAt c core).accum acc)[64 * m + n]? = some v →
      t.mem.read (tileKey c cl (d.base + m * d.pitch + w * n + j)) =
        BitVec.ofNat 8 ((convert (rmMode rm 0) (swType d.fmt) .f32 v.toNat).1 / 256 ^ j))) ∧
  (∀ (f : TBFmt) (d : Swatch) (mode : Mode) (m : Nat) (row : List (BitVec 32)), swTb d.fmt = some f →
    let blk (i : Nat) := requantise f (((row.drop (32 * i)).take 32).map fun v => fmtF32.decode v.toNat)
    let at_ (i : Nat) : List (Nat × Byte) :=
      ((bytesLE (tbBytes f) (blk i).2.2.1).zipIdx.map fun y => (d.base + m * d.pitch + tbBytes f * i + y.2, y.1)) ++
        [(d.sbase + m * d.spitch + 2 * i, BitVec.ofNat 8 (blk i).1), (d.sbase + m * d.spitch + 2 * i + 1, BitVec.ofNat 8 (blk i).2.1)]
    (storeLine d mode m row).1 = at_ 0 ++ at_ 1) ∧
  (∀ (c core k0 k1 : Nat) (d x : Swatch) (s : State), memOk s →
    let cl := nodeOf core
    let t := (s.doStep c core (.mxpose d x) k0 k1).1
    let w := if x.fmt = 2 then 4 else 2
    t.coreAt c core = s.coreAt c core ∧ (64 * w ≤ d.pitch → ∀ m n j, m < 64 → n < 64 → j < w →
      t.mem.read (tileKey c cl (d.base + n * d.pitch + w * m + j)) = s.mem.read (tileKey c cl (x.base + m * x.pitch + w * n + j)))) ∧
  (∀ (c core k0 k1 o : Nat) (acc : Bool) (rm : Rm) (y : BitVec 32) (v : Option Swatch) (s : State),
    let t := (s.doStep c core (.mewise acc o rm y v) k0 k1).1
    t.mem = s.mem ∧ (t.coreAt c core).accum (!acc) = (s.coreAt c core).accum (!acc) ∧ ∀ m n z, m < 64 → n < 64 →
      (match v with
        | none => z = y.toNat
        | some q => ∃ f, (s.tileLine c (nodeOf core) q 0 0 64)[n]? = some f ∧ z = (fmtF32.encode .rne f).1) →
      ((t.coreAt c core).accum acc)[64 * m + n]? = (((s.coreAt c core).accum acc)[64 * m + n]?).map fun old =>
        BitVec.ofNat 32 (if o = 0 ∨ o = 4 then fop fmtF32 (rmMode rm 0) .mul 0 old.toNat z
          else if o = 2 then fop fmtF32 (rmMode rm 0) .max 0 old.toNat z
          else if o = 3 then fop fmtF32 (rmMode rm 0) .min 0 old.toNat z
          else fop fmtF32 (rmMode rm 0) .add 0 old.toNat z).1) ∧
  (∀ (c core : Nat) (s : State), (s.coreAt c core).tile = [] → exec (.tileCommandComplete c core) s = .next s) ∧
  (∀ (c core : Nat) (t : TileCmd) (l : List TileCmd) (s : State), (s.coreAt c core).tile = t :: l → t.op.steps ≤ t.step →
    ∃ u, exec (.tileCommandComplete c core) s = .next u ∧ (u.coreAt c core).tile = l ∧
      (u.coreAt c core).mflg = (s.coreAt c core).mflg ||| (t.flags &&& ~~~flDZ) ∧
      (u.coreAt c core).err = ((s.coreAt c core).err || t.bad) ∧ t.n ≤ ((u.coreAt c core).tlcAt 0).present) ∧
  (∀ (c core : Nat) (t : TileCmd) (s : State), headTile (s.coreAt c core).tile = some t →
    ∃ u, exec (.leaveGrant c core 0) s = .next u ∧ u.mem = s.mem ∧
      (u.coreAt c core).tile = (s.coreAt c core).tile.map fun x => if x.n = t.n then { x with leave := true } else x) ∧
  (∀ (c core : Nat) (gth : Bool) (e : EngCmd) (s : State), headCmd ((s.coreAt c core).engQ gth) = some e →
    ∃ u, exec (.leaveGrant c core (if gth then 2 else 1)) s = .next u ∧ u.mem = s.mem ∧
      (u.coreAt c core).engQ gth = ((s.coreAt c core).engQ gth).map fun x => if x.n = e.n then { e with leave := true } else x) ∧
  (∀ (c core : Nat) (gth : Bool) (e e1 e2 : EngCmd) (b : Byte) (s s1 s2 : State),
    headCmd ((s.coreAt c core).engQ gth) = some e → e.leave = true → e.waits = none → e.held = false → e.cut = none →
    s.storesDone e.owner e.after false = true →
    s.cbFree c (nodeOf core) e = true → (s2.coreAt c core).stop = none → s.reserveSlot c core e = (e1, s1) →
    State.moveBytes c core (min 4096 (e.total - e.pos)) s1 e1 = (.byte b, e2, s2) →
    ∃ u, exec (.engineChunk c core gth) s = .next u ∧ u.mem = s2.mem ∧
      (u.coreAt c core).engQ gth = ((s2.coreAt c core).engQ gth).map fun x => if x.n = e2.n then e2 else x) ∧
  (∀ (c core : Nat) (e e1 : EngCmd) (a d : Nat) (b : Byte) (w : Who) (s s1 s2 : State), e.ckpt = none → e.idx = none →
    e.addrs = (a, d) → w = e.who c core → e.got = [] → s.engRead c core w e.refused a = (.byte b, s1) →
    (∀ p en, s.place w a .read = .ok (.glob p en) → s.blockStart c a p = none) →
    s1.engWrite c core w e.refused e.issued e.since d b = (.byte b, s2) → e1 = { e with pos := e.pos + 1 } →
    s.moveByte c core e = (.byte b, e1, s2)) ∧
  (∀ (c core : Nat) (e : EngCmd) (a d : Nat) (b : Byte) (l : List (Nat × Byte)) (s s2 : State), e.ckpt = none → e.idx = none →
    e.addrs = (a, d) → e.got = (a, b) :: l → s.engWrite c core (e.who c core) e.refused e.issued e.since d b = (.byte b, s2) →
    s.moveByte c core e = (.byte b, { e with got := l, pos := e.pos + 1 }, s2)) ∧
  (∀ (c core : Nat) (e e1 : EngCmd) (b : Byte) (g : Nat) (s s1 : State),
    (State.moveSome c core (s.unitOf c core e) s e = (.byte b, e1, s1) →
      s.moveUnit c core e = (.byte b, { e1 with given := none }, s1) ∧ e1.pos = e.pos + s.unitOf c core e) ∧
    (State.moveSome c core (s.unitOf c core e) s e = (.wait g, e1, s1) → s.moveUnit c core e = (.wait g, e, s)) ∧
    (State.moveSome c core (s.unitOf c core e) s e = (.held, e1, s1) → s.moveUnit c core e = (.held, e, s))) ∧
  (∀ (c core : Nat) (e : EngCmd) (p : Nat) (en : TlbEntry) (f : FormatWin) (s : State), e.ckpt = none → e.idx = none → e.cb = none → e.pos < e.total →
    e.y = 1 → e.z = 1 → e.dst.toNat + e.x ≤ 2 ^ 55 → 24 ≤ e.dst.toNat + e.pos →
    s.place (e.who c core) (e.dst.toNat + e.pos) .write = .ok (.glob p en) → (s.ctxAt (e.who c core).sid.ctx).fwinAt p = some f → f.fmt = 3 →
    s.unitOf c core e = min (24 - (p - f.base) % 24) (e.total - e.pos)) ∧
  (∀ (c core : Nat) (gth : Bool) (e : EngCmd) (l : List EngCmd) (s : State), (s.coreAt c core).engQ gth = e :: l →
    e.total ≤ e.pos → e.cb = none →
    ∃ u, exec (.engineCommandComplete c core gth) s = .next u ∧ (∀ x ∈ (u.coreAt c core).engQ gth, x ∈ l) ∧
      e.n ≤ ((u.coreAt c core).tlcAt (if gth then 2 else 1)).present ∧ u.mem = s.mem) ∧
  (∀ (c core : Nat) (r : OpenRelease) (l : List OpenRelease) (s : State), (s.coreAt c core).releases = r :: l → r.msgs = [] →
    (∀ x k, l = x :: k → x.msgs ≠ []) →
    ∃ u, exec (.releaseDone c core) s = .next u ∧ (u.coreAt c core).releases = l ∧
      r.n ≤ ((u.coreAt c core).tlcAt 3).present ∧ u.mem = s.mem) ∧
  (∀ (c core : Nat) (s : State), (∀ x k, (s.coreAt c core).releases = x :: k → x.msgs ≠ []) →
    exec (.releaseDone c core) s = .next s)

/-- R114, R222, R276, R279, R281: streams that WAITC, CBWAIT and CBAR hold go on; elements fetched ahead; spans of the activity log.
How far a generator fetches ahead, and that it does not under lockstitch, are the model's choice (DESIGN CHOICE,
notes/assumptions/13.md); a stream whose PC has been written through the window while a barrier held it is no longer at the barrier
(DEDUCED, notes/assumptions/80.md). -/
def Obligations.Waits : Prop :=
  (∀ (u : SlotId) (x : Stream) (q : BitVec 2) (n : Nat) (a : Act) (s : State), s.actAt u = some a → (a.str x).wait = .waitc q n →
    (n ≤ ((s.coreAt u.ctx u.core).tlcAt q.toNat).present → exec (.waitcComplete u x) s = .next (s.goOn u x)) ∧
    (((s.coreAt u.ctx u.core).tlcAt q.toNat).present < n → exec (.waitcComplete u x) s = .next s)) ∧
  (∀ (u : SlotId) (x : Stream) (a : Act) (s : State), s.actAt u = some a →
    ∃ b, (s.goOn u x).actAt u = some b ∧ (b.str x).pc = nextPc (a.str x).pc ∧ (b.str x).wait = .ready ∧ b.g = a.g ∧
      (s.goOn u x).mem = s.mem) ∧
  (∀ (u : SlotId) (x : Stream) (i : BitVec 5) (cb : BitVec 3) (j : Nat) (k : CBuf) (a : Act) (s : State),
    s.actAt u = some a → (a.str x).wait = .cbwait (.g i) cb j → s.cbufAt u.ctx (nodeOf u.core) cb = some k → j < k.fill →
    ∃ t b, exec (.cbwaitComplete u x) s = .next t ∧ t.actAt u = some b ∧ (b.str x).pc = nextPc (a.str x).pc ∧
      (b.str x).wait = .ready ∧ (∀ r : BitVec 5, b.getG r = if r = i ∧ i ≠ 0
        then BitVec.ofNat 64 (0x0080000010000000 + k.base + (k.head + j) % k.cnt * k.slot) else a.getG r) ∧ t.mem = s.mem) ∧
  (∀ (u : SlotId) (x : Stream) (a : GQ) (cb : BitVec 3) (j : Nat) (k : CBuf) (b : Act) (s : State), s.actAt u = some b →
    (b.str x).wait = .cbwait a cb j → s.cbufAt u.ctx (nodeOf u.core) cb = some k → k.fill ≤ j →
    exec (.cbwaitComplete u x) s = .next s) ∧
  (∀ (c cl : Nat) (bar : BitVec 2) (k : Barrier) (s : State), (s.clAt c cl).barriers[bar.toNat]? = some k →
    ∃ t u : State, exec (.barrierRelease c cl bar) s = .next t ∧
      t = ((k.opening.filter fun h => decide (h.1 ≤ s.cycle)).filter fun h =>
        match s.actAt h.2.1 with | some a => (a.str h.2.2).wait == .barrier bar | none => false).foldl (fun s h => s.goOn h.2.1 h.2.2) u ∧ u.acts = s.acts ∧
      (t.clAt c cl).barriers[bar.toNat]? = some { k with opening := k.opening.filter fun h => !decide (h.1 ≤ s.cycle) }) ∧
  (∀ (u : SlotId) (sg : BitVec 2) (a : Act) (s : State), s.actAt u = some a →
    (a.gens[sg.toNat].wr = true ∨ some sg ∉ a.bind ∨ a.park = true ∨ (s.ctxAt u.ctx).lockstitch = true →
      exec (.streamFetch u sg) s = .next s) ∧
    (a.gens[sg.toNat].wr = false → some sg ∈ a.bind → a.park = false → (s.ctxAt u.ctx).lockstitch = false →
      ∃ t b l, exec (.streamFetch u sg) s = .next t ∧ t.actAt u = some b ∧ b.g = a.g ∧
        b.gens[sg.toNat].ahead = a.gens[sg.toNat].ahead ++ l ∧ l.length ≤ 64 - a.gens[sg.toNat].ahead.length ∧
        b.gens[sg.toNat].pos = a.gens[sg.toNat].pos)) ∧
  (∀ (c core len : Nat) (st : BitVec 2) (cause : BitVec 6) (s : State), (s.hwAt core).ringBase = 0 → (s.hwAt core).ring.length < 1024 →
    (∃ t, exec (.spanEnd c core st cause len) s = .next t ∧ t = { s with coreHw := t.coreHw } ∧
      (t.hwAt core).ring = (s.hwAt core).ring ++ [st ++ cause ++ BitVec.ofNat 24 len] ∧ (t.hwAt core).span = (s.hwAt core).cand) ∧
    (∃ t, exec (.spanExtension c core) s = .next t ∧ t = { s with coreHw := t.coreHw } ∧
      (t.hwAt core).ring = (s.hwAt core).ring ++ [(s.hwAt core).span.1 ++ 63#6 ++ BitVec.ofNat 24 16777215] ∧
      (t.hwAt core).span.2.2 = (s.hwAt core).span.2.2 - 16777215))

/-! ## Events: mesh, caches, graph unit -/

/-- R264, R265, R287-R293, R298, R299: a packet's hop or arrival, evictions, the rails, sparing. That a packet
keeps the interval it entered with is the model's reading (DEDUCED, notes/assumptions/55.md). -/
def Obligations.MeshCachesRails : Prop :=
  (∀ (c cur dst : Nat) (m : Msg) (s : State),
    let x := s.ctxAt c
    let n := nextHop cur (meshNode dst x.svb) x.svb x.svl
    (x.mayReach dst = true → cur = meshNode dst x.svb → exec (.packetRoute c cur dst (.message m none)) s =
      .next (s.after (if dst < 512 then 3 else 27) (.messageArrival c m))) ∧
    (x.mayReach dst = true → cur ≠ meshNode dst x.svb → n ≠ cur → exec (.packetRoute c cur dst (.message m none)) s =
      .next (s.after 2 (.packetRoute c n dst (.message m (some (x.svb, x.svl)))))) ∧
    (x.mayReach dst = false → ∃ t, exec (.packetRoute c cur dst (.message m none)) s = .next t ∧ t.mem = s.mem ∧ t.acts = s.acts ∧
      t.mbxs = s.mbxs)) ∧
  (∀ (c cur dst svb svl : Nat) (m : Msg) (s : State),
    let n := nextHop cur (meshNode dst svb) svb svl
    (cur = meshNode dst svb → exec (.packetRoute c cur dst (.message m (some (svb, svl)))) s =
      .next (s.after (if dst < 512 then 3 else 27) (.messageArrival c m))) ∧
    (cur ≠ meshNode dst svb → n ≠ cur → exec (.packetRoute c cur dst (.message m (some (svb, svl)))) s =
      .next (s.after 2 (.packetRoute c n dst (.message m (some (svb, svl))))))) ∧
  (∀ (c dst : Nat) (issuer : BitVec 32) (s : State), ∃ t,
    exec (.packetRoute c (meshNode dst (s.ctxAt c).svb) dst (.stop issuer)) s = .next t ∧ t = { s with agenda := t.agenda } ∧
    ∀ i, i < 8 → (s.cycle + 3, Instr.stop c (8 * meshNode dst (s.ctxAt c).svb + i) issuer) ∈ t.agenda) ∧
  (∀ (c dst : Nat) (s : State), exec (.packetRoute c (meshNode dst (s.ctxAt c).svb) dst (.go false)) s =
    .next (s.after 3 (.packetRoute c (meshNode dst (s.ctxAt c).svb) dst (.go true)))) ∧
  (∀ (c cur dst : Nat) (s : State), ∃ t, exec (.packetRoute c cur dst (.go true)) s = .next t ∧ t.mem = s.mem ∧
    ∀ i, i < 8 → (t.coreAt c (8 * cur + i)).stop = none ∧ (t.coreAt c (8 * cur + i)).stopped = false) ∧
  (∀ (c cur dst : Nat) (p : Packet) (s : State),
    let x := s.ctxAt c
    let n := nextHop cur (meshNode dst x.svb) x.svb x.svl
    (∀ m e, p ≠ .message m e) → p ≠ .go true → cur ≠ meshNode dst x.svb → n ≠ cur →
    exec (.packetRoute c cur dst p) s = .next (s.after 2 (.packetRoute c n dst p))) ∧
  (∀ (cl line : Nat) (s : State), ∃ t, exec (.cacheEviction cl line) s = .next t ∧ t.lineAt cl line = none ∧ t.acts = s.acts ∧
    (∀ i, i < 8 → line ∉ (t.hwAt (8 * cl + i)).l1) ∧
    (s.lineAt cl line = none → t.mem = s.mem) ∧
    (∀ (x : CLine) (j : Fin 128), memOk s → s.lineAt cl line = some x → x.dirty.getLsbD j = true →
      t.mem.read (128 * line + j) = x.data[j])) ∧
  (∀ (cl : Nat) (s : State),
    (∃ t, exec (.railLow cl) s = .next t ∧ t = { s with clHw := t.clHw, mem := t.mem, sectorKeys := t.sectorKeys } ∧
      (t.clHwAt cl).dected = true ∧
      (∀ y ∈ (t.clHwAt cl).slice, y ∈ (s.clHwAt cl).slice ∧ y.way ≠ 7 ∧ y.way ≠ 15) ∧
      (∀ y ∈ (s.clHwAt cl).slice, (∀ z ∈ (s.clHwAt cl).slice, z.line = y.line → z.way ≠ 7 ∧ z.way ≠ 15) → y ∈ (t.clHwAt cl).slice) ∧
      (∀ y ∈ (s.clHwAt cl).slice, y.way = 7 ∨ y.way = 15 → (∀ z ∈ (s.clHwAt cl).slice, z.line = y.line → z = y) →
        ∀ i, i < 8 → y.dirty.getLsbD i = true → t.sectorKeys.look (8 * y.line + i) = some y.key) ∧
      ((∀ y ∈ (s.clHwAt cl).slice, y.under = []) → t.mem = s.mem)) ∧
    (∃ t, exec (.railHigh cl) s = .next t ∧ t = { s with clHw := t.clHw } ∧ (t.clHwAt cl).dected = false ∧
      (t.clHwAt cl).slice = (s.clHwAt cl).slice)) ∧
  (∀ (stack chan : Nat) (spare : BitVec 2) (s : State), ∃ t, exec (.pseudoChannelSparing stack chan spare) s = .next t ∧
    t = { s with spares := t.spares } ∧ (stack, chan, spare) ∈ t.spares ∧
    ∀ x ∈ t.spares, x.1 = stack → x.2.1 = chan → x.2.2 = spare)

/-- R314-R323: acceptance, evaluation, expansion, aging, dispatch and its refusal, and completion of graph nodes. That a node whose
submitter is no actor has AID 0, and that the unit translates through the submitter's cluster, are the model's reading (DEDUCED,
notes/assumptions/49.md). -/
def Obligations.GraphEvents : Prop :=
  (∀ (c : Nat) (d : List Byte) (subm : BitVec 32) (cl : Nat) (dom : BitVec 6) (ws : List Window) (dest : Answer) (s : State),
    let x := s.ctxAt c
    (x.quota ≤ x.nodes.length → s.poolFull c = true) ∧
    (s.poolFull c = true → exec (.nodeAccept c d subm cl dom ws dest) s = .next (s.answer c dest 0 9)) ∧
    (s.poolFull c = false → ∃ t u : State, exec (.nodeAccept c d subm cl dom ws dest) s = .next t ∧
      t = u.answer c dest x.nextNode 0 ∧ (t.ctxAt c).nextNode = x.nextNode + 1 ∧
      (t.ctxAt c).nodes.length = x.nodes.length + 1 ∧
      ∃ n ∈ (t.ctxAt c).nodes, n.id = x.nextNode ∧ n.desc = d ∧ n.submitter = subm ∧ n.dom = dom ∧ n.windows = ws ∧
        (subm.msb = false → n.aid = 0) ∧
        n.preds = (x.nodes.filter fun k => conflicts k.desc d).map (·.id))) ∧
  (∀ (c f : Nat) (s : State) (x : Stream) (u : SlotId) (a : Act) (q : GQ), s.actAt u = some a → (a.str x).wait = .gsub q →
    s.seams = [] → ∃ b, (s.answer c (.stream u x) f 0).actAt u = some b ∧ (b.str x).wait = .gsub q ∧
      (b.str x).answer = some (BitVec.ofNat 64 f) ∧ (b.str x).pc = (a.str x).pc ∧ b.g = a.g) ∧
  (∀ (c id : Nat) (n : Node) (gr : Option Nat) (s s1 : State), (s.ctxAt c).node? id = some n → n.st = .evaluating gr →
    (∀ st, s.evaluate c n = (.expansion [] st, s1) → exec (.controlEvaluation c id) s = .next (s1.finishNode c id st)) ∧
    (∀ d l st, s.evaluate c n = (.expansion (d :: l) st, s1) → exec (.controlEvaluation c id) s =
      .next ((s1.modCtx c fun x => x.modNode id fun n => { n with st := .expanded (d :: l) (l.length + 1) st }).graphExpand c)) ∧
    (∀ cause, s.evaluate c n = (.fail cause, s1) → exec (.controlEvaluation c id) s = .next (s1.failNode c id cause)) ∧
    (∀ g, s.evaluate c n = (.wait g, s1) → exec (.controlEvaluation c id) s = .next ((s1.modCtx c fun x => x.modNode id fun n =>
      { n with st := .evaluating (some g) }).startWalk c n.cluster g .engine))) ∧
  (∀ (c : Nat) (n : Node) (v : Nat) (w : List Byte) (s s1 : State), s.graphRead c n (dWord n.desc) 8 = (.bytes w, s1) →
    v = ofBytesLE w →
    (dKind n.desc = 1 → s.evaluate c n = s1.readEntry c n (if v ≠ 0 then 0 else 1)) ∧
    (dKind n.desc = 2 → v = 0 → s.evaluate c n = (.expansion [] 1, s1)) ∧
    (dKind n.desc = 2 → v ≠ 0 → dMaxit n.desc ≠ 0 → dMaxit n.desc ≤ dIter n.desc → s.evaluate c n = (.expansion [] 4, s1)) ∧
    (dKind n.desc = 3 → s.evaluate c n = s1.readEntry c n (min v (dNsub n.desc - 1)))) ∧
  (∀ (c id : Nat) (p : Node) (d : List Byte) (todo : List (List Byte)) (kids st : Nat) (s : State),
    (s.ctxAt c).node? id = some p → p.st = .expanded (d :: todo) kids st → s.poolFull c = false →
    ∃ t, exec (.expansionAccept c id) s = .next t ∧ (t.ctxAt c).nextNode = (s.ctxAt c).nextNode + 1 ∧
      ∃ n ∈ (t.ctxAt c).nodes, n.id = (s.ctxAt c).nextNode ∧ n.desc = d ∧ n.parent = some id ∧ n.dom = p.dom) ∧
  (∀ (c id since lv elig : Nat) (n : Node) (s : State), (s.ctxAt c).node? id = some n → n.st = .ready since lv elig → lv < 3 →
    ∃ t, exec (.readyAging c id) s = .next t ∧ t = { s with ctxs := t.ctxs } ∧
      (∃ l, (s.ctxAt c).levels[lv + 1]? = some l ∧ (t.ctxAt c).levels[lv + 1]? = some ((l.filter (· != id)) ++ [id])) ∧
      ∀ k, (t.ctxAt c).node? id = some k → k.st = .ready (since + 4096) (lv + 1) elig) ∧
  (∀ (c w : Nat) (n : Node) (s : State), s.graphStopped c = false → s.chooseNode c = some (n, w) →
    let dst : BitVec 32 := ((((s.ctxAt c).workers[w]?).getD {}).entry).setWidth 32
    ∃ t, exec (.nodeDispatch c) s = .next t ∧
      (s.cycle + treeDelay (s.ctxAt c).die (nodeOf (aadCore dst)), Instr.messageArrival c
        { dst, cls := BitVec.ofNat 4 (dCls n.desc), rel := true, seq := (s.takeSeq c (graphCore (s.ctxAt c).die) dst).1
          src := if dRet n.desc = 0 then n.submitter else dRet n.desc, tag := BitVec.ofNat 32 n.id
          payload := (n.desc.drop 32).take 64, node := some n.id }) ∈ t.agenda ∧
      (∀ k ∈ (t.ctxAt c).nodes, k.id = n.id → ∃ since lv, k.st = .running (BitVec.ofNat 8 w) since lv) ∧
      (∀ x, (s.ctxAt c).workers[w]? = some x → (t.ctxAt c).workers[w]? = some { x with out := x.out + 1 }) ∧ t.mem = s.mem) ∧
  (∀ (c : Nat) (s : State), s.graphStopped c = true → exec (.nodeDispatch c) s = .next s) ∧
  (∀ (c id since lv : Nat) (w : BitVec 8) (n : Node) (k : Worker) (l : List Nat) (s : State), (s.ctxAt c).node? id = some n →
    n.st = .running w since lv → (s.ctxAt c).workers[w.toNat]? = some k → (s.ctxAt c).levels[lv]? = some l →
    ∃ t, exec (.dispatchRefused c id) s = .next t ∧ t = { s with ctxs := t.ctxs } ∧ (t.ctxAt c).levels[lv]? = some (id :: l) ∧
      (t.ctxAt c).workers[w.toNat]? = some (if 1 < k.out then { k with out := k.out - 1, passOwn := true }
        else { k with out := k.out - 1, passOwn := false, passUntil := some ((s.ctxAt c).gclock + 4096) })) ∧
  (∀ (c : Nat) (w : BitVec 8) (k : Worker) (s : State), (s.ctxAt c).workers[w.toNat]? = some k →
    ∃ t, exec (.workerPassoverExpiry c w) s = .next t ∧ t = { s with ctxs := t.ctxs } ∧
      (t.ctxAt c).workers[w.toNat]? = some { k with passUntil := none }) ∧
  (∀ (c id : Nat) (s : State), ∃ t, exec (.nodeComplete c id) s = .next t ∧ (t.ctxAt c).node? id = none ∧ t.acts = s.acts)

/-! ## Events: package and fabric -/

/-- R4, R14, R345-R348, R351, R352, R354: attestation, boot, live update, the clock, reset, the seam check. That the responder
always answers and what a boot measures, how the ports' flows begin anew after a reset, what a warm reset leaves of memory,
poison, keys, sparing and slices, and that a module which wakes is as after one, are the model's choices (DESIGN CHOICE,
notes/assumptions/43.md, 42.md and 75.md). So are what measures an image (DESIGN CHOICE, 59.md), that the image is written at once and
an image that rejects the handover rolls back at once (DEDUCED, 71.md), that a seam check of END against early commit is a mismatch
whatever the hashes (DEDUCED, 80.md), and that a boot starts the general cores anew (PRESUMED, 78.md). -/
def Obligations.Package : Prop :=
  ∀ s : State,
    (∀ i a, (i, a) ∈ [(Instr.getVersion, SpdmAnswer.version 1 2), (.getCapabilities, .capabilities),
        (.negotiateAlgorithms, .algorithms), (.getDigests, .digests), (.getCertificate, .certificate)] →
      exec i s = .next { s with spdm := { s.spdm with answers := a :: s.spdm.answers } }) ∧
    (∃ (t : State) (x y : Word), exec .challenge s = .next t ∧ t.spdm.answers = .challenge x y :: s.spdm.answers ∧
      t = { s with spdm := t.spdm, free := t.free }) ∧
    (∃ (t : State) (x y : Word), exec .getMeasurements s = .next t ∧
      t.spdm.answers = .measurements s.measureShares.spdm.meas.toList x y :: s.spdm.answers ∧
      (∀ k : Fin 5, k.val ≠ 4 → s.measureShares.spdm.meas[k] = s.spdm.meas[k]) ∧ t = { s with spdm := t.spdm, free := t.free }) ∧
    (∀ b, s.power = .inReset → s.bootChoice = some b →
      exec .boot s = .next ((({ s with power := .booted, bootB := b, bootFailed := false } : State).startHarts 16).measureBoot b)) ∧
    (∀ b, (s.measureBoot b).spdm.meas[0] = Config.hash ((1 : Byte) :: (bytesLE 8 s.patch.toNat ++ bytesLE 4 s.sid.toNat ++
      bytesLE 1 s.svn.toNat ++ [if s.debugLock then 1 else 0])) ∧ (s.measureBoot b).spdm.meas[4] = 0 ∧
      ({ s.measureBoot b with spdm := s.spdm } : State) = s) ∧
    (s.power = .inReset → s.bootChoice = none → exec .boot s = .next { s with bootFailed := true }) ∧
    (s.power ≠ .inReset → exec .boot s = .next s) ∧
    (∀ b i, s.bootChoice = some b → (if b then s.slotB else s.slotA) = some i → i.signed = true ∧ s.svn.toNat ≤ i.svn.toNat) ∧
    (∀ i j, s.slotA = some i → s.slotB = some j → i.signed = true → j.signed = true → s.svn.toNat ≤ i.svn.toNat →
      s.svn.toNat ≤ j.svn.toNat → (i.version.toNat < j.version.toNat → s.bootChoice = some true) ∧
        (j.version.toNat < i.version.toNat → s.bootChoice = some false)) ∧
    (s.power = .asleep → exec .moduleWake s = exec .reset s) ∧
    (s.power ≠ .asleep → exec .moduleWake s = .next s) ∧
    (∀ img gr, s.power ≠ .booted ∨ s.update ≠ none → exec (.liveUpdate img gr) s = .next s) ∧
    (∀ img gr, s.power = .booted → s.update = none → ∃ t, exec (.liveUpdate img gr) s = .next t ∧
      (img.signed = false → t.update = none) ∧
      (img.signed = true → ∃ hand : Handover, hand.crc = crc32c hand.body ∧ hand.length = BitVec.ofNat 32 hand.body.length ∧
        t.update = some { img, slot := !s.bootB, graph := gr, hand, due := s.reft + 500 * 100000 * 39480 } ∧
        (hand.version = img.takes → t.agenda = s.agenda) ∧ (hand.version ≠ img.takes → ∃ d, d ≤ s.cycle ∧ (d, Instr.rollback) ∈ t.agenda)) ∧
      t.bootB = s.bootB ∧ t.svn = s.svn ∧
      (if s.bootB then t.slotA = some img ∧ t.slotB = s.slotB else t.slotB = some img ∧ t.slotA = s.slotA)) ∧
    (∀ u, s.update = some u →
      (s.reft ≤ u.due → u.hand.fits u.img = true →
        ∃ t, exec .heartbeat s = .next t ∧ t.bootB = u.slot ∧ t.update = none ∧ t.beat = true) ∧
      (u.due < s.reft ∨ u.hand.fits u.img = false → exec .heartbeat s = .next s) ∧
      (∃ t, exec .rollback s = .next t ∧ t.bootB = s.bootB ∧ t.update = none ∧ t.svn = s.svn)) ∧
    (s.update = none → exec .heartbeat s = .next s ∧ exec .rollback s = .next s) ∧
    (∀ i, s.beat = true → (if s.bootB then s.slotB else s.slotA) = some i →
      exec .svnRaise s = .next { s with svn := if s.svn.toNat < i.svn.toNat then i.svn else s.svn }) ∧
    (s.beat = false → exec .svnRaise s = .next s) ∧
    (∀ f g, (f, g) ∈ [(940000, 822500), (822500, 705000), (705000, 587500), (587500, 470000)] →
      (s.clock = f → exec .clockDown s = .next { s with clock := g, reft := s.reft + 200 * 39480 }) ∧
      (s.clock = g → exec .clockUp s = .next { s with clock := f, reft := s.reft + 200 * 39480 })) ∧
    (s.clock = 470000 → exec .clockDown s = .next s) ∧ (s.clock = 940000 → exec .clockUp s = .next s) ∧
    (exec .reset s = .next { State.reset with
      sid := s.sid, slotA := s.slotA, slotB := s.slotB, bootB := s.bootB, svn := s.svn, patch := s.patch, debugLock := s.debugLock
      free := s.free
      ports := s.ports.map fun x => { boots := x.boots + (x.epochs.map (·.2)).sum + 1 } }) ∧
    (∀ (u : SlotId) (x : Seam) (a : Act) (h : Word) (np ns : Nat) (p q : Bool) (v w : Word),
      s.seams.find? (fun y => y.primary == u) = some x → s.actAt u = some a → x.hp = some (v, p, np) → x.hs = some (w, q, ns) →
      (p = q → ∃ t s1 : State, exec (.seamCheck u h h) s = .next t ∧ t = s1.seamMatch x p np ns ∧ s1.acts = s.acts ∧
        s1.mem = s.mem) ∧
      (∀ h2, h2 ≠ h ∨ p ≠ q → a.retryable = true → a.msg.seam = false →
        ∃ t s1 : State, exec (.seamCheck u h h2) s = .next t ∧ t = (s1.killBoth u).putBack u a.mbx { a.msg with seam := true } ∧
          s1.acts = s.acts ∧ s1.mem = s.mem)) ∧
    (∀ (u : SlotId) (h1 h2 : Word), s.actAt u = none → exec (.seamCheck u h1 h2) s = .next s)

/-- R356-R365: a transmit request leaves as a frame, a frame that arrives is delivered or dropped, and what is not acknowledged is sent
again up to eight times. How frames are numbered and a returned or reported one is told from others is the model's (DESIGN CHOICE,
notes/assumptions/42.md, and 77.md for the SRC of a refusal); a refusal that has come back reaches the sender of the request as R362
lays it out. So is that a put's bytes are written by translation alone, without W and the rights table (DEDUCED,
notes/assumptions/60.md). -/
def Obligations.Fabric : Prop :=
  (∀ (port : BitVec 4) (q c : Nat) (m : Msg) (s : State),
    let p := port.toNat
    s.power ≠ .asleep → (s.port p).reqs = [] → m.cls ≠ 15 → (s.ctxAt c).grant.getLsbD p = true → requestOk m.payload = true →
    fieldLE m.payload 2 1 ≠ 1 →
    ∃ t, exec (.transmitRequest port q c m) s = .next t ∧ (t.port p).reqs = [] ∧
      (t.port p).out = (BitVec.ofNat 13 (fieldLE m.payload 0 2),
        { sfid := s.fid, saad := m.src, job := (s.port p).job, mode := BitVec.ofNat 8 (fieldLE m.payload 3 1)
          kind := BitVec.ofNat 8 (fieldLE m.payload 2 1), daad := BitVec.ofNat 32 (fieldLE m.payload 4 4)
          tag := BitVec.ofNat 32 (fieldLE m.payload 8 4), cls := BitVec.ofNat 4 (fieldLE m.payload 12 1)
          data := if fieldLE m.payload 2 1 = 2 then (m.payload.drop 16).take 72 else m.payload.drop 16
          no := { port := p, q, epoch := (s.port p).boots + ((s.port p).epochs.look (BitVec.ofNat 13 (fieldLE m.payload 0 2))).getD 0
                  n := ((s.port p).numbers.look (q, BitVec.ofNat 13 (fieldLE m.payload 0 2), BitVec.ofNat 32 (fieldLE m.payload 4 4),
                    BitVec.ofNat 8 (fieldLE m.payload 3 1))).getD 0 } }) :: (s.port p).out ∧
      (t.port p).sent.length = (s.port p).sent.length + 1 ∧
      (s.cycle + 16 * s.clock / 1000, Instr.retransmitTimeout port (BitVec.ofNat 13 (fieldLE m.payload 0 2))) ∈ t.agenda ∧
      t.mem = s.mem) ∧
  (∀ (port : BitVec 4) (q c : Nat) (m : Msg) (r2 : PortReq) (s s2 : State),
    let p := port.toNat
    let r : PortReq := { q, ctx := c, m }
    let s1 := s.modPort p fun x => { x with reqs := [r] }
    s.power ≠ .asleep → (s.port p).reqs = [] → m.cls ≠ 15 → (s.ctxAt c).grant.getLsbD p = true → requestOk m.payload = true →
    fieldLE m.payload 2 1 = 1 →
    (∀ b, State.readPut (8 * (512 + p) + q / 4) (fieldLE m.payload 32 4) s1 r = (.byte b, r2, s2) →
      exec (.transmitRequest port q c m) s = .next ((s2.sendPut p q (reqDfid m) (s2.frameOf p r2.m []) (fieldLE r2.m.payload 24 8)
        r2.got).nextReq p)) ∧
    (∀ g, State.readPut (8 * (512 + p) + q / 4) (fieldLE m.payload 32 4) s1 r = (.wait g, r2, s2) →
      exec (.transmitRequest port q c m) s = .next ((s2.modPort p fun x => { x with reqs := [{ r2 with waits := some g }] }).startWalk
        r2.ctx (512 + p) g .engine)) ∧
    (∀ a cause, State.readPut (8 * (512 + p) + q / 4) (fieldLE m.payload 32 4) s1 r = (.fault a cause, r2, s2) →
      exec (.transmitRequest port q c m) s = .next ((s2.failPut (8 * (512 + p) + q / 4) r2 a cause).nextReq p))) ∧
  (∀ (p q remote : Nat) (dfid : BitVec 13) (f : Frame) (data : List Byte) (s : State), p < 16 →
    ((s.sendPut p q dfid f remote data).port p).out.length = (s.port p).out.length + (data.length + 4095) / 4096 ∧
    ∀ i, 4096 * i < data.length → ∃ no, (dfid, { f with
      no, data := (data.drop (4096 * i)).take 4096, remote := BitVec.ofNat 64 (remote + 4096 * i), part := i,
      more := decide (4096 * (i + 1) < data.length) }) ∈
      ((s.sendPut p q dfid f remote data).port p).out) ∧
  (∀ (port : BitVec 4) (q c : Nat) (m : Msg) (s : State), s.power ≠ .asleep → (s.port port.toNat).reqs = [] → m.cls ≠ 15 →
    m.node = none → m.src.msb = true →
    let core := 8 * (512 + port.toNat) + q / 4
    ((s.ctxAt c).grant.getLsbD port.toNat = false →
      exec (.transmitRequest port q c m) s = .next (s.inject c core (refusalMsg m 3 m.dst))) ∧
    ((s.ctxAt c).grant.getLsbD port.toNat = true → requestOk m.payload = false →
      exec (.transmitRequest port q c m) s = .next (s.inject c core (refusalMsg m 7 m.dst)))) ∧
  (∀ (port : BitVec 4) (s : State), s.power = .asleep → (∀ f, exec (.frameReceive port f) s = .next s) ∧
    (∀ q c m, exec (.transmitRequest port q c m) s = .next s) ∧ ∀ d, exec (.retransmitTimeout port d) s = .next s) ∧
  (∀ (port : BitVec 4) (c : Nat) (f : Frame) (s : State),
    let p := port.toNat
    s.power ≠ .asleep → f.kind = 0 ∨ f.kind = 2 → f.mode.toNat ≤ 2 → f.data.length ≤ 4096 → f.trimmed = false →
    (s.port p).ctx = some c → f.job = (s.port p).job →
    aadOk (f.daad.setWidth 64) = true → (s.ctxAt c).mayReach (nodeOf (aadCore f.daad)) = true →
    (s.port p).early f = false → (s.port p).duplicate f = false →
    ∃ t u : State, exec (.frameReceive port f) s = .next t ∧
      u = s.inject c (8 * (512 + p))
        { dst := if f.kind = 0 then f.daad else aadOf (8 * (512 + p) + fieldLE f.data 0 8 % 4) (aadMbx f.daad), cls := f.cls, rel := false
          src := aadOf (8 * (512 + p)) 63, tag := f.tag, payload := portHeader f ++ f.data } ∧
      (t.port p).digest = feedDigest (s.port p).digest (portHeader f) f.data ∧ t.agenda = u.agenda ∧ t.mem = s.mem ∧
      (f.mode ≠ 2 → (t.port p).duplicate f = true)) ∧
  (∀ (port : BitVec 4) (c : Nat) (f : Frame) (s : State),
    let p := port.toNat
    s.power ≠ .asleep → f.kind = 1 → f.mode.toNat ≤ 2 → f.data.length ≤ 4096 → f.trimmed = false →
    (s.port p).ctx = some c → f.job = (s.port p).job →
    aadOk (f.daad.setWidth 64) = true → (s.ctxAt c).mayReach (nodeOf (aadCore f.daad)) = true →
    (s.port p).early f = false → (s.port p).duplicate f = false →
    (s.putPages c (8 * (512 + p)) f.remote.toNat f.data.length = none →
      let u := s.niWrite c (8 * (512 + p)) f.remote.toNat f.data
      ∃ t, exec (.frameReceive port f) s = .next t ∧ t.mem = u.mem ∧
        t.agenda = if f.more then u.agenda else (u.inject c (8 * (512 + p))
          { dst := f.daad, cls := f.cls, rel := true, src := aadOf (8 * (512 + p)) 63, tag := f.tag, payload := portHeader f }).agenda) ∧
    (∀ g, s.putPages c (8 * (512 + p)) f.remote.toNat f.data.length = some g →
      exec (.frameReceive port f) s = .next ((s.startWalk c (512 + p) g .engine).after 1 (.frameReceive port f)))) ∧
  (∀ (port : BitVec 4) (c : Nat) (f : Frame) (s : State),
    let p := port.toNat
    s.power ≠ .asleep → f.kind = 0xF1 → f.mode.toNat ≤ 2 → f.data.length ≤ 4096 → f.trimmed = false →
    (s.port p).ctx = some c → f.job = (s.port p).job →
    aadOk (f.daad.setWidth 64) = true → (s.ctxAt c).mayReach (nodeOf (aadCore f.daad)) = true →
    (s.port p).early f = false → (s.port p).duplicate f = false →
    ∃ t u : State, exec (.frameReceive port f) s = .next t ∧
      u = s.inject c (8 * (512 + p))
        { dst := f.daad, cls := 15, col := 1, src := aadOf (8 * (512 + p)) 63, tag := f.tag
          payload := f.data.take 72 ++ bytesLE 2 f.sfid.toNat ++ List.replicate 38 0 } ∧
      t.agenda = u.agenda ∧ t.mem = s.mem ∧ (t.port p).digest = (s.port p).digest ∧
      (t.port p).out.length = (s.port p).out.length + 1 ∧ (f.mode ≠ 2 → (t.port p).duplicate f = true)) ∧
  (∀ (port : BitVec 4) (f : Frame) (s : State),
    let p := port.toNat
    s.power ≠ .asleep → f.kind.toNat ≤ 2 ∨ f.kind = 0xF1 → f.mode.toNat ≤ 2 → f.data.length ≤ 4096 → f.trimmed = true →
    ∃ t, exec (.frameReceive port f) s = .next t ∧ t.mem = s.mem ∧ t.agenda = s.agenda ∧ (t.port p).taken = (s.port p).taken ∧
      (t.port p).drops = (s.port p).drops ∧
      (t.port p).out = (f.sfid, { f with sfid := s.fid, daad := f.saad, saad := f.daad, kind := 0xF3, data := [], trimmed := false }) ::
        (s.port p).out) ∧
  (∀ (port : BitVec 4) (f : Frame) (y : Sent) (s : State),
    let p := port.toNat
    s.power ≠ .asleep → (s.port p).sent.find? (frameAnswers f) = some y →
    (f.kind = 0xF3 → ∃ t, exec (.frameReceive port f) s = .next t ∧ (t.port p).out = (y.dfid, y.f) :: (s.port p).out ∧
      (t.port p).sent = (s.port p).sent ∧ t.mem = s.mem) ∧
    (f.kind = 0xF2 → ∃ t u : State, exec (.frameReceive port f) s = .next t ∧ t = u.peerNotice p 2 (if y.f.kind = 0xF1 then 0 else 1) f.sfid ∧ u.mem = s.mem ∧
      u.agenda = s.agenda ∧ (u.port p).sent = (s.port p).sent.filter fun z => requestOf z != requestOf y)) ∧
  (∀ (port : BitVec 4) (c : Nat) (f : Frame) (s : State),
    let p := port.toNat
    s.power ≠ .asleep → f.kind.toNat ≤ 2 ∨ f.kind = 0xF1 → f.mode.toNat ≤ 2 → f.data.length ≤ 4096 → f.trimmed = false →
    (s.port p).ctx = some c → f.job = (s.port p).job →
    aadOk (f.daad.setWidth 64) = true → (s.ctxAt c).mayReach (nodeOf (aadCore f.daad)) = true →
    (s.port p).early f = true ∨ (s.port p).duplicate f = true →
    ∃ t, exec (.frameReceive port f) s = .next t ∧ (t.port p).digest = (s.port p).digest ∧ t.agenda = s.agenda ∧ t.mem = s.mem ∧
      t.mbxs = s.mbxs ∧ (t.port p).taken = (s.port p).taken) ∧
  (∀ (port : BitVec 4) (f : Frame) (s : State),
    let p := port.toNat
    s.power ≠ .asleep → f.kind = 0xF0 → ∃ t, exec (.frameReceive port f) s = .next t ∧ t.agenda = s.agenda ∧ t.mem = s.mem ∧
      (t.port p).sent = (s.port p).sent.filter fun y =>
        !(y.dfid == f.sfid && y.f.daad == f.saad && y.f.mode == f.mode && y.f.no == f.no)) ∧
  (∀ (port : BitVec 4) (f : Frame) (s : State),
    let p := port.toNat
    s.power ≠ .asleep → f.kind.toNat ≤ 2 ∨ f.kind = 0xF1 → f.mode.toNat ≤ 2 → f.data.length ≤ 4096 → f.trimmed = false →
    (s.port p).early f = false →
    (s.port p).ctx = none ∨ f.job ≠ (s.port p).job ∨ aadOk (f.daad.setWidth 64) = false ∨
      (∃ c, (s.port p).ctx = some c ∧ (s.ctxAt c).mayReach (nodeOf (aadCore f.daad)) = false) →
    ∃ t, exec (.frameReceive port f) s = .next t ∧ (t.port p).drops = (s.port p).drops + 1 ∧ t.agenda = s.agenda ∧
      t.mem = s.mem ∧ (t.port p).out.length = (s.port p).out.length + 1) ∧
  (∀ (port : BitVec 4) (f : Frame) (s : State),
    let p := port.toNat
    s.power ≠ .asleep → (2 < f.kind.toNat ∧ f.kind.toNat < 0xF0) ∨ 0xF3 < f.kind.toNat ∨
      ((f.kind.toNat ≤ 2 ∨ f.kind = 0xF1) ∧ (2 < f.mode.toNat ∨ 4096 < f.data.length)) →
    ∃ t, exec (.frameReceive port f) s = .next t ∧ (t.port p).drops = (s.port p).drops + 1 ∧ t.agenda = s.agenda ∧
      t.mem = s.mem ∧ (t.port p).out = (s.port p).out) ∧
  (∀ (port : BitVec 4) (dfid : BitVec 13) (y : Sent) (l : List Sent) (s : State),
    let p := port.toNat
    s.power ≠ .asleep → (s.port p).sent = y :: l → y.dfid = dfid → y.due ≤ s.cycle → y.tries < 8 →
    ∃ t, exec (.retransmitTimeout port dfid) s = .next t ∧ (t.port p).out = (dfid, y.f) :: (s.port p).out ∧
      (t.port p).sent = { y with tries := y.tries + 1, due := s.cycle + 16 * s.clock / 1000 * 2 ^ (y.tries + 1) } :: l ∧
      (s.cycle + 16 * s.clock / 1000 * 2 ^ (y.tries + 1), Instr.retransmitTimeout port dfid) ∈ t.agenda) ∧
  (∀ (port : BitVec 4) (dfid : BitVec 13) (y : Sent) (l : List Sent) (s : State),
    let p := port.toNat
    s.power ≠ .asleep → (s.port p).sent = y :: l → y.dfid = dfid → y.due ≤ s.cycle → 8 ≤ y.tries →
    ∃ t, exec (.retransmitTimeout port dfid) s = .next t ∧ t.mem = s.mem ∧ (∃ (u : State) (n : Word), t = u.peerNotice p 1 n dfid) ∧ (∀ x ∈ (t.port p).sent, x.dfid ≠ dfid) ∧
      (∀ r ∈ (t.port p).reqs, reqDfid r.m ≠ dfid)) ∧
  (∀ (r : PortReq) (core slot gate a : Nat) (i : Issuer) (x : Act) (s : State), r.m.issuer = some i → core = aadCore r.m.src →
    slot = i.slot % 8 → s.actAt { ctx := r.ctx, core, slot } = some x → x.startAt = i.born →
    s.putWho r core = { sid := { ctx := r.ctx, core, slot }, own := true, dom := i.dom, windows := i.windows, win := none } ∧
    r.coreAt gate a = if a < 2 ^ 55 then gate else core) ∧
  (∀ (port : BitVec 4) (dfid : BitVec 13) (s : State), (∀ y ∈ (s.port port.toNat).sent, y.dfid = dfid → s.cycle < y.due) →
    exec (.retransmitTimeout port dfid) s = .next s)

/-! ## Traps, frames -/

/-- R22, R40, R84-R87, R109, R137, R153, R208: faults before any effect. An unprivileged activation parks at a privileged instruction
with notice 0x0003, INFO all ones, and at SRD and SWR of a register marked RWP with the register's number; a misaligned strong access
parks with 0x0007; ASFORK while STRM is 1, AEND by the main stream, END by the access stream or with entries left in queue registers
park with 0x0005; END with a record in the thimble parks with 0x0012; END waits for the access stream. The INFO of 0x0007, which the
manual does not give, is a free value (DESIGN CHOICE, notes/assumptions/7.md). That ST.s and STREL read their data before their address
is the model's choice as well (DESIGN CHOICE, notes/assumptions/11.md), and that END waits before it issues its reading (DEDUCED,
notes/assumptions/47.md). A load whose first byte fails parks with 0x0008, REASON the cause and INFO the byte's address (R153), and one
whose page has no translation waits for its walk, or parks with cause 8 once Pelson has refused it; VLDF at a local address, outside
every window, off a block's boundary or in a sparse window parks with 0x0006 (R109). -/
def Obligations.Traps : Prop :=
  ∀ (h : Hdr) (s : State), Ready h s →
    (s.isPriv = false →
      let parked : Out := .next (s.park { code := 0x0003, info := BitVec.allOnes 64 })
      (∀ m b c, exec (.mbcfgBob h m b c) s = parked) ∧
      (∀ acc k x y z, exec (.mmasx h acc k x y z) s = parked) ∧
      (∀ ts a b, exec (.ckpt h ts a b) s = parked) ∧
      (∀ sc b, exec (.tlbinvPage h sc b) s = parked) ∧
      (∀ sc, exec (.tlbinvAll h sc) s = parked) ∧
      (∀ b c, exec (.cstop h b c) s = parked ∧ exec (.cstopGo h b c) s = parked) ∧
      (∀ e c, exec (.gsigSet h e c) s = parked) ∧
      (s.ownsSupv s.cctx s.idCore s.act.actor = false →
        (∀ a b c, exec (.winmap h a b c) s = parked ∧ exec (.resume h a b c) s = parked ∧ exec (.killAct h a b c) s = parked) ∧
        ∀ a b, exec (.killActor h a b) s = parked ∧ exec (.killGrp h a b) s = parked)) ∧
    (s.isPriv = false →
      let parked (n : Nat) : Out := .next (s.park { code := 0x0003, info := BitVec.ofNat 64 n })
      (∀ a, exec (.srd h a .mlen) s = parked 18 ∧ exec (.srd h a .hbud) s = parked 19 ∧ exec (.srd h a .logp) s = parked 20 ∧
        exec (.srd h a .sfqh) s = parked 21 ∧ exec (.srd h a .mqw) s = parked 22 ∧ exec (.srd h a .supv) s = parked 23) ∧
      ∀ b, exec (.swrMlen h b) s = parked 18 ∧ exec (.swrHbud h b) s = parked 19 ∧ exec (.swrLogp h b) s = parked 20 ∧
        exec (.swrSfqh h b) s = parked 21 ∧ exec (.swrMqw h b) s = parked 22 ∧ exec (.swrSupv h b) s = parked 23) ∧
    (∀ (sz : Size) (u : Bool) (sc : Scope) (a : GQ) (m : MemOp) (x : Word) (s1 : State),
      Gives (memAddr m) s x s1 → Gives (roomG a) s1 () s1 → x.toNat % sz.bytes ≠ 0 →
      exec (.ld h sz u true a m) s = .next (s.park { code := 0x0007, openInfo := true }) ∧
      exec (.ldacq h sc sz u a m) s = .next (s.park { code := 0x0007, openInfo := true })) ∧
    (∀ (sz : Size) (sc : Scope) (a : GQ) (m : MemOp) (v x : Word) (s1 s2 : State),
      Gives (readG a) s v s1 → Gives (memAddr m) s1 x s2 → x.toNat % sz.bytes ≠ 0 →
      exec (.st h sz true a m) s = .next (s.park { code := 0x0007, openInfo := true }) ∧
      exec (.strel h sc sz a m) s = .next (s.park { code := 0x0007, openInfo := true })) ∧
    (∀ (sz : Size) (u : Bool) (a : GQ) (m : MemOp) (x : Word) (s1 : State), Gives (memAddr m) s x s1 → Gives (roomG a) s1 () s1 →
      (∀ q, s1.place s1.who x.toNat .read = .error (.cause q) → exec (.ld h sz u false a m) s =
        .next (s.park { code := 0x0008, reason := q, info := x, pages := [x.toNat, x.toNat] })) ∧
      (∀ g, s1.place s1.who x.toNat .read = .error (.walk g) →
        ((s1.act.str s1.cur.stream).refused = some g → exec (.ld h sz u false a m) s =
          .next (s.park { code := 0x0008, reason := 8, info := x, pages := [x.toNat] })) ∧
        ((s1.act.str s1.cur.stream).refused ≠ some g → exec (.ld h sz u false a m) s = .next (s.waitGranule g .load)))) ∧
    (∀ (f : VldfForm) (rm : Rm) (a : VQ) (b : GQ) (disp : BitVec 24) (x : Word) (s1 : State),
      let y := x + disp.signExtend 64
      let parked (l : List Nat) : Out := .next (s.park { code := 0x0006, openInfo := true, pages := l })
      Gives (readG b) s x s1 → Gives (roomV a) s1 () s1 →
      (2 ^ 55 ≤ y.toNat → y.toNat < 2 ^ 56 → exec (.vldf h f rm a b disp) s = parked []) ∧
      (∀ p e, y.toNat < 2 ^ 55 → s1.place s1.who y.toNat .read = .ok (.glob p e) →
        ((s1.ctxAt s1.cctx).fwinAt p = none → exec (.vldf h f rm a b disp) s = parked [y.toNat]) ∧
        (∀ w l, (s1.ctxAt s1.cctx).fwinAt p = some w → Gives (placesM y (blockBytes w.fmt) .read) s1 l s1 →
          (p - w.base) % blockBytes w.fmt ≠ 0 ∨ w.fmt = 5 → exec (.vldf h f rm a b disp) s = parked [y.toNat]))) ∧
    (s.act.strm = true → ∀ off, exec (.asfork h off) s = .next (s.park { code := 0x0005, info := 2 })) ∧
    (s.cur.stream = .main → exec (.aend h) s = .next (s.park { code := 0x0005, info := 3 })) ∧
    (s.cur.stream = .access → exec (.endAct h) s = .next (s.park { code := 0x0005, info := 1 })) ∧
    (s.cur.stream = .main → s.act.thimble ≠ [] → exec (.endAct h) s = .next (s.park { code := 0x0012, reason := 5 })) ∧
    (s.cur.stream = .main → s.act.thimble = [] → s.act.strm = false → s.act.queuesEmpty = false →
      exec (.endAct h) s = .next (s.park { code := 0x0005, info := 4 })) ∧
    (s.cur.stream = .main → s.act.thimble = [] →
      s.act.strm = true ∨ (s.act.queuesEmpty = true ∧ (s.act.checks ≠ [] ∨ s.act.storeFault = true)) →
      exec (.endAct h) s = .next (s.waitOn .ending))

/-- R67-R83, R92-R106, R116-R120, R124-R133, R135-R151: the frame of the instructions that touch registers only, and of the memory
instructions. Where one completes, every register but its destinations, every other activation, all of memory and everything else stay
as they were (a queue register that is read or written changes, and the floating-point ones may raise events after that); where one does
not, its stream is held or the activation parks. A vector source that is bound to a stream generator reads memory (R114): there, all
registers but the destinations stay. A load and a fence or a cache instruction change no other register and no other activation, a load
of local addresses nothing else; a store with no byte in the own registers or behind the window changes no register, and no byte of
memory where its entry fits the outbound buffer, for it is performed later. (A load of a global address may fill caches, and so write
other lines back.) -/
def Obligations.RegisterFrames : Prop :=
  (∀ (i : Instr) (h : Hdr) (a : GQ) (s t : State), scalarDest i = some (h, a) → Ready h s → exec i s = .next t →
    (∃ u, t = u.retire h ∧ OnlyAct s u ∧ u.act = { s.act with g := u.act.g, qg := u.act.qg, dirtyWs := u.act.dirtyWs } ∧
      ∀ j, a ≠ .g j → u.act.getG j = s.act.getG j) ∨ ∃ e, t = s.stopped e) ∧
  (∀ (h : Hdr) (cond : ICond) (sz : Size) (x : Bool) (p : BitVec 3) (b : GQ) (c : Src2) (s t : State), Ready h s →
    exec (.cmp h cond sz x p b c) s = .next t →
    (∃ u, t = u.retire h ∧ OnlyAct s u ∧ u.act = { s.act with p := u.act.p, qg := u.act.qg, dirtyWs := u.act.dirtyWs } ∧
      ∀ j, j ≠ p → u.act.getP j = s.act.getP j) ∨ ∃ e, t = s.stopped e) ∧
  (∀ (h : Hdr) (f : BitVec 4) (a b c : BitVec 3) (s t : State), Ready h s → exec (.plog h f a b c) s = .next t →
    ∃ u, t = u.retire h ∧ OnlyAct s u ∧ u.act = { s.act with p := u.act.p, dirtyWs := u.act.dirtyWs } ∧
      ∀ j, j ≠ a → u.act.getP j = s.act.getP j) ∧
  (∀ (h : Hdr) (f : BitVec 4) (a b c : BitVec 3) (s t : State), Ready h s → exec (.klog h f a b c) s = .next t →
    ∃ u, t = u.retire h ∧ OnlyAct s u ∧ u.act = { s.act with k := u.act.k, dirtyWs := u.act.dirtyWs } ∧
      ∀ j, j ≠ a → u.act.getK j = s.act.getK j) ∧
  (∀ (i : Instr) (h : Hdr) (a : BitVec 5) (s t : State), jumpDest i = some (h, a) → Ready h s → exec i s = .next t →
    (∃ u pc, t = u.retireTo h pc ∧ OnlyAct s u ∧ u.act = { s.act with g := u.act.g, qg := u.act.qg, dirtyWs := u.act.dirtyWs } ∧
      ∀ j, j ≠ a → u.act.getG j = s.act.getG j) ∨ ∃ e, t = s.stopped e) ∧
  (∀ (h : Hdr) (cond : FCond) (fmt : FFmt) (p : BitVec 3) (b : GQ) (c : Src2) (s t : State), Ready h s →
    exec (.fcmp h cond fmt p b c) s = .next t →
    (∃ u fl, t = (u.retire h).raise s.pc fl ∧ OnlyAct s u ∧ u.act = { s.act with p := u.act.p, qg := u.act.qg, dirtyWs := u.act.dirtyWs } ∧
      ∀ j, j ≠ p → u.act.getP j = s.act.getP j) ∨ ∃ e, t = s.stopped e) ∧
  (∀ (h : Hdr) (f : PmovForm) (s t : State), Ready h s → exec (.pmov h f) s = .next t →
    (∃ u, t = u.retire h ∧ OnlyAct s u ∧
      u.act = { s.act with g := u.act.g, p := u.act.p, qg := u.act.qg, dirtyWs := u.act.dirtyWs } ∧
      match f with
      | .pp a _ | .pg a _ => u.act.g = s.act.g ∧ ∀ j, j ≠ a → u.act.getP j = s.act.getP j
      | .gp a _ | .pack a => u.act.p = s.act.p ∧ ∀ j, a ≠ .g j → u.act.getG j = s.act.getG j
      | .unpack _ => u.act.g = s.act.g) ∨ ∃ e, t = s.stopped e) ∧
  (∀ (h : Hdr) (f : KmovForm) (s t : State), Ready h s → exec (.kmov h f) s = .next t →
    (∃ u, t = u.retire h ∧ OnlyAct s u ∧
      u.act = { s.act with g := u.act.g, k := u.act.k, qg := u.act.qg, dirtyWs := u.act.dirtyWs } ∧
      match f with
      | .kk a _ | .kg a _ | .first a _ => u.act.g = s.act.g ∧ ∀ j, j ≠ a → u.act.getK j = s.act.getK j
      | .gk a _ => u.act.k = s.act.k ∧ ∀ j, a ≠ .g j → u.act.getG j = s.act.getG j) ∨ ∃ e, t = s.stopped e) ∧
  (∀ (h : Hdr) (op : VCmpOp) (mk k : BitVec 3) (b : VQ) (c : VSrc) (s t : State), Ready h s → exec (.vcmp h op mk k b c) s = .next t →
    (∃ u fl, t = (u.retire h).raise s.pc fl ∧ u.act.g = s.act.g ∧ u.act.p = s.act.p ∧ u.act.d = s.act.d ∧ u.act.n = s.act.n ∧
      u.act.v = s.act.v ∧ (∀ j, j ≠ k → u.act.getK j = s.act.getK j) ∧
      ((∀ i, s.act.boundTo i = none) → OnlyAct s u ∧
        u.act = { s.act with k := u.act.k, qg := u.act.qg, qv := u.act.qv, dirtyWs := u.act.dirtyWs })) ∨ ∃ e, t = s.stopped e) ∧
  (∀ (h : Hdr) (mk : BitVec 3) (a b : VQ) (c : VSrc) (s t : State), Ready h s → exec (.vsel h mk a b c) s = .next t →
    (∀ i, a = .v i → s.act.boundTo i = none) →
    (∃ u, t = u.retire h ∧ u.act.g = s.act.g ∧ u.act.p = s.act.p ∧ u.act.d = s.act.d ∧ u.act.n = s.act.n ∧ u.act.k = s.act.k ∧
      (∀ j, a ≠ .v j → u.act.v[j.toNat] = s.act.v[j.toNat]) ∧
      ((∀ i, s.act.boundTo i = none) → OnlyAct s u ∧
        u.act = { s.act with v := u.act.v, qg := u.act.qg, qv := u.act.qv, dirtyWs := u.act.dirtyWs })) ∨ ∃ e, t = s.stopped e) ∧
  (∀ (i : Instr) (h : Hdr) (r : Dests) (s t : State), registerDests i = some (h, r) → Ready h s → exec i s = .next t →
    (∀ j, VQ.v j ∈ r.v → s.act.boundTo j = none) →
    (∃ u fl, (t = u.retire h ∨ t = (u.retire h).raise s.pc fl) ∧ Kept r s u ∧
      ((∀ j, s.act.boundTo j = none) → OnlyAct s u ∧ u.act = { s.act with g := u.act.g, v := u.act.v, d := u.act.d, n := u.act.n
                                                                          p := u.act.p, qg := u.act.qg, qv := u.act.qv
                                                                          dirtyWs := u.act.dirtyWs })) ∨ ∃ e, t = s.stopped e) ∧
  (∀ (i : Instr) (h : Hdr) (r : Dests) (s t : State), loadDests i = some (h, r) → Ready h s → exec i s = .next t →
    (∀ j, VQ.v j ∈ r.v → s.act.boundTo j = none) →
    (∃ u fl, (t = u.retire h ∨ t = (u.retire h).raise s.pc fl) ∧ Kept r s u ∧ (∀ k, k ≠ s.cur.sid → u.actAt k = s.actAt k) ∧
      u.act = { s.act with g := u.act.g, v := u.act.v, d := u.act.d, n := u.act.n, qg := u.act.qg, qv := u.act.qv, gens := u.act.gens
                           stale := u.act.stale, dirtyWs := u.act.dirtyWs }) ∨ ∃ e, t = s.stopped e) ∧
  (∀ (x : Word) (n : Nat) (strong : Bool) (bs : List Byte) (s t : State), Gives (loadM x n strong) s bs t →
    (∀ i, i < n → 2 ^ 55 ≤ (x + BitVec.ofNat 64 i).toNat) → t = s ∧ bs.length = n) ∧
  (∀ (kind : StoreKind) (x : Word) (l : List (Nat × Byte)) (scalar : Bool) (s t : State), Gives (storeM kind x l scalar) s () t →
    (∀ p ∈ l, s.directPlace p.1 = none) → Kept {} s t ∧
    (∀ strong rel, kind = .plain strong rel → s.act.outUsed + storeSize scalar l.length ≤ 4096 → t.mem = s.mem ∧
      ∀ k, k ≠ s.cur.sid → t.actAt k = s.actAt k)) ∧
  (∀ (i : Instr) (h : Hdr) (s t : State), cacheHdr i = some h → Ready h s → exec i s = .next t →
    (∃ u, t = u.retire h ∧ Kept {} s u ∧ ∀ k, k ≠ s.cur.sid → u.actAt k = s.actAt k) ∨ ∃ e, t = s.stopped e)

/-! ## The step, reset, memory -/

/-- R14, R33, R35, R36, R39, R44, R192, R195, R196, R226, R316, R331, R346: a step of a booted module performs the earliest event that
is due; otherwise it fetches 12 bytes for the next candidate stream, unless it holds a word fetched before, and executes what they
decode to, in the domain of their page; a submission that reaches the graph unit comes behind the instructions of its cycle; with no
candidate the cycle ends. Words that R39 calls illegal park with 0x0001, before a breakpoint is looked for. That any other due event
comes first, then an instruction, and the end of the cycle last (DESIGN CHOICE, notes/assumptions/5.md), that a PC with a bit above 54
set counts as local (DEDUCED, 12.md), and that a module which sleeps or is in reset does nothing but wake, boot and be reset (DESIGN
CHOICE, notes/assumptions/75.md) are the model's choices. The bytes come from the level-zero instruction cache, where that holds their
line, or through the cluster's from the home. -/
def Obligations.StepRunsDecoded : Prop :=
  (∀ (d : Nat) (i : Instr) (l : List (Nat × Instr)) (s : State), s.agenda = (d, i) :: l → d ≤ s.cycle →
    (behindIssue i = false →
      (s.power = .booted ∨ actsOff i = true → step s = exec i { s with agenda := l }) ∧
      (s.power ≠ .booted → actsOff i = false → step s = .next { s with agenda := l })) ∧
    (behindIssue i = true → s.power = .booted → s.nextCandidate = none → (∀ e ∈ l, e.1 ≤ s.cycle → behindIssue e.2 = true) →
      step s = exec i { s with agenda := l })) ∧
  (∀ i : Instr, behindIssue i = true ↔ ∃ c d m cl dom ws a, i = .nodeAccept c d m cl dom ws a) ∧
  (∀ s : State, s.power ≠ .booted → (∀ d i l, s.agenda = (d, i) :: l → s.cycle < d) → step s = .next s.tickOff) ∧
  (∀ s : State, s.power = .booted → (∀ d i l, s.agenda = (d, i) :: l → s.cycle < d) → s.nextCandidate = none → step s = .next s.tick) ∧
  (∀ s : State, s.tick.cycle = s.cycle + 1 ∧ s.tickOff.cycle = s.cycle + 1) ∧
  (∀ (s s1 : State) (t : SlotId) (x : Stream) (a : Act) (dom : BitVec 6) (w : IWord),
    let s0 : State := { s with cur := { sid := t, stream := x, dom := (a.str x).fromDom, word := 0 } }
    let s2 := ({ s1 with cur := { sid := t, stream := x, dom, word := w } } : State).modAct fun b =>
      b.setStr x { b.str x with fetched := some (dom, w) }
    let bp := s2.breakpointAt t.ctx (match s2.cactor? with | some k => k.aid | none => 0) x (a.str x).pc
    s.power = .booted → (∀ e ∈ s.agenda, e.1 ≤ s.cycle → behindIssue e.2 = true) → s.nextCandidate = some (t, x) → s.actAt t = some a →
    ((a.str x).fetched = some (dom, w) ∧ s1 = s0) ∨ ((a.str x).fetched = none ∧
      s0.fetch t.ctx t.core (a.str x).fromDom (a.str x).arrival (a.str x).lastPc (a.str x).pc (a.str x).refused (a.str x).given =
        (.word dom w, s1)) →
    (∀ r, decodeWord w = .error r → step s = .next (s2.park { code := 0x0001, reason := r.code.toNat })) ∧
    (∀ i, decodeWord w = .ok i → (a.str x).answer.isSome = true → s2.late (t, x) = false → step s = exec i s2) ∧
    (∀ i, decodeWord w = .ok i → (a.str x).answer = none → (a.str x).skipBp = true ∨ bp = none →
      (s2.early i = true ∨ s2.act.awaits x w i = true → step s = .next (s2.hold 14)) ∧
      (s2.early i = false → s2.act.awaits x w i = false →
        s2.late (t, x) = false ∨ s2.candidateWith (fun r => r.1.core != t.core && !s2.late r) = none → step s = exec i s2)) ∧
    (∀ i n, decodeWord w = .ok i → (a.str x).answer = none → (a.str x).skipBp = false → bp = some n →
      step s = .next (s2.park { code := 0x0011, info := BitVec.ofNat 64 n, toDebug := true }))) ∧
  (∀ (s s1 : State) (t : SlotId) (x : Stream) (a : Act),
    let s0 : State := { s with cur := { sid := t, stream := x, dom := (a.str x).fromDom, word := 0 } }
    let got := s0.fetch t.ctx t.core (a.str x).fromDom (a.str x).arrival (a.str x).lastPc (a.str x).pc (a.str x).refused (a.str x).given
    s.power = .booted → (∀ e ∈ s.agenda, e.1 ≤ s.cycle → behindIssue e.2 = true) → s.nextCandidate = some (t, x) → s.actAt t = some a →
    (a.str x).fetched = none →
    (∀ n, got = (.fault n, s1) → step s = .next (s1.park n)) ∧ ∀ g, got = (.walk g, s1) → step s = .next (s1.waitGranule g .fetch)) ∧
  (∀ (s : State) (c core : Nat) (src : BitVec 6) (arr : Arrival) (last pc : Word) (no : Option Nat) (given : Option TlbEntry),
    let info : Word := if arr = .handler then 0 else last
    let fault (cause : Nat) (w : IWord) : Fetched :=
      .fault { code := 0x0010, reason := cause, info, pc := some pc, word := some w, dom := some src }
    (120 ≤ pc.toNat % 128 ∨ pc.toNat % 128 % 12 ≠ 0 → s.fetch c core src arr last pc no given =
      (.fault { code := 0x0002, info := pc, pc := some pc, word := some 0 }, s)) ∧
    (pc.toNat % 128 < 120 → pc.toNat % 128 % 12 = 0 →
      (2 ^ 55 ≤ pc.toNat → s.fetch c core src arr last pc no given = (fault 5 0, s)) ∧
      (pc.toNat < 2 ^ 55 → s.xlatOr given c core pc.toNat = none → s.fetch c core src arr last pc no given =
        (if no = some (pc.toNat / 65536) then fault 6 0 else .walk (pc.toNat / 65536), s)) ∧
      (∀ e l, pc.toNat < 2 ^ 55 → s.xlatOr given c core pc.toNat = some e →
        icTouch (s.hwAt core).icache (e.phys pc.toNat / 128) = some l →
        let w : IWord := BitVec.ofNat 96 (fieldLE l.data (e.phys pc.toNat % 128) 12)
        (∀ n, (s.ctxAt c).entryCause src e.dom arr w = some n → e.x = false ∨ fieldLE l.data 120 8 = 0 →
          (s.fetch c core src arr last pc no given).1 = fault n w) ∧
        ((s.ctxAt c).entryCause src e.dom arr w = none → e.x = false → (s.fetch c core src arr last pc no given).1 = fault 4 0)))) ∧
  (∀ (x : Ctx) (src tgt : BitVec 6) (arr : Arrival) (w : IWord),
    let across := arr = .calld ∨ (arr ≠ .retd ∧ src ≠ tgt)
    let code := w.extractLsb' 88 8
    (¬across → x.entryCause src tgt arr w = none) ∧ (across → code ≠ 0xC0 → x.entryCause src tgt arr w = some 1) ∧
    (across → code = 0xC0 → arr = .handler → w.getLsbD 1 = false → x.entryCause src tgt arr w = some 2) ∧
    (across → code = 0xC0 → arr = .transfer → w.getLsbD 0 = false → x.entryCause src tgt arr w = some 2) ∧
    (across → code = 0xC0 → (arr = .handler → w.getLsbD 1 = true) → (arr = .transfer → w.getLsbD 0 = true) →
      x.entryCause src tgt arr w = if (x.right src tgt).getLsbD 3 then none else some 3)) ∧
  (∀ (s : State) (c core : Nat) (src : BitVec 6) (arr : Arrival) (last pc : Word) (no : Option Nat)
    (given : Option TlbEntry) (e : TlbEntry),
    let p := e.phys pc.toNat
    let code (bs : List Byte) : IWord := BitVec.ofNat 96 (fieldLE bs (p % 128) 12)
    let mem := (List.range 128).map fun i => s.mem.read (p - p % 128 + i)
    pc.toNat % 128 < 120 → pc.toNat % 128 % 12 = 0 → pc.toNat < 2 ^ 55 → s.xlatOr given c core pc.toNat = some e → e.x = true →
    (∀ l, icTouch (s.hwAt core).icache (p / 128) = some l → fieldLE l.data 120 8 = 0 →
      (s.ctxAt c).entryCause src e.dom arr (code l.data) = none →
      ∃ t, s.fetch c core src arr last pc no given = (.word e.dom (code l.data), t) ∧ t = { s with coreHw := t.coreHw, clHw := t.clHw }) ∧
    (icTouch (s.hwAt core).icache (p / 128) = none → icTouch (s.clHwAt (nodeOf core)).icache (p / 128) = none →
      (∀ home, ∀ y ∈ (s.clHwAt home).slice, y.under = []) → (∀ q, q < 8 → (s.sectorKeys.look (8 * (p / 128) + q)).getD e.key = e.key) →
      fieldLE mem 120 8 = 0 → (s.ctxAt c).entryCause src e.dom arr (code mem) = none →
      ∃ t, s.fetch c core src arr last pc no given = (.word e.dom (code mem), t) ∧ t.mem = s.mem ∧ t.acts = s.acts))

/-- R26, R27: an instruction occupies 12 bytes, and byte b holds bits 8b+7:8b of its word; the bytes at a program counter decode to what
their word decodes to. Words written out from the encodings of the manual decode to the instructions they stand for. -/
def Obligations.InstructionBytes : Prop :=
  (∀ w : IWord, (bytesOfWord w).length = 12 ∧ ∀ b, b < 12 → (bytesOfWord w)[b]? = some (w.extractLsb' (8 * b) 8)) ∧
  (∀ (w : IWord) (i : Instr) (l : List Byte), decodeWord w = .ok i → decodeBytes (bytesOfWord w ++ l) = .ok (i, l)) ∧
  decodeWord 0x10B28005006E0003FFFFFF9C = .ok (.add { grd := 0xB, rdy := 2, yld := true } .d false (.g 5) (.g 6) (.imm 0xFFFFFF9C)) ∧
  decodeWord 0x35700008E00E0000FFFFFFFE = .ok (.loop { grd := 7 } 8 0xFFFFFFFE) ∧
  decodeWord 0x40700005006E000200000010 = .ok (.ld { grd := 7 } .w false false (.g 5) { base := .g 6, index := none, disp := 16, loc := false }) ∧
  decodeWord 0x827002032012020000000000 = .ok (.baddq { grd := 7 } .tb8 false (.v 3) (.v 1) (.v 2)) ∧
  decodeWord 0xB07000140020154000000023 = .ok (.send { grd := 7 } true (.g 20) (.regs (.g 2) 2) 3 (some (.g 21))) ∧
  decodeWord 0xE5700E00C11E000000000005 = .ok (.waitc { grd := 7 } 1 (.imm 5)) ∧
  decodeWord 0xFA700005006E000200000000 = .ok (.killGrp { grd := 7 } (.g 5) (.g 6)) ∧
  decodeWord 0x00700E00E00E000000000000 = .error .opcode ∧ decodeWord 0x01F00E00E00E000000000000 = .error .guard

/-- R25-R39: decoding the encoding of a well-formed instruction gives the instruction; every well-formed instruction word has one. -/
def Obligations.EncodingRoundTrip : Prop :=
  ∀ (i : Instr) (h : Hdr), i.hdr? = some h → i.wf = true → ∃ w, encode i = some w ∧ decodeWord w = .ok i

/-- Every step keeps the memory canonical. -/
def Obligations.MemoryCanonicalStep : Prop := ∀ s t : State, memOk s → step s = .next t → memOk t

/-- R21, R44, R336, R337: what reset leaves: counters 0, nothing placed, nothing running; and the registers of a context, a core and a
cluster that nothing has written. The canonical form of the memory holds. That
memory which nothing has written reads 0 is the model's choice (DESIGN CHOICE, notes/assumptions/1.md). -/
def Obligations.ResetValues : Prop :=
  memOk State.reset ∧ (∀ a, State.reset.mem.read a = 0) ∧ State.reset.cycle = 0 ∧ State.reset.refTicks = 0 ∧
  State.reset.acts = [] ∧ State.reset.actors = [] ∧ State.reset.mbxs = [] ∧ State.reset.ctxs = [] ∧
  (∀ c, (State.reset.ctxAt c).svb = 0 ∧ (State.reset.ctxAt c).svl = 512 ∧ (State.reset.ctxAt c).mlen = 4 ∧
    (State.reset.ctxAt c).hbud = 32768 ∧ (State.reset.ctxAt c).sfqh = 0 ∧ (State.reset.ctxAt c).supv = 0 ∧
    (State.reset.ctxAt c).running = false) ∧
  (∀ core, (State.reset.hwAt core).logp = 0) ∧ (∀ cl, (State.reset.clHwAt cl).mqw = 0x11111111) ∧
  (∀ c core m, (State.reset.mbxAt c core m).kind = .unconfigured)

/-- R15, R16, R162, R242: little-endian bytes; the CLM of every core and the tile store of every cluster are memories of their own, apart
from each other and from physical memory; bytes written to CLM are read back, and no other byte changes. -/
def Obligations.MemorySpaces : Prop :=
  (∀ n x : Nat, ofBytesLE (bytesLE n x) = x % 256 ^ n) ∧
  (∀ c c' k k' o o' : Nat, k < 8192 → k' < 8192 → o < 2 ^ 40 → o' < 2 ^ 40 → clmKey c k o = clmKey c' k' o' →
    c = c' ∧ k = k' ∧ o = o') ∧
  (∀ c c' k k' o o' : Nat, k < 512 → k' < 512 → o < 2 ^ 40 → o' < 2 ^ 40 → tileKey c k o = tileKey c' k' o' →
    c = c' ∧ k = k' ∧ o = o') ∧
  (∀ c c' k k' o o' p : Nat, o < 2 ^ 40 → o' < 2 ^ 40 → p < 2 ^ 40 →
    clmKey c k o ≠ tileKey c' k' o' ∧ clmKey c k o ≠ p ∧ tileKey c' k' o' ≠ p) ∧
  (∀ (s : State) (c core off : Nat) (bs : List Byte) (a : Nat), memOk s →
    (s.writeClmBytes c core off bs).mem.read a =
      if clmKey c core off ≤ a ∧ a < clmKey c core off + bs.length then bs.getD (a - clmKey c core off) 0 else s.mem.read a)
end

