-- ==== Sys2Proof/Laws/Memory.lean ====
section
/-! SUPPORT. Memory: a read after a write, and that every operation on memory keeps the canonical form. -/

namespace Sys2Proof.Machine

theorem wfFrom_le {m : Memory} {lo lo' : Nat} (h : Memory.wfFrom lo m = true) (e : lo' ≤ lo) : Memory.wfFrom lo' m = true := by
  cases m with
  | nil => rfl
  | cons x t =>
    simp only [Memory.wfFrom, Bool.and_eq_true, decide_eq_true_eq] at h ⊢
    exact ⟨⟨by omega, h.1.2⟩, h.2⟩

/-- Below the lowest listed address every byte reads as unlisted. -/
theorem read_below {m : Memory} {lo a : Nat} (h : Memory.wfFrom lo m = true) (e : a < lo) : m.read a = unlisted := by
  cases m with
  | nil => rfl
  | cons x t =>
    simp only [Memory.wfFrom, Bool.and_eq_true, decide_eq_true_eq] at h
    have : x.1 ≠ a := by omega
    simp [Memory.read, this, show a < x.1 by omega]

theorem cons_wf {lo a : Nat} {v : Byte} {t : Memory} (h : Memory.wfFrom (a + 1) t = true) (e : lo ≤ a) :
    Memory.wfFrom lo (Memory.cons a v t) = true := by
  unfold Memory.cons
  split
  · exact wfFrom_le h (by omega)
  · simp_all [Memory.wfFrom]

theorem write_wfFrom {m : Memory} {lo a : Nat} {v : Byte} (h : Memory.wfFrom lo m = true) (e : lo ≤ a) :
    Memory.wfFrom lo (m.write a v) = true := by
  induction m generalizing lo with
  | nil => exact cons_wf rfl e
  | cons x t ih =>
    obtain ⟨b, w⟩ := x
    have h' := h
    simp only [Memory.wfFrom, Bool.and_eq_true, decide_eq_true_eq] at h
    simp only [Memory.write]
    split
    · subst b; exact cons_wf h.2 e
    · split
      · refine cons_wf ?_ e
        simp only [Memory.wfFrom, Bool.and_eq_true, decide_eq_true_eq]
        exact ⟨⟨by omega, h.1.2⟩, h.2⟩
      · simp only [Memory.wfFrom, Bool.and_eq_true, decide_eq_true_eq]
        exact ⟨h.1, ih h.2 (by omega)⟩

/-- A write keeps the canonical form. -/
theorem write_wf {m : Memory} {a : Nat} {v : Byte} (h : m.wf = true) : (m.write a v).wf = true := write_wfFrom h (Nat.zero_le a)

theorem filter_wfFrom {m : Memory} {lo : Nat} (p : Host.Cell → Bool) (h : Memory.wfFrom lo m = true) :
    Memory.wfFrom lo (m.filter p) = true := by
  induction m generalizing lo with
  | nil => rfl
  | cons x t ih =>
    simp only [Memory.wfFrom, Bool.and_eq_true, decide_eq_true_eq] at h
    rw [List.filter_cons]
    split
    · simp only [Memory.wfFrom, Bool.and_eq_true, decide_eq_true_eq]; exact ⟨h.1, ih h.2⟩
    · exact wfFrom_le (ih h.2) (by omega)

/-- Dropping bytes keeps the canonical form. -/
theorem filter_wf {m : Memory} (p : Host.Cell → Bool) (h : m.wf = true) : Memory.wf (m.filter p) = true := filter_wfFrom p h

theorem cons_read {a b : Nat} {v : Byte} {t : Memory} (h : Memory.wfFrom (a + 1) t = true) :
    (Memory.cons a v t).read b = if b = a then v else t.read b := by
  unfold Memory.cons
  by_cases e : b = a
  · subst e
    split
    · rw [read_below h (by omega)]; simp_all
    · simp [Memory.read]
  · split
    · simp
    · by_cases l : b < a
      · simp [Memory.read, Ne.symm e, l, read_below h (by omega : b < a + 1)]
      · simp [Memory.read, Ne.symm e, l]

/-- A read after a write: the value written at its address, what was there elsewhere. -/
theorem read_write {m : Memory} {a : Nat} {v : Byte} (h : m.wf = true) (b : Nat) :
    (m.write a v).read b = if b = a then v else m.read b := by
  have go : ∀ (m : Memory) (lo : Nat), Memory.wfFrom lo m = true → (m.write a v).read b = if b = a then v else m.read b := by
    intro m
    induction m with
    | nil => intro lo _; simpa [Memory.write] using cons_read (t := []) (a := a) (b := b) (v := v) rfl
    | cons x t ih =>
      intro lo h
      obtain ⟨c, w⟩ := x
      have h' := h
      simp only [Memory.wfFrom, Bool.and_eq_true, decide_eq_true_eq] at h
      simp only [Memory.write]
      split
      · subst c
        rw [cons_read h.2]
        by_cases e : b = a
        · simp [e]
        · simp only [e, if_false, Memory.read]
          by_cases l : b < a
          · simp [Ne.symm e, l, read_below h.2 (by omega : b < a + 1)]
          · simp [Ne.symm e, l]
      · split
        · rw [cons_read]
          simp only [Memory.wfFrom, Bool.and_eq_true, decide_eq_true_eq]
          exact ⟨⟨by omega, h.1.2⟩, h.2⟩
        · have := ih (c + 1) h.2
          simp only [Memory.read]
          by_cases e : c = b
          · have : ¬ b = a := by omega
            simp [e, this]
          · by_cases l : b < c
            · have : ¬ b = a := by omega
              simp [e, l, this]
            · simp [e, l, this]
  exact go m 0 h

/-- A fold of operations that keep the canonical form keeps it. -/
theorem foldl_wf {α : Type} (f : Memory → α → Memory) (hf : ∀ m x, m.wf = true → (f m x).wf = true) (l : List α) {m : Memory}
    (h : m.wf = true) : (l.foldl f m).wf = true := by
  induction l generalizing m with
  | nil => exact h
  | cons x t ih => exact ih (hf m x h)

theorem writeWord_wf {m : Memory} {p : Nat} {w : Word} (h : m.wf = true) : (m.writeWord p w).wf = true :=
  foldl_wf _ (fun _ _ h => write_wf h) _ h

theorem clear_wf {m : Memory} {p n : Nat} (h : m.wf = true) : (m.clear p n).wf = true := filter_wf _ h

/-- A move of addresses builds a canonical memory, whatever it is given. -/
theorem moveAll_wf (m : Memory) (f : Nat → Option Nat) : (m.moveAll f).wf = true := by
  refine foldl_wf _ (fun q x h => ?_) m (m := []) rfl
  split
  · exact write_wf h
  · exact h

theorem copyRange_wf {m : Memory} {lo hi dest : Nat} (h : m.wf = true) : (m.copyRange lo hi dest).wf = true :=
  foldl_wf _ (fun _ _ h => write_wf h) _ (filter_wf _ h)

theorem mapPage_wf (va : Nat) (leaf : Word) (l : List (Nat × Nat × Nat)) (r : Memory × Nat) (tbl : Nat) (h : r.1.wf = true) :
    (Memory.mapPage va leaf l r tbl).1.wf = true := by
  induction l generalizing r tbl with
  | nil => exact h
  | cons x t ih =>
    obtain ⟨m, next⟩ := r
    obtain ⟨lv, sh, n⟩ := x
    cases t with
    | nil => exact writeWord_wf h
    | cons y t =>
      obtain ⟨lv2, sh2, n2⟩ := y
      simp only [Memory.mapPage]
      split
      · exact ih _ _ h
      · exact ih _ _ (writeWord_wf (clear_wf h))

/-- The memory right after reset is canonical. -/
theorem reset_wf : State.reset.mem.wf = true := rfl

end Sys2Proof.Machine
end

