-- ==== Sys2Proof/Laws/Monad.lean ====
section
/-! SUPPORT. The monad of the meanings and the wrappers of an instruction: what a computation that gives a value gives, and
once for each wrapper, everything it can do. -/

namespace Sys2Proof.Machine

/-! ## The monad -/

@[simp] theorem run_pure {α : Type} (x : α) (s : State) : (pure x : M α).run s = .ok (x, s) := rfl

theorem run_bind {α β : Type} (m : M α) (k : α → M β) (s : State) :
    (m >>= k).run s = match m.run s with | .ok r => (k r.1).run r.2 | .error e => .error e := by
  change (StateT.bind m k) s = _
  simp only [StateT.bind, StateT.run, bind, Except.bind]
  cases m s <;> rfl

@[simp] theorem ok_bind {α β : Type} (x : α) (f : α → Except Stop β) : (Except.ok x >>= f) = f x := rfl

@[simp] theorem error_bind {α β : Type} (e : Stop) (f : α → Except Stop β) : (Except.error e >>= f) = .error e := rfl

@[simp] theorem run_asks {α : Type} (f : State → α) (s : State) : (asks f).run s = .ok (f s, s) := rfl

@[simp] theorem run_change (f : State → State) (s : State) : (change f).run s = .ok ((), f s) := rfl

@[simp] theorem run_changeAct (f : Act → Act) (s : State) : (changeAct f).run s = .ok ((), s.modAct f) := rfl

@[simp] theorem run_stop {α : Type} (e : Stop) (s : State) : (stop e : M α).run s = .error e := rfl

@[simp] theorem run_parkM {α : Type} (n : Notice) (s : State) : (parkM n : M α).run s = .error (.park n) := rfl

theorem run_check (ok : Bool) (n : Notice) (s : State) :
    (check ok n).run s = if ok then .ok ((), s) else .error (.park n) := by
  unfold check; split <;> rfl

@[simp] theorem run_check_true (n : Notice) (s : State) : (check true n).run s = .ok ((), s) := rfl

@[simp] theorem run_readReg (i : BitVec 5) (s : State) : (readReg i).run s = .ok (s.act.getG i, s) := rfl

@[simp] theorem run_writeReg (i : BitVec 5) (v : Word) (s : State) :
    (writeReg i v).run s = .ok ((), s.modAct fun a => a.setG i v) := rfl

/-- A computation goes on from what its first part gives. -/
theorem bind_gives {α β : Type} {m : M α} {k : α → M β} {s t u : State} {x : α} {y : β} (h1 : Gives m s x t)
    (h2 : Gives (k x) t y u) : Gives (m >>= k) s y u := by
  unfold Gives at *; rw [run_bind, h1]; exact h2

/-- A computation stops where its first part stops. -/
theorem bind_stops {α β : Type} {m : M α} {k : α → M β} {s : State} {e : Stop} (h : Stops m s e) : Stops (m >>= k) s e := by
  unfold Stops at *; rw [run_bind, h]

/-- A computation stops where its second part stops. -/
theorem bind_stops' {α β : Type} {m : M α} {k : α → M β} {s t : State} {x : α} {e : Stop} (h1 : Gives m s x t)
    (h2 : Stops (k x) t e) : Stops (m >>= k) s e := by
  unfold Gives Stops at *; rw [run_bind, h1]; exact h2

/-- What a computation of two parts gives, it gives through a state between them. -/
theorem gives_bind {α β : Type} {m : M α} {k : α → M β} {s u : State} {y : β} (h : Gives (m >>= k) s y u) :
    ∃ x t, Gives m s x t ∧ Gives (k x) t y u := by
  unfold Gives at *
  rw [run_bind] at h
  split at h
  · rename_i r e; exact ⟨r.1, r.2, e, h⟩
  · cases h

theorem gives_pure {α : Type} (x : α) (s : State) : Gives (pure x : M α) s x s := rfl

/-! ## The wrappers of an instruction -/

variable {h : Hdr} {s t : State}

/-- With its guard true, an instruction does what its body does (R32). -/
theorem guarded_true (k : Host.Outcome State Fault Refusal) (r : Ready h s) : guarded h s k = k := by
  obtain ⟨a, ha, hg⟩ := r
  simp [guarded, ha, hg]

/-- With its guard false, an instruction only takes its issue cycle (R32). -/
theorem guarded_false (k : Host.Outcome State Fault Refusal) (r : Skipped h s) : guarded h s k = .next (s.retire h) := by
  obtain ⟨a, ha, hg⟩ := r
  simp [guarded, ha, hg]

/-- Everything a guarded instruction can do. -/
theorem guarded_cases (k : Host.Outcome State Fault Refusal) :
    (s.act? = none ∧ guarded h s k = .refused .noActivation) ∨ (Skipped h s ∧ guarded h s k = .next (s.retire h)) ∨
      (Ready h s ∧ guarded h s k = k) := by
  cases ha : s.act? with
  | none => exact .inl ⟨rfl, by simp [guarded, ha]⟩
  | some a =>
    cases hg : a.guardOk h.grd with
    | false => exact .inr (.inl ⟨⟨a, ha, hg⟩, guarded_false k ⟨a, ha, hg⟩⟩)
    | true => exact .inr (.inr ⟨⟨a, ha, hg⟩, guarded_true k ⟨a, ha, hg⟩⟩)

theorem runM_gives {α : Type} {body : M α} {x : α} (fin : α → State → State) (g : Gives body s x t) :
    runM s body fin = .next (fin x t) := by
  unfold Gives at g; simp [runM, g]

theorem runM_stops {α : Type} {body : M α} {e : Stop} (fin : α → State → State) (g : Stops body s e) :
    runM s body fin = .next (s.stopped e) := by
  unfold Stops at g; simp [runM, g]

/-- Everything the run of a body can do. -/
theorem runM_cases {α : Type} (body : M α) (fin : α → State → State) :
    (∃ x t, Gives body s x t ∧ runM s body fin = .next (fin x t)) ∨
      (∃ e, Stops body s e ∧ runM s body fin = .next (s.stopped e)) := by
  cases hb : body.run s with
  | ok r => exact .inl ⟨r.1, r.2, hb, runM_gives fin hb⟩
  | error e => exact .inr ⟨e, hb, runM_stops fin hb⟩

theorem instr_gives {body : M Unit} (r : Ready h s) (g : Gives body s () t) : instr h s body = .next (t.retire h) := by
  rw [instr, guarded_true _ r, runM_gives _ g]

theorem instr_stops {body : M Unit} {e : Stop} (r : Ready h s) (g : Stops body s e) : instr h s body = .next (s.stopped e) := by
  rw [instr, guarded_true _ r, runM_stops _ g]

theorem control_gives {body : M Word} {pc : Word} (r : Ready h s) (g : Gives body s pc t) :
    control h s body = .next (t.retireTo h pc) := by
  rw [control, guarded_true _ r, runM_gives _ g]

theorem instrFp_gives {body : M (BitVec 5)} {fl : BitVec 5} (r : Ready h s) (g : Gives body s fl t) :
    instrFp h s body = .next ((t.retire h).raise s.pc fl) := by
  rw [instrFp, guarded_true _ r, runM_gives _ g]

theorem instrFp_stops {body : M (BitVec 5)} {e : Stop} (r : Ready h s) (g : Stops body s e) :
    instrFp h s body = .next (s.stopped e) := by
  rw [instrFp, guarded_true _ r, runM_stops _ g]

/-- Everything an instruction can do: it is refused where there is no activation; otherwise it answers a next state. -/
theorem instr_cases (body : M Unit) :
    (s.act? = none ∧ instr h s body = .refused .noActivation) ∨ (Skipped h s ∧ instr h s body = .next (s.retire h)) ∨
      (Ready h s ∧ ((∃ t, Gives body s () t ∧ instr h s body = .next (t.retire h)) ∨
        (∃ e, Stops body s e ∧ instr h s body = .next (s.stopped e)))) := by
  rcases guarded_cases (h := h) (s := s) (runM s body fun _ t => t.retire h) with c | c | ⟨r, c⟩
  · exact .inl c
  · exact .inr (.inl c)
  · refine .inr (.inr ⟨r, ?_⟩)
    rcases runM_cases (s := s) body fun _ t => t.retire h with ⟨x, t, g, e⟩ | ⟨e, g, q⟩
    · exact .inl ⟨t, g, c.trans e⟩
    · exact .inr ⟨e, g, c.trans q⟩

/-- As `instr_cases`, for an instruction that raises floating-point events. -/
theorem instrFp_cases (body : M (BitVec 5)) :
    (s.act? = none ∧ instrFp h s body = .refused .noActivation) ∨ (Skipped h s ∧ instrFp h s body = .next (s.retire h)) ∨
      (Ready h s ∧ ((∃ fl t, Gives body s fl t ∧ instrFp h s body = .next ((t.retire h).raise s.pc fl)) ∨
        (∃ e, Stops body s e ∧ instrFp h s body = .next (s.stopped e)))) := by
  rcases guarded_cases (h := h) (s := s) (runM s body fun fl t => (t.retire h).raise s.pc fl) with c | c | ⟨r, c⟩
  · exact .inl c
  · exact .inr (.inl c)
  · refine .inr (.inr ⟨r, ?_⟩)
    rcases runM_cases (s := s) body fun fl t => (t.retire h).raise s.pc fl with ⟨x, t, g, e⟩ | ⟨e, g, q⟩
    · exact .inl ⟨x, t, g, c.trans e⟩
    · exact .inr ⟨e, g, c.trans q⟩

/-! ## Operands -/

/-- A read of a general register changes nothing. -/
theorem readG_g (i : BitVec 5) (s : State) : Gives (readG (.g i)) s (s.act.getG i) s := rfl

/-- A read of a queue register pops its oldest entry, once the stream may pop it (R43). -/
theorem readG_q {i : BitVec 2} {w : QEntry Word} {l : List (QEntry Word)} (e : s.act.qg[i.toNat] = w :: l) (r : w.ready s = true) :
    Gives (readG (.q i)) s w.val (s.modAct fun a => { a with qg := a.qg.set i.toNat l }) := by
  simp [Gives, readG, StateT.run, e, r]

/-- Everything a read of a g operand can do. -/
theorem readG_cases (x : GQ) (s : State) :
    (∃ i, x = .g i ∧ Gives (readG x) s (s.act.getG i) s) ∨
      (∃ i w l, x = .q i ∧ s.act.qg[i.toNat] = w :: l ∧ w.ready s = true ∧
        Gives (readG x) s w.val (s.modAct fun a => { a with qg := a.qg.set i.toNat l })) ∨
      (∃ i, x = .q i ∧ (∀ w l, s.act.qg[i.toNat] = w :: l → w.ready s = false) ∧ Stops (readG x) s (.hold 8)) := by
  cases x with
  | g i => exact .inl ⟨i, rfl, rfl⟩
  | q i =>
    cases e : s.act.qg[i.toNat] with
    | nil => exact .inr (.inr ⟨i, rfl, fun w l h => (nomatch e.symm.trans h), by simp [Stops, readG, StateT.run, e]⟩)
    | cons w l =>
      cases r : w.ready s with
      | true => exact .inr (.inl ⟨i, w, l, rfl, e, r, readG_q e r⟩)
      | false =>
        refine .inr (.inr ⟨i, rfl, fun w' l' h => ?_, by simp [Stops, readG, StateT.run, e, r]⟩)
        cases e.symm.trans h; exact r

/-- Everything a write of a g operand can do. -/
theorem writeG_cases (x : GQ) (v : Word) (s : State) :
    (∃ i, x = .g i ∧ Gives (writeG x v) s () (s.modAct fun a => a.setG i v)) ∨
      (∃ i, x = .q i ∧ s.owesQ i = false ∧ (s.act.qg[i.toNat]).length < 8 ∧
        Gives (writeG x v) s () (s.modAct fun a => { a with qg := a.qg.set i.toNat (a.qg[i.toNat] ++ [s.entry v]) })) ∨
      (∃ i, x = .q i ∧ s.owesQ i = true ∧ Stops (writeG x v) s (.hold 14)) ∨
      (∃ i, x = .q i ∧ s.owesQ i = false ∧ 8 ≤ (s.act.qg[i.toNat]).length ∧ Stops (writeG x v) s (.hold 8)) := by
  cases x with
  | g i => exact .inl ⟨i, rfl, rfl⟩
  | q i =>
    cases o : s.owesQ i with
    | true => exact .inr (.inr (.inl ⟨i, rfl, o, by simp [Stops, writeG, StateT.run, State.noPush, o]⟩))
    | false =>
      by_cases e : 8 ≤ (s.act.qg[i.toNat]).length
      · exact .inr (.inr (.inr ⟨i, rfl, o, e, by simp [Stops, writeG, StateT.run, State.noPush, o, e]⟩))
      · exact .inr (.inl ⟨i, rfl, o, by omega, by simp [Gives, writeG, StateT.run, State.noPush, o, e]⟩)

end Sys2Proof.Machine
end

