-- ==== Sys2Proof/Laws/State.lean ====
section
/-! SUPPORT. What each update of the state leaves as it was: one lemma per field per update, so that no proof unfolds a
record update; and the activation that an update of the present one leaves. -/

namespace Sys2Proof.Machine

variable (s : State)

/-! ## `setAct` -/

@[simp] theorem setAct_agenda (a : Act) : (s.setAct a).agenda = s.agenda := rfl
@[simp] theorem setAct_cur (a : Act) : (s.setAct a).cur = s.cur := rfl
@[simp] theorem setAct_blocked (a : Act) : (s.setAct a).blocked = s.blocked := rfl
@[simp] theorem setAct_issued (a : Act) : (s.setAct a).issued = s.issued := rfl
@[simp] theorem setAct_free (a : Act) : (s.setAct a).free = s.free := rfl
@[simp] theorem setAct_cycle (a : Act) : (s.setAct a).cycle = s.cycle := rfl
@[simp] theorem setAct_reft (a : Act) : (s.setAct a).reft = s.reft := rfl
@[simp] theorem setAct_mem (a : Act) : (s.setAct a).mem = s.mem := rfl
@[simp] theorem setAct_poison (a : Act) : (s.setAct a).poison = s.poison := rfl
@[simp] theorem setAct_sectorKeys (a : Act) : (s.setAct a).sectorKeys = s.sectorKeys := rfl
@[simp] theorem setAct_corrected (a : Act) : (s.setAct a).corrected = s.corrected := rfl
@[simp] theorem setAct_actors (a : Act) : (s.setAct a).actors = s.actors := rfl
@[simp] theorem setAct_mbxs (a : Act) : (s.setAct a).mbxs = s.mbxs := rfl
@[simp] theorem setAct_coreCtx (a : Act) : (s.setAct a).coreCtx = s.coreCtx := rfl
@[simp] theorem setAct_coreHw (a : Act) : (s.setAct a).coreHw = s.coreHw := rfl
@[simp] theorem setAct_clCtx (a : Act) : (s.setAct a).clCtx = s.clCtx := rfl
@[simp] theorem setAct_clHw (a : Act) : (s.setAct a).clHw = s.clHw := rfl
@[simp] theorem setAct_ctxs (a : Act) : (s.setAct a).ctxs = s.ctxs := rfl
@[simp] theorem setAct_power (a : Act) : (s.setAct a).power = s.power := rfl
@[simp] theorem setAct_bootFailed (a : Act) : (s.setAct a).bootFailed = s.bootFailed := rfl
@[simp] theorem setAct_sid (a : Act) : (s.setAct a).sid = s.sid := rfl
@[simp] theorem setAct_clock (a : Act) : (s.setAct a).clock = s.clock := rfl
@[simp] theorem setAct_keysHeld (a : Act) : (s.setAct a).keysHeld = s.keysHeld := rfl
@[simp] theorem setAct_slotA (a : Act) : (s.setAct a).slotA = s.slotA := rfl
@[simp] theorem setAct_slotB (a : Act) : (s.setAct a).slotB = s.slotB := rfl
@[simp] theorem setAct_bootB (a : Act) : (s.setAct a).bootB = s.bootB := rfl
@[simp] theorem setAct_svn (a : Act) : (s.setAct a).svn = s.svn := rfl
@[simp] theorem setAct_patch (a : Act) : (s.setAct a).patch = s.patch := rfl
@[simp] theorem setAct_debugLock (a : Act) : (s.setAct a).debugLock = s.debugLock := rfl
@[simp] theorem setAct_update (a : Act) : (s.setAct a).update = s.update := rfl
@[simp] theorem setAct_beat (a : Act) : (s.setAct a).beat = s.beat := rfl
@[simp] theorem setAct_spdm (a : Act) : (s.setAct a).spdm = s.spdm := rfl
@[simp] theorem setAct_gov (a : Act) : (s.setAct a).gov = s.gov := rfl
@[simp] theorem setAct_powerCap (a : Act) : (s.setAct a).powerCap = s.powerCap := rfl
@[simp] theorem setAct_fid (a : Act) : (s.setAct a).fid = s.fid := rfl
@[simp] theorem setAct_ports (a : Act) : (s.setAct a).ports = s.ports := rfl
@[simp] theorem setAct_spares (a : Act) : (s.setAct a).spares = s.spares := rfl
@[simp] theorem setAct_seams (a : Act) : (s.setAct a).seams = s.seams := rfl
@[simp] theorem setAct_pelson (a : Act) : (s.setAct a).pelson = s.pelson := rfl
@[simp] theorem setAct_waiting (a : Act) : (s.setAct a).waiting = s.waiting := rfl
@[simp] theorem setAct_owners (a : Act) : (s.setAct a).owners = s.owners := rfl
@[simp] theorem setAct_harts (a : Act) : (s.setAct a).harts = s.harts := rfl

/-! ## `modAct` -/

@[simp] theorem modAct_agenda (f : Act → Act) : (s.modAct f).agenda = s.agenda := rfl
@[simp] theorem modAct_cur (f : Act → Act) : (s.modAct f).cur = s.cur := rfl
@[simp] theorem modAct_blocked (f : Act → Act) : (s.modAct f).blocked = s.blocked := rfl
@[simp] theorem modAct_issued (f : Act → Act) : (s.modAct f).issued = s.issued := rfl
@[simp] theorem modAct_free (f : Act → Act) : (s.modAct f).free = s.free := rfl
@[simp] theorem modAct_cycle (f : Act → Act) : (s.modAct f).cycle = s.cycle := rfl
@[simp] theorem modAct_reft (f : Act → Act) : (s.modAct f).reft = s.reft := rfl
@[simp] theorem modAct_mem (f : Act → Act) : (s.modAct f).mem = s.mem := rfl
@[simp] theorem modAct_poison (f : Act → Act) : (s.modAct f).poison = s.poison := rfl
@[simp] theorem modAct_sectorKeys (f : Act → Act) : (s.modAct f).sectorKeys = s.sectorKeys := rfl
@[simp] theorem modAct_corrected (f : Act → Act) : (s.modAct f).corrected = s.corrected := rfl
@[simp] theorem modAct_actors (f : Act → Act) : (s.modAct f).actors = s.actors := rfl
@[simp] theorem modAct_mbxs (f : Act → Act) : (s.modAct f).mbxs = s.mbxs := rfl
@[simp] theorem modAct_coreCtx (f : Act → Act) : (s.modAct f).coreCtx = s.coreCtx := rfl
@[simp] theorem modAct_coreHw (f : Act → Act) : (s.modAct f).coreHw = s.coreHw := rfl
@[simp] theorem modAct_clCtx (f : Act → Act) : (s.modAct f).clCtx = s.clCtx := rfl
@[simp] theorem modAct_clHw (f : Act → Act) : (s.modAct f).clHw = s.clHw := rfl
@[simp] theorem modAct_ctxs (f : Act → Act) : (s.modAct f).ctxs = s.ctxs := rfl
@[simp] theorem modAct_power (f : Act → Act) : (s.modAct f).power = s.power := rfl
@[simp] theorem modAct_bootFailed (f : Act → Act) : (s.modAct f).bootFailed = s.bootFailed := rfl
@[simp] theorem modAct_sid (f : Act → Act) : (s.modAct f).sid = s.sid := rfl
@[simp] theorem modAct_clock (f : Act → Act) : (s.modAct f).clock = s.clock := rfl
@[simp] theorem modAct_keysHeld (f : Act → Act) : (s.modAct f).keysHeld = s.keysHeld := rfl
@[simp] theorem modAct_slotA (f : Act → Act) : (s.modAct f).slotA = s.slotA := rfl
@[simp] theorem modAct_slotB (f : Act → Act) : (s.modAct f).slotB = s.slotB := rfl
@[simp] theorem modAct_bootB (f : Act → Act) : (s.modAct f).bootB = s.bootB := rfl
@[simp] theorem modAct_svn (f : Act → Act) : (s.modAct f).svn = s.svn := rfl
@[simp] theorem modAct_patch (f : Act → Act) : (s.modAct f).patch = s.patch := rfl
@[simp] theorem modAct_debugLock (f : Act → Act) : (s.modAct f).debugLock = s.debugLock := rfl
@[simp] theorem modAct_update (f : Act → Act) : (s.modAct f).update = s.update := rfl
@[simp] theorem modAct_beat (f : Act → Act) : (s.modAct f).beat = s.beat := rfl
@[simp] theorem modAct_spdm (f : Act → Act) : (s.modAct f).spdm = s.spdm := rfl
@[simp] theorem modAct_gov (f : Act → Act) : (s.modAct f).gov = s.gov := rfl
@[simp] theorem modAct_powerCap (f : Act → Act) : (s.modAct f).powerCap = s.powerCap := rfl
@[simp] theorem modAct_fid (f : Act → Act) : (s.modAct f).fid = s.fid := rfl
@[simp] theorem modAct_ports (f : Act → Act) : (s.modAct f).ports = s.ports := rfl
@[simp] theorem modAct_spares (f : Act → Act) : (s.modAct f).spares = s.spares := rfl
@[simp] theorem modAct_seams (f : Act → Act) : (s.modAct f).seams = s.seams := rfl
@[simp] theorem modAct_pelson (f : Act → Act) : (s.modAct f).pelson = s.pelson := rfl
@[simp] theorem modAct_waiting (f : Act → Act) : (s.modAct f).waiting = s.waiting := rfl
@[simp] theorem modAct_owners (f : Act → Act) : (s.modAct f).owners = s.owners := rfl
@[simp] theorem modAct_harts (f : Act → Act) : (s.modAct f).harts = s.harts := rfl

/-! ## `modCtx` -/

@[simp] theorem modCtx_agenda (c : Nat) (f : Ctx → Ctx) : (s.modCtx c f).agenda = s.agenda := rfl
@[simp] theorem modCtx_cur (c : Nat) (f : Ctx → Ctx) : (s.modCtx c f).cur = s.cur := rfl
@[simp] theorem modCtx_blocked (c : Nat) (f : Ctx → Ctx) : (s.modCtx c f).blocked = s.blocked := rfl
@[simp] theorem modCtx_issued (c : Nat) (f : Ctx → Ctx) : (s.modCtx c f).issued = s.issued := rfl
@[simp] theorem modCtx_free (c : Nat) (f : Ctx → Ctx) : (s.modCtx c f).free = s.free := rfl
@[simp] theorem modCtx_cycle (c : Nat) (f : Ctx → Ctx) : (s.modCtx c f).cycle = s.cycle := rfl
@[simp] theorem modCtx_reft (c : Nat) (f : Ctx → Ctx) : (s.modCtx c f).reft = s.reft := rfl
@[simp] theorem modCtx_mem (c : Nat) (f : Ctx → Ctx) : (s.modCtx c f).mem = s.mem := rfl
@[simp] theorem modCtx_poison (c : Nat) (f : Ctx → Ctx) : (s.modCtx c f).poison = s.poison := rfl
@[simp] theorem modCtx_sectorKeys (c : Nat) (f : Ctx → Ctx) : (s.modCtx c f).sectorKeys = s.sectorKeys := rfl
@[simp] theorem modCtx_corrected (c : Nat) (f : Ctx → Ctx) : (s.modCtx c f).corrected = s.corrected := rfl
@[simp] theorem modCtx_acts (c : Nat) (f : Ctx → Ctx) : (s.modCtx c f).acts = s.acts := rfl
@[simp] theorem modCtx_actors (c : Nat) (f : Ctx → Ctx) : (s.modCtx c f).actors = s.actors := rfl
@[simp] theorem modCtx_mbxs (c : Nat) (f : Ctx → Ctx) : (s.modCtx c f).mbxs = s.mbxs := rfl
@[simp] theorem modCtx_coreCtx (c : Nat) (f : Ctx → Ctx) : (s.modCtx c f).coreCtx = s.coreCtx := rfl
@[simp] theorem modCtx_coreHw (c : Nat) (f : Ctx → Ctx) : (s.modCtx c f).coreHw = s.coreHw := rfl
@[simp] theorem modCtx_clCtx (c : Nat) (f : Ctx → Ctx) : (s.modCtx c f).clCtx = s.clCtx := rfl
@[simp] theorem modCtx_clHw (c : Nat) (f : Ctx → Ctx) : (s.modCtx c f).clHw = s.clHw := rfl
@[simp] theorem modCtx_power (c : Nat) (f : Ctx → Ctx) : (s.modCtx c f).power = s.power := rfl
@[simp] theorem modCtx_bootFailed (c : Nat) (f : Ctx → Ctx) : (s.modCtx c f).bootFailed = s.bootFailed := rfl
@[simp] theorem modCtx_sid (c : Nat) (f : Ctx → Ctx) : (s.modCtx c f).sid = s.sid := rfl
@[simp] theorem modCtx_clock (c : Nat) (f : Ctx → Ctx) : (s.modCtx c f).clock = s.clock := rfl
@[simp] theorem modCtx_keysHeld (c : Nat) (f : Ctx → Ctx) : (s.modCtx c f).keysHeld = s.keysHeld := rfl
@[simp] theorem modCtx_slotA (c : Nat) (f : Ctx → Ctx) : (s.modCtx c f).slotA = s.slotA := rfl
@[simp] theorem modCtx_slotB (c : Nat) (f : Ctx → Ctx) : (s.modCtx c f).slotB = s.slotB := rfl
@[simp] theorem modCtx_bootB (c : Nat) (f : Ctx → Ctx) : (s.modCtx c f).bootB = s.bootB := rfl
@[simp] theorem modCtx_svn (c : Nat) (f : Ctx → Ctx) : (s.modCtx c f).svn = s.svn := rfl
@[simp] theorem modCtx_patch (c : Nat) (f : Ctx → Ctx) : (s.modCtx c f).patch = s.patch := rfl
@[simp] theorem modCtx_debugLock (c : Nat) (f : Ctx → Ctx) : (s.modCtx c f).debugLock = s.debugLock := rfl
@[simp] theorem modCtx_update (c : Nat) (f : Ctx → Ctx) : (s.modCtx c f).update = s.update := rfl
@[simp] theorem modCtx_beat (c : Nat) (f : Ctx → Ctx) : (s.modCtx c f).beat = s.beat := rfl
@[simp] theorem modCtx_spdm (c : Nat) (f : Ctx → Ctx) : (s.modCtx c f).spdm = s.spdm := rfl
@[simp] theorem modCtx_gov (c : Nat) (f : Ctx → Ctx) : (s.modCtx c f).gov = s.gov := rfl
@[simp] theorem modCtx_powerCap (c : Nat) (f : Ctx → Ctx) : (s.modCtx c f).powerCap = s.powerCap := rfl
@[simp] theorem modCtx_fid (c : Nat) (f : Ctx → Ctx) : (s.modCtx c f).fid = s.fid := rfl
@[simp] theorem modCtx_ports (c : Nat) (f : Ctx → Ctx) : (s.modCtx c f).ports = s.ports := rfl
@[simp] theorem modCtx_spares (c : Nat) (f : Ctx → Ctx) : (s.modCtx c f).spares = s.spares := rfl
@[simp] theorem modCtx_seams (c : Nat) (f : Ctx → Ctx) : (s.modCtx c f).seams = s.seams := rfl
@[simp] theorem modCtx_pelson (c : Nat) (f : Ctx → Ctx) : (s.modCtx c f).pelson = s.pelson := rfl
@[simp] theorem modCtx_waiting (c : Nat) (f : Ctx → Ctx) : (s.modCtx c f).waiting = s.waiting := rfl
@[simp] theorem modCtx_owners (c : Nat) (f : Ctx → Ctx) : (s.modCtx c f).owners = s.owners := rfl
@[simp] theorem modCtx_harts (c : Nat) (f : Ctx → Ctx) : (s.modCtx c f).harts = s.harts := rfl

/-! ## `modCore` -/

@[simp] theorem modCore_agenda (c k : Nat) (f : CoreCtx → CoreCtx) : (s.modCore c k f).agenda = s.agenda := rfl
@[simp] theorem modCore_cur (c k : Nat) (f : CoreCtx → CoreCtx) : (s.modCore c k f).cur = s.cur := rfl
@[simp] theorem modCore_blocked (c k : Nat) (f : CoreCtx → CoreCtx) : (s.modCore c k f).blocked = s.blocked := rfl
@[simp] theorem modCore_issued (c k : Nat) (f : CoreCtx → CoreCtx) : (s.modCore c k f).issued = s.issued := rfl
@[simp] theorem modCore_free (c k : Nat) (f : CoreCtx → CoreCtx) : (s.modCore c k f).free = s.free := rfl
@[simp] theorem modCore_cycle (c k : Nat) (f : CoreCtx → CoreCtx) : (s.modCore c k f).cycle = s.cycle := rfl
@[simp] theorem modCore_reft (c k : Nat) (f : CoreCtx → CoreCtx) : (s.modCore c k f).reft = s.reft := rfl
@[simp] theorem modCore_mem (c k : Nat) (f : CoreCtx → CoreCtx) : (s.modCore c k f).mem = s.mem := rfl
@[simp] theorem modCore_poison (c k : Nat) (f : CoreCtx → CoreCtx) : (s.modCore c k f).poison = s.poison := rfl
@[simp] theorem modCore_sectorKeys (c k : Nat) (f : CoreCtx → CoreCtx) : (s.modCore c k f).sectorKeys = s.sectorKeys := rfl
@[simp] theorem modCore_corrected (c k : Nat) (f : CoreCtx → CoreCtx) : (s.modCore c k f).corrected = s.corrected := rfl
@[simp] theorem modCore_acts (c k : Nat) (f : CoreCtx → CoreCtx) : (s.modCore c k f).acts = s.acts := rfl
@[simp] theorem modCore_actors (c k : Nat) (f : CoreCtx → CoreCtx) : (s.modCore c k f).actors = s.actors := rfl
@[simp] theorem modCore_mbxs (c k : Nat) (f : CoreCtx → CoreCtx) : (s.modCore c k f).mbxs = s.mbxs := rfl
@[simp] theorem modCore_coreHw (c k : Nat) (f : CoreCtx → CoreCtx) : (s.modCore c k f).coreHw = s.coreHw := rfl
@[simp] theorem modCore_clCtx (c k : Nat) (f : CoreCtx → CoreCtx) : (s.modCore c k f).clCtx = s.clCtx := rfl
@[simp] theorem modCore_clHw (c k : Nat) (f : CoreCtx → CoreCtx) : (s.modCore c k f).clHw = s.clHw := rfl
@[simp] theorem modCore_ctxs (c k : Nat) (f : CoreCtx → CoreCtx) : (s.modCore c k f).ctxs = s.ctxs := rfl
@[simp] theorem modCore_power (c k : Nat) (f : CoreCtx → CoreCtx) : (s.modCore c k f).power = s.power := rfl
@[simp] theorem modCore_bootFailed (c k : Nat) (f : CoreCtx → CoreCtx) : (s.modCore c k f).bootFailed = s.bootFailed := rfl
@[simp] theorem modCore_sid (c k : Nat) (f : CoreCtx → CoreCtx) : (s.modCore c k f).sid = s.sid := rfl
@[simp] theorem modCore_clock (c k : Nat) (f : CoreCtx → CoreCtx) : (s.modCore c k f).clock = s.clock := rfl
@[simp] theorem modCore_keysHeld (c k : Nat) (f : CoreCtx → CoreCtx) : (s.modCore c k f).keysHeld = s.keysHeld := rfl
@[simp] theorem modCore_slotA (c k : Nat) (f : CoreCtx → CoreCtx) : (s.modCore c k f).slotA = s.slotA := rfl
@[simp] theorem modCore_slotB (c k : Nat) (f : CoreCtx → CoreCtx) : (s.modCore c k f).slotB = s.slotB := rfl
@[simp] theorem modCore_bootB (c k : Nat) (f : CoreCtx → CoreCtx) : (s.modCore c k f).bootB = s.bootB := rfl
@[simp] theorem modCore_svn (c k : Nat) (f : CoreCtx → CoreCtx) : (s.modCore c k f).svn = s.svn := rfl
@[simp] theorem modCore_patch (c k : Nat) (f : CoreCtx → CoreCtx) : (s.modCore c k f).patch = s.patch := rfl
@[simp] theorem modCore_debugLock (c k : Nat) (f : CoreCtx → CoreCtx) : (s.modCore c k f).debugLock = s.debugLock := rfl
@[simp] theorem modCore_update (c k : Nat) (f : CoreCtx → CoreCtx) : (s.modCore c k f).update = s.update := rfl
@[simp] theorem modCore_beat (c k : Nat) (f : CoreCtx → CoreCtx) : (s.modCore c k f).beat = s.beat := rfl
@[simp] theorem modCore_spdm (c k : Nat) (f : CoreCtx → CoreCtx) : (s.modCore c k f).spdm = s.spdm := rfl
@[simp] theorem modCore_gov (c k : Nat) (f : CoreCtx → CoreCtx) : (s.modCore c k f).gov = s.gov := rfl
@[simp] theorem modCore_powerCap (c k : Nat) (f : CoreCtx → CoreCtx) : (s.modCore c k f).powerCap = s.powerCap := rfl
@[simp] theorem modCore_fid (c k : Nat) (f : CoreCtx → CoreCtx) : (s.modCore c k f).fid = s.fid := rfl
@[simp] theorem modCore_ports (c k : Nat) (f : CoreCtx → CoreCtx) : (s.modCore c k f).ports = s.ports := rfl
@[simp] theorem modCore_spares (c k : Nat) (f : CoreCtx → CoreCtx) : (s.modCore c k f).spares = s.spares := rfl
@[simp] theorem modCore_seams (c k : Nat) (f : CoreCtx → CoreCtx) : (s.modCore c k f).seams = s.seams := rfl
@[simp] theorem modCore_pelson (c k : Nat) (f : CoreCtx → CoreCtx) : (s.modCore c k f).pelson = s.pelson := rfl
@[simp] theorem modCore_waiting (c k : Nat) (f : CoreCtx → CoreCtx) : (s.modCore c k f).waiting = s.waiting := rfl
@[simp] theorem modCore_owners (c k : Nat) (f : CoreCtx → CoreCtx) : (s.modCore c k f).owners = s.owners := rfl
@[simp] theorem modCore_harts (c k : Nat) (f : CoreCtx → CoreCtx) : (s.modCore c k f).harts = s.harts := rfl

/-! ## `modHw` -/

@[simp] theorem modHw_agenda (k : Nat) (f : CoreHw → CoreHw) : (s.modHw k f).agenda = s.agenda := rfl
@[simp] theorem modHw_cur (k : Nat) (f : CoreHw → CoreHw) : (s.modHw k f).cur = s.cur := rfl
@[simp] theorem modHw_blocked (k : Nat) (f : CoreHw → CoreHw) : (s.modHw k f).blocked = s.blocked := rfl
@[simp] theorem modHw_issued (k : Nat) (f : CoreHw → CoreHw) : (s.modHw k f).issued = s.issued := rfl
@[simp] theorem modHw_free (k : Nat) (f : CoreHw → CoreHw) : (s.modHw k f).free = s.free := rfl
@[simp] theorem modHw_cycle (k : Nat) (f : CoreHw → CoreHw) : (s.modHw k f).cycle = s.cycle := rfl
@[simp] theorem modHw_reft (k : Nat) (f : CoreHw → CoreHw) : (s.modHw k f).reft = s.reft := rfl
@[simp] theorem modHw_mem (k : Nat) (f : CoreHw → CoreHw) : (s.modHw k f).mem = s.mem := rfl
@[simp] theorem modHw_poison (k : Nat) (f : CoreHw → CoreHw) : (s.modHw k f).poison = s.poison := rfl
@[simp] theorem modHw_sectorKeys (k : Nat) (f : CoreHw → CoreHw) : (s.modHw k f).sectorKeys = s.sectorKeys := rfl
@[simp] theorem modHw_corrected (k : Nat) (f : CoreHw → CoreHw) : (s.modHw k f).corrected = s.corrected := rfl
@[simp] theorem modHw_acts (k : Nat) (f : CoreHw → CoreHw) : (s.modHw k f).acts = s.acts := rfl
@[simp] theorem modHw_actors (k : Nat) (f : CoreHw → CoreHw) : (s.modHw k f).actors = s.actors := rfl
@[simp] theorem modHw_mbxs (k : Nat) (f : CoreHw → CoreHw) : (s.modHw k f).mbxs = s.mbxs := rfl
@[simp] theorem modHw_coreCtx (k : Nat) (f : CoreHw → CoreHw) : (s.modHw k f).coreCtx = s.coreCtx := rfl
@[simp] theorem modHw_clCtx (k : Nat) (f : CoreHw → CoreHw) : (s.modHw k f).clCtx = s.clCtx := rfl
@[simp] theorem modHw_clHw (k : Nat) (f : CoreHw → CoreHw) : (s.modHw k f).clHw = s.clHw := rfl
@[simp] theorem modHw_ctxs (k : Nat) (f : CoreHw → CoreHw) : (s.modHw k f).ctxs = s.ctxs := rfl
@[simp] theorem modHw_power (k : Nat) (f : CoreHw → CoreHw) : (s.modHw k f).power = s.power := rfl
@[simp] theorem modHw_bootFailed (k : Nat) (f : CoreHw → CoreHw) : (s.modHw k f).bootFailed = s.bootFailed := rfl
@[simp] theorem modHw_sid (k : Nat) (f : CoreHw → CoreHw) : (s.modHw k f).sid = s.sid := rfl
@[simp] theorem modHw_clock (k : Nat) (f : CoreHw → CoreHw) : (s.modHw k f).clock = s.clock := rfl
@[simp] theorem modHw_keysHeld (k : Nat) (f : CoreHw → CoreHw) : (s.modHw k f).keysHeld = s.keysHeld := rfl
@[simp] theorem modHw_slotA (k : Nat) (f : CoreHw → CoreHw) : (s.modHw k f).slotA = s.slotA := rfl
@[simp] theorem modHw_slotB (k : Nat) (f : CoreHw → CoreHw) : (s.modHw k f).slotB = s.slotB := rfl
@[simp] theorem modHw_bootB (k : Nat) (f : CoreHw → CoreHw) : (s.modHw k f).bootB = s.bootB := rfl
@[simp] theorem modHw_svn (k : Nat) (f : CoreHw → CoreHw) : (s.modHw k f).svn = s.svn := rfl
@[simp] theorem modHw_patch (k : Nat) (f : CoreHw → CoreHw) : (s.modHw k f).patch = s.patch := rfl
@[simp] theorem modHw_debugLock (k : Nat) (f : CoreHw → CoreHw) : (s.modHw k f).debugLock = s.debugLock := rfl
@[simp] theorem modHw_update (k : Nat) (f : CoreHw → CoreHw) : (s.modHw k f).update = s.update := rfl
@[simp] theorem modHw_beat (k : Nat) (f : CoreHw → CoreHw) : (s.modHw k f).beat = s.beat := rfl
@[simp] theorem modHw_spdm (k : Nat) (f : CoreHw → CoreHw) : (s.modHw k f).spdm = s.spdm := rfl
@[simp] theorem modHw_gov (k : Nat) (f : CoreHw → CoreHw) : (s.modHw k f).gov = s.gov := rfl
@[simp] theorem modHw_powerCap (k : Nat) (f : CoreHw → CoreHw) : (s.modHw k f).powerCap = s.powerCap := rfl
@[simp] theorem modHw_fid (k : Nat) (f : CoreHw → CoreHw) : (s.modHw k f).fid = s.fid := rfl
@[simp] theorem modHw_ports (k : Nat) (f : CoreHw → CoreHw) : (s.modHw k f).ports = s.ports := rfl
@[simp] theorem modHw_spares (k : Nat) (f : CoreHw → CoreHw) : (s.modHw k f).spares = s.spares := rfl
@[simp] theorem modHw_seams (k : Nat) (f : CoreHw → CoreHw) : (s.modHw k f).seams = s.seams := rfl
@[simp] theorem modHw_pelson (k : Nat) (f : CoreHw → CoreHw) : (s.modHw k f).pelson = s.pelson := rfl
@[simp] theorem modHw_waiting (k : Nat) (f : CoreHw → CoreHw) : (s.modHw k f).waiting = s.waiting := rfl
@[simp] theorem modHw_owners (k : Nat) (f : CoreHw → CoreHw) : (s.modHw k f).owners = s.owners := rfl
@[simp] theorem modHw_harts (k : Nat) (f : CoreHw → CoreHw) : (s.modHw k f).harts = s.harts := rfl

/-! ## `modCl` -/

@[simp] theorem modCl_agenda (c k : Nat) (f : ClusterCtx → ClusterCtx) : (s.modCl c k f).agenda = s.agenda := rfl
@[simp] theorem modCl_cur (c k : Nat) (f : ClusterCtx → ClusterCtx) : (s.modCl c k f).cur = s.cur := rfl
@[simp] theorem modCl_blocked (c k : Nat) (f : ClusterCtx → ClusterCtx) : (s.modCl c k f).blocked = s.blocked := rfl
@[simp] theorem modCl_issued (c k : Nat) (f : ClusterCtx → ClusterCtx) : (s.modCl c k f).issued = s.issued := rfl
@[simp] theorem modCl_free (c k : Nat) (f : ClusterCtx → ClusterCtx) : (s.modCl c k f).free = s.free := rfl
@[simp] theorem modCl_cycle (c k : Nat) (f : ClusterCtx → ClusterCtx) : (s.modCl c k f).cycle = s.cycle := rfl
@[simp] theorem modCl_reft (c k : Nat) (f : ClusterCtx → ClusterCtx) : (s.modCl c k f).reft = s.reft := rfl
@[simp] theorem modCl_mem (c k : Nat) (f : ClusterCtx → ClusterCtx) : (s.modCl c k f).mem = s.mem := rfl
@[simp] theorem modCl_poison (c k : Nat) (f : ClusterCtx → ClusterCtx) : (s.modCl c k f).poison = s.poison := rfl
@[simp] theorem modCl_sectorKeys (c k : Nat) (f : ClusterCtx → ClusterCtx) : (s.modCl c k f).sectorKeys = s.sectorKeys := rfl
@[simp] theorem modCl_corrected (c k : Nat) (f : ClusterCtx → ClusterCtx) : (s.modCl c k f).corrected = s.corrected := rfl
@[simp] theorem modCl_acts (c k : Nat) (f : ClusterCtx → ClusterCtx) : (s.modCl c k f).acts = s.acts := rfl
@[simp] theorem modCl_actors (c k : Nat) (f : ClusterCtx → ClusterCtx) : (s.modCl c k f).actors = s.actors := rfl
@[simp] theorem modCl_mbxs (c k : Nat) (f : ClusterCtx → ClusterCtx) : (s.modCl c k f).mbxs = s.mbxs := rfl
@[simp] theorem modCl_coreCtx (c k : Nat) (f : ClusterCtx → ClusterCtx) : (s.modCl c k f).coreCtx = s.coreCtx := rfl
@[simp] theorem modCl_coreHw (c k : Nat) (f : ClusterCtx → ClusterCtx) : (s.modCl c k f).coreHw = s.coreHw := rfl
@[simp] theorem modCl_clHw (c k : Nat) (f : ClusterCtx → ClusterCtx) : (s.modCl c k f).clHw = s.clHw := rfl
@[simp] theorem modCl_ctxs (c k : Nat) (f : ClusterCtx → ClusterCtx) : (s.modCl c k f).ctxs = s.ctxs := rfl
@[simp] theorem modCl_power (c k : Nat) (f : ClusterCtx → ClusterCtx) : (s.modCl c k f).power = s.power := rfl
@[simp] theorem modCl_bootFailed (c k : Nat) (f : ClusterCtx → ClusterCtx) : (s.modCl c k f).bootFailed = s.bootFailed := rfl
@[simp] theorem modCl_sid (c k : Nat) (f : ClusterCtx → ClusterCtx) : (s.modCl c k f).sid = s.sid := rfl
@[simp] theorem modCl_clock (c k : Nat) (f : ClusterCtx → ClusterCtx) : (s.modCl c k f).clock = s.clock := rfl
@[simp] theorem modCl_keysHeld (c k : Nat) (f : ClusterCtx → ClusterCtx) : (s.modCl c k f).keysHeld = s.keysHeld := rfl
@[simp] theorem modCl_slotA (c k : Nat) (f : ClusterCtx → ClusterCtx) : (s.modCl c k f).slotA = s.slotA := rfl
@[simp] theorem modCl_slotB (c k : Nat) (f : ClusterCtx → ClusterCtx) : (s.modCl c k f).slotB = s.slotB := rfl
@[simp] theorem modCl_bootB (c k : Nat) (f : ClusterCtx → ClusterCtx) : (s.modCl c k f).bootB = s.bootB := rfl
@[simp] theorem modCl_svn (c k : Nat) (f : ClusterCtx → ClusterCtx) : (s.modCl c k f).svn = s.svn := rfl
@[simp] theorem modCl_patch (c k : Nat) (f : ClusterCtx → ClusterCtx) : (s.modCl c k f).patch = s.patch := rfl
@[simp] theorem modCl_debugLock (c k : Nat) (f : ClusterCtx → ClusterCtx) : (s.modCl c k f).debugLock = s.debugLock := rfl
@[simp] theorem modCl_update (c k : Nat) (f : ClusterCtx → ClusterCtx) : (s.modCl c k f).update = s.update := rfl
@[simp] theorem modCl_beat (c k : Nat) (f : ClusterCtx → ClusterCtx) : (s.modCl c k f).beat = s.beat := rfl
@[simp] theorem modCl_spdm (c k : Nat) (f : ClusterCtx → ClusterCtx) : (s.modCl c k f).spdm = s.spdm := rfl
@[simp] theorem modCl_gov (c k : Nat) (f : ClusterCtx → ClusterCtx) : (s.modCl c k f).gov = s.gov := rfl
@[simp] theorem modCl_powerCap (c k : Nat) (f : ClusterCtx → ClusterCtx) : (s.modCl c k f).powerCap = s.powerCap := rfl
@[simp] theorem modCl_fid (c k : Nat) (f : ClusterCtx → ClusterCtx) : (s.modCl c k f).fid = s.fid := rfl
@[simp] theorem modCl_ports (c k : Nat) (f : ClusterCtx → ClusterCtx) : (s.modCl c k f).ports = s.ports := rfl
@[simp] theorem modCl_spares (c k : Nat) (f : ClusterCtx → ClusterCtx) : (s.modCl c k f).spares = s.spares := rfl
@[simp] theorem modCl_seams (c k : Nat) (f : ClusterCtx → ClusterCtx) : (s.modCl c k f).seams = s.seams := rfl
@[simp] theorem modCl_pelson (c k : Nat) (f : ClusterCtx → ClusterCtx) : (s.modCl c k f).pelson = s.pelson := rfl
@[simp] theorem modCl_waiting (c k : Nat) (f : ClusterCtx → ClusterCtx) : (s.modCl c k f).waiting = s.waiting := rfl
@[simp] theorem modCl_owners (c k : Nat) (f : ClusterCtx → ClusterCtx) : (s.modCl c k f).owners = s.owners := rfl
@[simp] theorem modCl_harts (c k : Nat) (f : ClusterCtx → ClusterCtx) : (s.modCl c k f).harts = s.harts := rfl

/-! ## `modClHw` -/

@[simp] theorem modClHw_agenda (k : Nat) (f : ClusterHw → ClusterHw) : (s.modClHw k f).agenda = s.agenda := rfl
@[simp] theorem modClHw_cur (k : Nat) (f : ClusterHw → ClusterHw) : (s.modClHw k f).cur = s.cur := rfl
@[simp] theorem modClHw_blocked (k : Nat) (f : ClusterHw → ClusterHw) : (s.modClHw k f).blocked = s.blocked := rfl
@[simp] theorem modClHw_issued (k : Nat) (f : ClusterHw → ClusterHw) : (s.modClHw k f).issued = s.issued := rfl
@[simp] theorem modClHw_free (k : Nat) (f : ClusterHw → ClusterHw) : (s.modClHw k f).free = s.free := rfl
@[simp] theorem modClHw_cycle (k : Nat) (f : ClusterHw → ClusterHw) : (s.modClHw k f).cycle = s.cycle := rfl
@[simp] theorem modClHw_reft (k : Nat) (f : ClusterHw → ClusterHw) : (s.modClHw k f).reft = s.reft := rfl
@[simp] theorem modClHw_mem (k : Nat) (f : ClusterHw → ClusterHw) : (s.modClHw k f).mem = s.mem := rfl
@[simp] theorem modClHw_poison (k : Nat) (f : ClusterHw → ClusterHw) : (s.modClHw k f).poison = s.poison := rfl
@[simp] theorem modClHw_sectorKeys (k : Nat) (f : ClusterHw → ClusterHw) : (s.modClHw k f).sectorKeys = s.sectorKeys := rfl
@[simp] theorem modClHw_corrected (k : Nat) (f : ClusterHw → ClusterHw) : (s.modClHw k f).corrected = s.corrected := rfl
@[simp] theorem modClHw_acts (k : Nat) (f : ClusterHw → ClusterHw) : (s.modClHw k f).acts = s.acts := rfl
@[simp] theorem modClHw_actors (k : Nat) (f : ClusterHw → ClusterHw) : (s.modClHw k f).actors = s.actors := rfl
@[simp] theorem modClHw_mbxs (k : Nat) (f : ClusterHw → ClusterHw) : (s.modClHw k f).mbxs = s.mbxs := rfl
@[simp] theorem modClHw_coreCtx (k : Nat) (f : ClusterHw → ClusterHw) : (s.modClHw k f).coreCtx = s.coreCtx := rfl
@[simp] theorem modClHw_coreHw (k : Nat) (f : ClusterHw → ClusterHw) : (s.modClHw k f).coreHw = s.coreHw := rfl
@[simp] theorem modClHw_clCtx (k : Nat) (f : ClusterHw → ClusterHw) : (s.modClHw k f).clCtx = s.clCtx := rfl
@[simp] theorem modClHw_ctxs (k : Nat) (f : ClusterHw → ClusterHw) : (s.modClHw k f).ctxs = s.ctxs := rfl
@[simp] theorem modClHw_power (k : Nat) (f : ClusterHw → ClusterHw) : (s.modClHw k f).power = s.power := rfl
@[simp] theorem modClHw_bootFailed (k : Nat) (f : ClusterHw → ClusterHw) : (s.modClHw k f).bootFailed = s.bootFailed := rfl
@[simp] theorem modClHw_sid (k : Nat) (f : ClusterHw → ClusterHw) : (s.modClHw k f).sid = s.sid := rfl
@[simp] theorem modClHw_clock (k : Nat) (f : ClusterHw → ClusterHw) : (s.modClHw k f).clock = s.clock := rfl
@[simp] theorem modClHw_keysHeld (k : Nat) (f : ClusterHw → ClusterHw) : (s.modClHw k f).keysHeld = s.keysHeld := rfl
@[simp] theorem modClHw_slotA (k : Nat) (f : ClusterHw → ClusterHw) : (s.modClHw k f).slotA = s.slotA := rfl
@[simp] theorem modClHw_slotB (k : Nat) (f : ClusterHw → ClusterHw) : (s.modClHw k f).slotB = s.slotB := rfl
@[simp] theorem modClHw_bootB (k : Nat) (f : ClusterHw → ClusterHw) : (s.modClHw k f).bootB = s.bootB := rfl
@[simp] theorem modClHw_svn (k : Nat) (f : ClusterHw → ClusterHw) : (s.modClHw k f).svn = s.svn := rfl
@[simp] theorem modClHw_patch (k : Nat) (f : ClusterHw → ClusterHw) : (s.modClHw k f).patch = s.patch := rfl
@[simp] theorem modClHw_debugLock (k : Nat) (f : ClusterHw → ClusterHw) : (s.modClHw k f).debugLock = s.debugLock := rfl
@[simp] theorem modClHw_update (k : Nat) (f : ClusterHw → ClusterHw) : (s.modClHw k f).update = s.update := rfl
@[simp] theorem modClHw_beat (k : Nat) (f : ClusterHw → ClusterHw) : (s.modClHw k f).beat = s.beat := rfl
@[simp] theorem modClHw_spdm (k : Nat) (f : ClusterHw → ClusterHw) : (s.modClHw k f).spdm = s.spdm := rfl
@[simp] theorem modClHw_gov (k : Nat) (f : ClusterHw → ClusterHw) : (s.modClHw k f).gov = s.gov := rfl
@[simp] theorem modClHw_powerCap (k : Nat) (f : ClusterHw → ClusterHw) : (s.modClHw k f).powerCap = s.powerCap := rfl
@[simp] theorem modClHw_fid (k : Nat) (f : ClusterHw → ClusterHw) : (s.modClHw k f).fid = s.fid := rfl
@[simp] theorem modClHw_ports (k : Nat) (f : ClusterHw → ClusterHw) : (s.modClHw k f).ports = s.ports := rfl
@[simp] theorem modClHw_spares (k : Nat) (f : ClusterHw → ClusterHw) : (s.modClHw k f).spares = s.spares := rfl
@[simp] theorem modClHw_seams (k : Nat) (f : ClusterHw → ClusterHw) : (s.modClHw k f).seams = s.seams := rfl
@[simp] theorem modClHw_pelson (k : Nat) (f : ClusterHw → ClusterHw) : (s.modClHw k f).pelson = s.pelson := rfl
@[simp] theorem modClHw_waiting (k : Nat) (f : ClusterHw → ClusterHw) : (s.modClHw k f).waiting = s.waiting := rfl
@[simp] theorem modClHw_owners (k : Nat) (f : ClusterHw → ClusterHw) : (s.modClHw k f).owners = s.owners := rfl
@[simp] theorem modClHw_harts (k : Nat) (f : ClusterHw → ClusterHw) : (s.modClHw k f).harts = s.harts := rfl

/-! ## `modMbx` -/

@[simp] theorem modMbx_agenda (c k : Nat) (m : BitVec 6) (f : Mailbox → Mailbox) : (s.modMbx c k m f).agenda = s.agenda := rfl
@[simp] theorem modMbx_cur (c k : Nat) (m : BitVec 6) (f : Mailbox → Mailbox) : (s.modMbx c k m f).cur = s.cur := rfl
@[simp] theorem modMbx_blocked (c k : Nat) (m : BitVec 6) (f : Mailbox → Mailbox) : (s.modMbx c k m f).blocked = s.blocked := rfl
@[simp] theorem modMbx_issued (c k : Nat) (m : BitVec 6) (f : Mailbox → Mailbox) : (s.modMbx c k m f).issued = s.issued := rfl
@[simp] theorem modMbx_free (c k : Nat) (m : BitVec 6) (f : Mailbox → Mailbox) : (s.modMbx c k m f).free = s.free := rfl
@[simp] theorem modMbx_cycle (c k : Nat) (m : BitVec 6) (f : Mailbox → Mailbox) : (s.modMbx c k m f).cycle = s.cycle := rfl
@[simp] theorem modMbx_reft (c k : Nat) (m : BitVec 6) (f : Mailbox → Mailbox) : (s.modMbx c k m f).reft = s.reft := rfl
@[simp] theorem modMbx_mem (c k : Nat) (m : BitVec 6) (f : Mailbox → Mailbox) : (s.modMbx c k m f).mem = s.mem := rfl
@[simp] theorem modMbx_poison (c k : Nat) (m : BitVec 6) (f : Mailbox → Mailbox) : (s.modMbx c k m f).poison = s.poison := rfl
@[simp] theorem modMbx_sectorKeys (c k : Nat) (m : BitVec 6) (f : Mailbox → Mailbox) : (s.modMbx c k m f).sectorKeys = s.sectorKeys := rfl
@[simp] theorem modMbx_corrected (c k : Nat) (m : BitVec 6) (f : Mailbox → Mailbox) : (s.modMbx c k m f).corrected = s.corrected := rfl
@[simp] theorem modMbx_acts (c k : Nat) (m : BitVec 6) (f : Mailbox → Mailbox) : (s.modMbx c k m f).acts = s.acts := rfl
@[simp] theorem modMbx_actors (c k : Nat) (m : BitVec 6) (f : Mailbox → Mailbox) : (s.modMbx c k m f).actors = s.actors := rfl
@[simp] theorem modMbx_coreCtx (c k : Nat) (m : BitVec 6) (f : Mailbox → Mailbox) : (s.modMbx c k m f).coreCtx = s.coreCtx := rfl
@[simp] theorem modMbx_coreHw (c k : Nat) (m : BitVec 6) (f : Mailbox → Mailbox) : (s.modMbx c k m f).coreHw = s.coreHw := rfl
@[simp] theorem modMbx_clCtx (c k : Nat) (m : BitVec 6) (f : Mailbox → Mailbox) : (s.modMbx c k m f).clCtx = s.clCtx := rfl
@[simp] theorem modMbx_clHw (c k : Nat) (m : BitVec 6) (f : Mailbox → Mailbox) : (s.modMbx c k m f).clHw = s.clHw := rfl
@[simp] theorem modMbx_ctxs (c k : Nat) (m : BitVec 6) (f : Mailbox → Mailbox) : (s.modMbx c k m f).ctxs = s.ctxs := rfl
@[simp] theorem modMbx_power (c k : Nat) (m : BitVec 6) (f : Mailbox → Mailbox) : (s.modMbx c k m f).power = s.power := rfl
@[simp] theorem modMbx_bootFailed (c k : Nat) (m : BitVec 6) (f : Mailbox → Mailbox) : (s.modMbx c k m f).bootFailed = s.bootFailed := rfl
@[simp] theorem modMbx_sid (c k : Nat) (m : BitVec 6) (f : Mailbox → Mailbox) : (s.modMbx c k m f).sid = s.sid := rfl
@[simp] theorem modMbx_clock (c k : Nat) (m : BitVec 6) (f : Mailbox → Mailbox) : (s.modMbx c k m f).clock = s.clock := rfl
@[simp] theorem modMbx_keysHeld (c k : Nat) (m : BitVec 6) (f : Mailbox → Mailbox) : (s.modMbx c k m f).keysHeld = s.keysHeld := rfl
@[simp] theorem modMbx_slotA (c k : Nat) (m : BitVec 6) (f : Mailbox → Mailbox) : (s.modMbx c k m f).slotA = s.slotA := rfl
@[simp] theorem modMbx_slotB (c k : Nat) (m : BitVec 6) (f : Mailbox → Mailbox) : (s.modMbx c k m f).slotB = s.slotB := rfl
@[simp] theorem modMbx_bootB (c k : Nat) (m : BitVec 6) (f : Mailbox → Mailbox) : (s.modMbx c k m f).bootB = s.bootB := rfl
@[simp] theorem modMbx_svn (c k : Nat) (m : BitVec 6) (f : Mailbox → Mailbox) : (s.modMbx c k m f).svn = s.svn := rfl
@[simp] theorem modMbx_patch (c k : Nat) (m : BitVec 6) (f : Mailbox → Mailbox) : (s.modMbx c k m f).patch = s.patch := rfl
@[simp] theorem modMbx_debugLock (c k : Nat) (m : BitVec 6) (f : Mailbox → Mailbox) : (s.modMbx c k m f).debugLock = s.debugLock := rfl
@[simp] theorem modMbx_update (c k : Nat) (m : BitVec 6) (f : Mailbox → Mailbox) : (s.modMbx c k m f).update = s.update := rfl
@[simp] theorem modMbx_beat (c k : Nat) (m : BitVec 6) (f : Mailbox → Mailbox) : (s.modMbx c k m f).beat = s.beat := rfl
@[simp] theorem modMbx_spdm (c k : Nat) (m : BitVec 6) (f : Mailbox → Mailbox) : (s.modMbx c k m f).spdm = s.spdm := rfl
@[simp] theorem modMbx_gov (c k : Nat) (m : BitVec 6) (f : Mailbox → Mailbox) : (s.modMbx c k m f).gov = s.gov := rfl
@[simp] theorem modMbx_powerCap (c k : Nat) (m : BitVec 6) (f : Mailbox → Mailbox) : (s.modMbx c k m f).powerCap = s.powerCap := rfl
@[simp] theorem modMbx_fid (c k : Nat) (m : BitVec 6) (f : Mailbox → Mailbox) : (s.modMbx c k m f).fid = s.fid := rfl
@[simp] theorem modMbx_ports (c k : Nat) (m : BitVec 6) (f : Mailbox → Mailbox) : (s.modMbx c k m f).ports = s.ports := rfl
@[simp] theorem modMbx_spares (c k : Nat) (m : BitVec 6) (f : Mailbox → Mailbox) : (s.modMbx c k m f).spares = s.spares := rfl
@[simp] theorem modMbx_seams (c k : Nat) (m : BitVec 6) (f : Mailbox → Mailbox) : (s.modMbx c k m f).seams = s.seams := rfl
@[simp] theorem modMbx_pelson (c k : Nat) (m : BitVec 6) (f : Mailbox → Mailbox) : (s.modMbx c k m f).pelson = s.pelson := rfl
@[simp] theorem modMbx_waiting (c k : Nat) (m : BitVec 6) (f : Mailbox → Mailbox) : (s.modMbx c k m f).waiting = s.waiting := rfl
@[simp] theorem modMbx_owners (c k : Nat) (m : BitVec 6) (f : Mailbox → Mailbox) : (s.modMbx c k m f).owners = s.owners := rfl
@[simp] theorem modMbx_harts (c k : Nat) (m : BitVec 6) (f : Mailbox → Mailbox) : (s.modMbx c k m f).harts = s.harts := rfl

/-! ## `writeKey` -/

@[simp] theorem writeKey_agenda (k : Nat) (v : Byte) : (s.writeKey k v).agenda = s.agenda := rfl
@[simp] theorem writeKey_cur (k : Nat) (v : Byte) : (s.writeKey k v).cur = s.cur := rfl
@[simp] theorem writeKey_blocked (k : Nat) (v : Byte) : (s.writeKey k v).blocked = s.blocked := rfl
@[simp] theorem writeKey_issued (k : Nat) (v : Byte) : (s.writeKey k v).issued = s.issued := rfl
@[simp] theorem writeKey_free (k : Nat) (v : Byte) : (s.writeKey k v).free = s.free := rfl
@[simp] theorem writeKey_cycle (k : Nat) (v : Byte) : (s.writeKey k v).cycle = s.cycle := rfl
@[simp] theorem writeKey_reft (k : Nat) (v : Byte) : (s.writeKey k v).reft = s.reft := rfl
@[simp] theorem writeKey_poison (k : Nat) (v : Byte) : (s.writeKey k v).poison = s.poison := rfl
@[simp] theorem writeKey_sectorKeys (k : Nat) (v : Byte) : (s.writeKey k v).sectorKeys = s.sectorKeys := rfl
@[simp] theorem writeKey_corrected (k : Nat) (v : Byte) : (s.writeKey k v).corrected = s.corrected := rfl
@[simp] theorem writeKey_acts (k : Nat) (v : Byte) : (s.writeKey k v).acts = s.acts := rfl
@[simp] theorem writeKey_actors (k : Nat) (v : Byte) : (s.writeKey k v).actors = s.actors := rfl
@[simp] theorem writeKey_mbxs (k : Nat) (v : Byte) : (s.writeKey k v).mbxs = s.mbxs := rfl
@[simp] theorem writeKey_coreCtx (k : Nat) (v : Byte) : (s.writeKey k v).coreCtx = s.coreCtx := rfl
@[simp] theorem writeKey_coreHw (k : Nat) (v : Byte) : (s.writeKey k v).coreHw = s.coreHw := rfl
@[simp] theorem writeKey_clCtx (k : Nat) (v : Byte) : (s.writeKey k v).clCtx = s.clCtx := rfl
@[simp] theorem writeKey_clHw (k : Nat) (v : Byte) : (s.writeKey k v).clHw = s.clHw := rfl
@[simp] theorem writeKey_ctxs (k : Nat) (v : Byte) : (s.writeKey k v).ctxs = s.ctxs := rfl
@[simp] theorem writeKey_power (k : Nat) (v : Byte) : (s.writeKey k v).power = s.power := rfl
@[simp] theorem writeKey_bootFailed (k : Nat) (v : Byte) : (s.writeKey k v).bootFailed = s.bootFailed := rfl
@[simp] theorem writeKey_sid (k : Nat) (v : Byte) : (s.writeKey k v).sid = s.sid := rfl
@[simp] theorem writeKey_clock (k : Nat) (v : Byte) : (s.writeKey k v).clock = s.clock := rfl
@[simp] theorem writeKey_keysHeld (k : Nat) (v : Byte) : (s.writeKey k v).keysHeld = s.keysHeld := rfl
@[simp] theorem writeKey_slotA (k : Nat) (v : Byte) : (s.writeKey k v).slotA = s.slotA := rfl
@[simp] theorem writeKey_slotB (k : Nat) (v : Byte) : (s.writeKey k v).slotB = s.slotB := rfl
@[simp] theorem writeKey_bootB (k : Nat) (v : Byte) : (s.writeKey k v).bootB = s.bootB := rfl
@[simp] theorem writeKey_svn (k : Nat) (v : Byte) : (s.writeKey k v).svn = s.svn := rfl
@[simp] theorem writeKey_patch (k : Nat) (v : Byte) : (s.writeKey k v).patch = s.patch := rfl
@[simp] theorem writeKey_debugLock (k : Nat) (v : Byte) : (s.writeKey k v).debugLock = s.debugLock := rfl
@[simp] theorem writeKey_update (k : Nat) (v : Byte) : (s.writeKey k v).update = s.update := rfl
@[simp] theorem writeKey_beat (k : Nat) (v : Byte) : (s.writeKey k v).beat = s.beat := rfl
@[simp] theorem writeKey_spdm (k : Nat) (v : Byte) : (s.writeKey k v).spdm = s.spdm := rfl
@[simp] theorem writeKey_gov (k : Nat) (v : Byte) : (s.writeKey k v).gov = s.gov := rfl
@[simp] theorem writeKey_powerCap (k : Nat) (v : Byte) : (s.writeKey k v).powerCap = s.powerCap := rfl
@[simp] theorem writeKey_fid (k : Nat) (v : Byte) : (s.writeKey k v).fid = s.fid := rfl
@[simp] theorem writeKey_ports (k : Nat) (v : Byte) : (s.writeKey k v).ports = s.ports := rfl
@[simp] theorem writeKey_spares (k : Nat) (v : Byte) : (s.writeKey k v).spares = s.spares := rfl
@[simp] theorem writeKey_seams (k : Nat) (v : Byte) : (s.writeKey k v).seams = s.seams := rfl
@[simp] theorem writeKey_pelson (k : Nat) (v : Byte) : (s.writeKey k v).pelson = s.pelson := rfl
@[simp] theorem writeKey_waiting (k : Nat) (v : Byte) : (s.writeKey k v).waiting = s.waiting := rfl
@[simp] theorem writeKey_owners (k : Nat) (v : Byte) : (s.writeKey k v).owners = s.owners := rfl
@[simp] theorem writeKey_harts (k : Nat) (v : Byte) : (s.writeKey k v).harts = s.harts := rfl

/-! ## `after` -/

@[simp] theorem after_cur (d : Nat) (i : Instr) : (s.after d i).cur = s.cur := rfl
@[simp] theorem after_blocked (d : Nat) (i : Instr) : (s.after d i).blocked = s.blocked := rfl
@[simp] theorem after_issued (d : Nat) (i : Instr) : (s.after d i).issued = s.issued := rfl
@[simp] theorem after_free (d : Nat) (i : Instr) : (s.after d i).free = s.free := rfl
@[simp] theorem after_cycle (d : Nat) (i : Instr) : (s.after d i).cycle = s.cycle := rfl
@[simp] theorem after_reft (d : Nat) (i : Instr) : (s.after d i).reft = s.reft := rfl
@[simp] theorem after_mem (d : Nat) (i : Instr) : (s.after d i).mem = s.mem := rfl
@[simp] theorem after_poison (d : Nat) (i : Instr) : (s.after d i).poison = s.poison := rfl
@[simp] theorem after_sectorKeys (d : Nat) (i : Instr) : (s.after d i).sectorKeys = s.sectorKeys := rfl
@[simp] theorem after_corrected (d : Nat) (i : Instr) : (s.after d i).corrected = s.corrected := rfl
@[simp] theorem after_acts (d : Nat) (i : Instr) : (s.after d i).acts = s.acts := rfl
@[simp] theorem after_actors (d : Nat) (i : Instr) : (s.after d i).actors = s.actors := rfl
@[simp] theorem after_mbxs (d : Nat) (i : Instr) : (s.after d i).mbxs = s.mbxs := rfl
@[simp] theorem after_coreCtx (d : Nat) (i : Instr) : (s.after d i).coreCtx = s.coreCtx := rfl
@[simp] theorem after_coreHw (d : Nat) (i : Instr) : (s.after d i).coreHw = s.coreHw := rfl
@[simp] theorem after_clCtx (d : Nat) (i : Instr) : (s.after d i).clCtx = s.clCtx := rfl
@[simp] theorem after_clHw (d : Nat) (i : Instr) : (s.after d i).clHw = s.clHw := rfl
@[simp] theorem after_ctxs (d : Nat) (i : Instr) : (s.after d i).ctxs = s.ctxs := rfl
@[simp] theorem after_power (d : Nat) (i : Instr) : (s.after d i).power = s.power := rfl
@[simp] theorem after_bootFailed (d : Nat) (i : Instr) : (s.after d i).bootFailed = s.bootFailed := rfl
@[simp] theorem after_sid (d : Nat) (i : Instr) : (s.after d i).sid = s.sid := rfl
@[simp] theorem after_clock (d : Nat) (i : Instr) : (s.after d i).clock = s.clock := rfl
@[simp] theorem after_keysHeld (d : Nat) (i : Instr) : (s.after d i).keysHeld = s.keysHeld := rfl
@[simp] theorem after_slotA (d : Nat) (i : Instr) : (s.after d i).slotA = s.slotA := rfl
@[simp] theorem after_slotB (d : Nat) (i : Instr) : (s.after d i).slotB = s.slotB := rfl
@[simp] theorem after_bootB (d : Nat) (i : Instr) : (s.after d i).bootB = s.bootB := rfl
@[simp] theorem after_svn (d : Nat) (i : Instr) : (s.after d i).svn = s.svn := rfl
@[simp] theorem after_patch (d : Nat) (i : Instr) : (s.after d i).patch = s.patch := rfl
@[simp] theorem after_debugLock (d : Nat) (i : Instr) : (s.after d i).debugLock = s.debugLock := rfl
@[simp] theorem after_update (d : Nat) (i : Instr) : (s.after d i).update = s.update := rfl
@[simp] theorem after_beat (d : Nat) (i : Instr) : (s.after d i).beat = s.beat := rfl
@[simp] theorem after_spdm (d : Nat) (i : Instr) : (s.after d i).spdm = s.spdm := rfl
@[simp] theorem after_gov (d : Nat) (i : Instr) : (s.after d i).gov = s.gov := rfl
@[simp] theorem after_powerCap (d : Nat) (i : Instr) : (s.after d i).powerCap = s.powerCap := rfl
@[simp] theorem after_fid (d : Nat) (i : Instr) : (s.after d i).fid = s.fid := rfl
@[simp] theorem after_ports (d : Nat) (i : Instr) : (s.after d i).ports = s.ports := rfl
@[simp] theorem after_spares (d : Nat) (i : Instr) : (s.after d i).spares = s.spares := rfl
@[simp] theorem after_seams (d : Nat) (i : Instr) : (s.after d i).seams = s.seams := rfl
@[simp] theorem after_pelson (d : Nat) (i : Instr) : (s.after d i).pelson = s.pelson := rfl
@[simp] theorem after_waiting (d : Nat) (i : Instr) : (s.after d i).waiting = s.waiting := rfl
@[simp] theorem after_owners (d : Nat) (i : Instr) : (s.after d i).owners = s.owners := rfl
@[simp] theorem after_harts (d : Nat) (i : Instr) : (s.after d i).harts = s.harts := rfl

/-! ## `hold` -/

@[simp] theorem hold_agenda (w : BitVec 6) : (s.hold w).agenda = s.agenda := rfl
@[simp] theorem hold_cur (w : BitVec 6) : (s.hold w).cur = s.cur := rfl
@[simp] theorem hold_issued (w : BitVec 6) : (s.hold w).issued = s.issued := rfl
@[simp] theorem hold_free (w : BitVec 6) : (s.hold w).free = s.free := rfl
@[simp] theorem hold_cycle (w : BitVec 6) : (s.hold w).cycle = s.cycle := rfl
@[simp] theorem hold_reft (w : BitVec 6) : (s.hold w).reft = s.reft := rfl
@[simp] theorem hold_mem (w : BitVec 6) : (s.hold w).mem = s.mem := rfl
@[simp] theorem hold_poison (w : BitVec 6) : (s.hold w).poison = s.poison := rfl
@[simp] theorem hold_sectorKeys (w : BitVec 6) : (s.hold w).sectorKeys = s.sectorKeys := rfl
@[simp] theorem hold_corrected (w : BitVec 6) : (s.hold w).corrected = s.corrected := rfl
@[simp] theorem hold_acts (w : BitVec 6) : (s.hold w).acts = s.acts := rfl
@[simp] theorem hold_actors (w : BitVec 6) : (s.hold w).actors = s.actors := rfl
@[simp] theorem hold_mbxs (w : BitVec 6) : (s.hold w).mbxs = s.mbxs := rfl
@[simp] theorem hold_coreCtx (w : BitVec 6) : (s.hold w).coreCtx = s.coreCtx := rfl
@[simp] theorem hold_coreHw (w : BitVec 6) : (s.hold w).coreHw = s.coreHw := rfl
@[simp] theorem hold_clCtx (w : BitVec 6) : (s.hold w).clCtx = s.clCtx := rfl
@[simp] theorem hold_clHw (w : BitVec 6) : (s.hold w).clHw = s.clHw := rfl
@[simp] theorem hold_ctxs (w : BitVec 6) : (s.hold w).ctxs = s.ctxs := rfl
@[simp] theorem hold_power (w : BitVec 6) : (s.hold w).power = s.power := rfl
@[simp] theorem hold_bootFailed (w : BitVec 6) : (s.hold w).bootFailed = s.bootFailed := rfl
@[simp] theorem hold_sid (w : BitVec 6) : (s.hold w).sid = s.sid := rfl
@[simp] theorem hold_clock (w : BitVec 6) : (s.hold w).clock = s.clock := rfl
@[simp] theorem hold_keysHeld (w : BitVec 6) : (s.hold w).keysHeld = s.keysHeld := rfl
@[simp] theorem hold_slotA (w : BitVec 6) : (s.hold w).slotA = s.slotA := rfl
@[simp] theorem hold_slotB (w : BitVec 6) : (s.hold w).slotB = s.slotB := rfl
@[simp] theorem hold_bootB (w : BitVec 6) : (s.hold w).bootB = s.bootB := rfl
@[simp] theorem hold_svn (w : BitVec 6) : (s.hold w).svn = s.svn := rfl
@[simp] theorem hold_patch (w : BitVec 6) : (s.hold w).patch = s.patch := rfl
@[simp] theorem hold_debugLock (w : BitVec 6) : (s.hold w).debugLock = s.debugLock := rfl
@[simp] theorem hold_update (w : BitVec 6) : (s.hold w).update = s.update := rfl
@[simp] theorem hold_beat (w : BitVec 6) : (s.hold w).beat = s.beat := rfl
@[simp] theorem hold_spdm (w : BitVec 6) : (s.hold w).spdm = s.spdm := rfl
@[simp] theorem hold_gov (w : BitVec 6) : (s.hold w).gov = s.gov := rfl
@[simp] theorem hold_powerCap (w : BitVec 6) : (s.hold w).powerCap = s.powerCap := rfl
@[simp] theorem hold_fid (w : BitVec 6) : (s.hold w).fid = s.fid := rfl
@[simp] theorem hold_ports (w : BitVec 6) : (s.hold w).ports = s.ports := rfl
@[simp] theorem hold_spares (w : BitVec 6) : (s.hold w).spares = s.spares := rfl
@[simp] theorem hold_seams (w : BitVec 6) : (s.hold w).seams = s.seams := rfl
@[simp] theorem hold_pelson (w : BitVec 6) : (s.hold w).pelson = s.pelson := rfl
@[simp] theorem hold_waiting (w : BitVec 6) : (s.hold w).waiting = s.waiting := rfl
@[simp] theorem hold_owners (w : BitVec 6) : (s.hold w).owners = s.owners := rfl
@[simp] theorem hold_harts (w : BitVec 6) : (s.hold w).harts = s.harts := rfl

/-! ## `waitOn` -/

@[simp] theorem waitOn_agenda (w : Wait) : (s.waitOn w).agenda = s.agenda := rfl
@[simp] theorem waitOn_cur (w : Wait) : (s.waitOn w).cur = s.cur := rfl
@[simp] theorem waitOn_blocked (w : Wait) : (s.waitOn w).blocked = s.blocked := rfl
@[simp] theorem waitOn_issued (w : Wait) : (s.waitOn w).issued = s.issued := rfl
@[simp] theorem waitOn_free (w : Wait) : (s.waitOn w).free = s.free := rfl
@[simp] theorem waitOn_cycle (w : Wait) : (s.waitOn w).cycle = s.cycle := rfl
@[simp] theorem waitOn_reft (w : Wait) : (s.waitOn w).reft = s.reft := rfl
@[simp] theorem waitOn_mem (w : Wait) : (s.waitOn w).mem = s.mem := rfl
@[simp] theorem waitOn_poison (w : Wait) : (s.waitOn w).poison = s.poison := rfl
@[simp] theorem waitOn_sectorKeys (w : Wait) : (s.waitOn w).sectorKeys = s.sectorKeys := rfl
@[simp] theorem waitOn_corrected (w : Wait) : (s.waitOn w).corrected = s.corrected := rfl
@[simp] theorem waitOn_actors (w : Wait) : (s.waitOn w).actors = s.actors := rfl
@[simp] theorem waitOn_mbxs (w : Wait) : (s.waitOn w).mbxs = s.mbxs := rfl
@[simp] theorem waitOn_coreCtx (w : Wait) : (s.waitOn w).coreCtx = s.coreCtx := rfl
@[simp] theorem waitOn_coreHw (w : Wait) : (s.waitOn w).coreHw = s.coreHw := rfl
@[simp] theorem waitOn_clCtx (w : Wait) : (s.waitOn w).clCtx = s.clCtx := rfl
@[simp] theorem waitOn_clHw (w : Wait) : (s.waitOn w).clHw = s.clHw := rfl
@[simp] theorem waitOn_ctxs (w : Wait) : (s.waitOn w).ctxs = s.ctxs := rfl
@[simp] theorem waitOn_power (w : Wait) : (s.waitOn w).power = s.power := rfl
@[simp] theorem waitOn_bootFailed (w : Wait) : (s.waitOn w).bootFailed = s.bootFailed := rfl
@[simp] theorem waitOn_sid (w : Wait) : (s.waitOn w).sid = s.sid := rfl
@[simp] theorem waitOn_clock (w : Wait) : (s.waitOn w).clock = s.clock := rfl
@[simp] theorem waitOn_keysHeld (w : Wait) : (s.waitOn w).keysHeld = s.keysHeld := rfl
@[simp] theorem waitOn_slotA (w : Wait) : (s.waitOn w).slotA = s.slotA := rfl
@[simp] theorem waitOn_slotB (w : Wait) : (s.waitOn w).slotB = s.slotB := rfl
@[simp] theorem waitOn_bootB (w : Wait) : (s.waitOn w).bootB = s.bootB := rfl
@[simp] theorem waitOn_svn (w : Wait) : (s.waitOn w).svn = s.svn := rfl
@[simp] theorem waitOn_patch (w : Wait) : (s.waitOn w).patch = s.patch := rfl
@[simp] theorem waitOn_debugLock (w : Wait) : (s.waitOn w).debugLock = s.debugLock := rfl
@[simp] theorem waitOn_update (w : Wait) : (s.waitOn w).update = s.update := rfl
@[simp] theorem waitOn_beat (w : Wait) : (s.waitOn w).beat = s.beat := rfl
@[simp] theorem waitOn_spdm (w : Wait) : (s.waitOn w).spdm = s.spdm := rfl
@[simp] theorem waitOn_gov (w : Wait) : (s.waitOn w).gov = s.gov := rfl
@[simp] theorem waitOn_powerCap (w : Wait) : (s.waitOn w).powerCap = s.powerCap := rfl
@[simp] theorem waitOn_fid (w : Wait) : (s.waitOn w).fid = s.fid := rfl
@[simp] theorem waitOn_ports (w : Wait) : (s.waitOn w).ports = s.ports := rfl
@[simp] theorem waitOn_spares (w : Wait) : (s.waitOn w).spares = s.spares := rfl
@[simp] theorem waitOn_seams (w : Wait) : (s.waitOn w).seams = s.seams := rfl
@[simp] theorem waitOn_pelson (w : Wait) : (s.waitOn w).pelson = s.pelson := rfl
@[simp] theorem waitOn_waiting (w : Wait) : (s.waitOn w).waiting = s.waiting := rfl
@[simp] theorem waitOn_owners (w : Wait) : (s.waitOn w).owners = s.owners := rfl
@[simp] theorem waitOn_harts (w : Wait) : (s.waitOn w).harts = s.harts := rfl

/-! ## `goTo` -/

@[simp] theorem goTo_agenda (pc : Word) (r : Arrival) (i : Option Nat) : (s.goTo pc r i).agenda = s.agenda := rfl
@[simp] theorem goTo_cur (pc : Word) (r : Arrival) (i : Option Nat) : (s.goTo pc r i).cur = s.cur := rfl
@[simp] theorem goTo_blocked (pc : Word) (r : Arrival) (i : Option Nat) : (s.goTo pc r i).blocked = s.blocked := rfl
@[simp] theorem goTo_issued (pc : Word) (r : Arrival) (i : Option Nat) : (s.goTo pc r i).issued = s.issued := rfl
@[simp] theorem goTo_free (pc : Word) (r : Arrival) (i : Option Nat) : (s.goTo pc r i).free = s.free := rfl
@[simp] theorem goTo_cycle (pc : Word) (r : Arrival) (i : Option Nat) : (s.goTo pc r i).cycle = s.cycle := rfl
@[simp] theorem goTo_reft (pc : Word) (r : Arrival) (i : Option Nat) : (s.goTo pc r i).reft = s.reft := rfl
@[simp] theorem goTo_mem (pc : Word) (r : Arrival) (i : Option Nat) : (s.goTo pc r i).mem = s.mem := rfl
@[simp] theorem goTo_poison (pc : Word) (r : Arrival) (i : Option Nat) : (s.goTo pc r i).poison = s.poison := rfl
@[simp] theorem goTo_sectorKeys (pc : Word) (r : Arrival) (i : Option Nat) : (s.goTo pc r i).sectorKeys = s.sectorKeys := rfl
@[simp] theorem goTo_corrected (pc : Word) (r : Arrival) (i : Option Nat) : (s.goTo pc r i).corrected = s.corrected := rfl
@[simp] theorem goTo_actors (pc : Word) (r : Arrival) (i : Option Nat) : (s.goTo pc r i).actors = s.actors := rfl
@[simp] theorem goTo_mbxs (pc : Word) (r : Arrival) (i : Option Nat) : (s.goTo pc r i).mbxs = s.mbxs := rfl
@[simp] theorem goTo_coreCtx (pc : Word) (r : Arrival) (i : Option Nat) : (s.goTo pc r i).coreCtx = s.coreCtx := rfl
@[simp] theorem goTo_coreHw (pc : Word) (r : Arrival) (i : Option Nat) : (s.goTo pc r i).coreHw = s.coreHw := rfl
@[simp] theorem goTo_clCtx (pc : Word) (r : Arrival) (i : Option Nat) : (s.goTo pc r i).clCtx = s.clCtx := rfl
@[simp] theorem goTo_clHw (pc : Word) (r : Arrival) (i : Option Nat) : (s.goTo pc r i).clHw = s.clHw := rfl
@[simp] theorem goTo_ctxs (pc : Word) (r : Arrival) (i : Option Nat) : (s.goTo pc r i).ctxs = s.ctxs := rfl
@[simp] theorem goTo_power (pc : Word) (r : Arrival) (i : Option Nat) : (s.goTo pc r i).power = s.power := rfl
@[simp] theorem goTo_bootFailed (pc : Word) (r : Arrival) (i : Option Nat) : (s.goTo pc r i).bootFailed = s.bootFailed := rfl
@[simp] theorem goTo_sid (pc : Word) (r : Arrival) (i : Option Nat) : (s.goTo pc r i).sid = s.sid := rfl
@[simp] theorem goTo_clock (pc : Word) (r : Arrival) (i : Option Nat) : (s.goTo pc r i).clock = s.clock := rfl
@[simp] theorem goTo_keysHeld (pc : Word) (r : Arrival) (i : Option Nat) : (s.goTo pc r i).keysHeld = s.keysHeld := rfl
@[simp] theorem goTo_slotA (pc : Word) (r : Arrival) (i : Option Nat) : (s.goTo pc r i).slotA = s.slotA := rfl
@[simp] theorem goTo_slotB (pc : Word) (r : Arrival) (i : Option Nat) : (s.goTo pc r i).slotB = s.slotB := rfl
@[simp] theorem goTo_bootB (pc : Word) (r : Arrival) (i : Option Nat) : (s.goTo pc r i).bootB = s.bootB := rfl
@[simp] theorem goTo_svn (pc : Word) (r : Arrival) (i : Option Nat) : (s.goTo pc r i).svn = s.svn := rfl
@[simp] theorem goTo_patch (pc : Word) (r : Arrival) (i : Option Nat) : (s.goTo pc r i).patch = s.patch := rfl
@[simp] theorem goTo_debugLock (pc : Word) (r : Arrival) (i : Option Nat) : (s.goTo pc r i).debugLock = s.debugLock := rfl
@[simp] theorem goTo_update (pc : Word) (r : Arrival) (i : Option Nat) : (s.goTo pc r i).update = s.update := rfl
@[simp] theorem goTo_beat (pc : Word) (r : Arrival) (i : Option Nat) : (s.goTo pc r i).beat = s.beat := rfl
@[simp] theorem goTo_spdm (pc : Word) (r : Arrival) (i : Option Nat) : (s.goTo pc r i).spdm = s.spdm := rfl
@[simp] theorem goTo_gov (pc : Word) (r : Arrival) (i : Option Nat) : (s.goTo pc r i).gov = s.gov := rfl
@[simp] theorem goTo_powerCap (pc : Word) (r : Arrival) (i : Option Nat) : (s.goTo pc r i).powerCap = s.powerCap := rfl
@[simp] theorem goTo_fid (pc : Word) (r : Arrival) (i : Option Nat) : (s.goTo pc r i).fid = s.fid := rfl
@[simp] theorem goTo_ports (pc : Word) (r : Arrival) (i : Option Nat) : (s.goTo pc r i).ports = s.ports := rfl
@[simp] theorem goTo_spares (pc : Word) (r : Arrival) (i : Option Nat) : (s.goTo pc r i).spares = s.spares := rfl
@[simp] theorem goTo_seams (pc : Word) (r : Arrival) (i : Option Nat) : (s.goTo pc r i).seams = s.seams := rfl
@[simp] theorem goTo_pelson (pc : Word) (r : Arrival) (i : Option Nat) : (s.goTo pc r i).pelson = s.pelson := rfl
@[simp] theorem goTo_waiting (pc : Word) (r : Arrival) (i : Option Nat) : (s.goTo pc r i).waiting = s.waiting := rfl
@[simp] theorem goTo_owners (pc : Word) (r : Arrival) (i : Option Nat) : (s.goTo pc r i).owners = s.owners := rfl
@[simp] theorem goTo_harts (pc : Word) (r : Arrival) (i : Option Nat) : (s.goTo pc r i).harts = s.harts := rfl

/-! ## `pushOut` -/

@[simp] theorem pushOut_agenda (e : OutEntry) : (s.pushOut e).agenda = s.agenda := rfl
@[simp] theorem pushOut_cur (e : OutEntry) : (s.pushOut e).cur = s.cur := rfl
@[simp] theorem pushOut_blocked (e : OutEntry) : (s.pushOut e).blocked = s.blocked := rfl
@[simp] theorem pushOut_issued (e : OutEntry) : (s.pushOut e).issued = s.issued := rfl
@[simp] theorem pushOut_free (e : OutEntry) : (s.pushOut e).free = s.free := rfl
@[simp] theorem pushOut_cycle (e : OutEntry) : (s.pushOut e).cycle = s.cycle := rfl
@[simp] theorem pushOut_reft (e : OutEntry) : (s.pushOut e).reft = s.reft := rfl
@[simp] theorem pushOut_mem (e : OutEntry) : (s.pushOut e).mem = s.mem := rfl
@[simp] theorem pushOut_poison (e : OutEntry) : (s.pushOut e).poison = s.poison := rfl
@[simp] theorem pushOut_sectorKeys (e : OutEntry) : (s.pushOut e).sectorKeys = s.sectorKeys := rfl
@[simp] theorem pushOut_corrected (e : OutEntry) : (s.pushOut e).corrected = s.corrected := rfl
@[simp] theorem pushOut_actors (e : OutEntry) : (s.pushOut e).actors = s.actors := rfl
@[simp] theorem pushOut_mbxs (e : OutEntry) : (s.pushOut e).mbxs = s.mbxs := rfl
@[simp] theorem pushOut_coreCtx (e : OutEntry) : (s.pushOut e).coreCtx = s.coreCtx := rfl
@[simp] theorem pushOut_coreHw (e : OutEntry) : (s.pushOut e).coreHw = s.coreHw := rfl
@[simp] theorem pushOut_clCtx (e : OutEntry) : (s.pushOut e).clCtx = s.clCtx := rfl
@[simp] theorem pushOut_clHw (e : OutEntry) : (s.pushOut e).clHw = s.clHw := rfl
@[simp] theorem pushOut_ctxs (e : OutEntry) : (s.pushOut e).ctxs = s.ctxs := rfl
@[simp] theorem pushOut_power (e : OutEntry) : (s.pushOut e).power = s.power := rfl
@[simp] theorem pushOut_bootFailed (e : OutEntry) : (s.pushOut e).bootFailed = s.bootFailed := rfl
@[simp] theorem pushOut_sid (e : OutEntry) : (s.pushOut e).sid = s.sid := rfl
@[simp] theorem pushOut_clock (e : OutEntry) : (s.pushOut e).clock = s.clock := rfl
@[simp] theorem pushOut_keysHeld (e : OutEntry) : (s.pushOut e).keysHeld = s.keysHeld := rfl
@[simp] theorem pushOut_slotA (e : OutEntry) : (s.pushOut e).slotA = s.slotA := rfl
@[simp] theorem pushOut_slotB (e : OutEntry) : (s.pushOut e).slotB = s.slotB := rfl
@[simp] theorem pushOut_bootB (e : OutEntry) : (s.pushOut e).bootB = s.bootB := rfl
@[simp] theorem pushOut_svn (e : OutEntry) : (s.pushOut e).svn = s.svn := rfl
@[simp] theorem pushOut_patch (e : OutEntry) : (s.pushOut e).patch = s.patch := rfl
@[simp] theorem pushOut_debugLock (e : OutEntry) : (s.pushOut e).debugLock = s.debugLock := rfl
@[simp] theorem pushOut_update (e : OutEntry) : (s.pushOut e).update = s.update := rfl
@[simp] theorem pushOut_beat (e : OutEntry) : (s.pushOut e).beat = s.beat := rfl
@[simp] theorem pushOut_spdm (e : OutEntry) : (s.pushOut e).spdm = s.spdm := rfl
@[simp] theorem pushOut_gov (e : OutEntry) : (s.pushOut e).gov = s.gov := rfl
@[simp] theorem pushOut_powerCap (e : OutEntry) : (s.pushOut e).powerCap = s.powerCap := rfl
@[simp] theorem pushOut_fid (e : OutEntry) : (s.pushOut e).fid = s.fid := rfl
@[simp] theorem pushOut_ports (e : OutEntry) : (s.pushOut e).ports = s.ports := rfl
@[simp] theorem pushOut_spares (e : OutEntry) : (s.pushOut e).spares = s.spares := rfl
@[simp] theorem pushOut_seams (e : OutEntry) : (s.pushOut e).seams = s.seams := rfl
@[simp] theorem pushOut_pelson (e : OutEntry) : (s.pushOut e).pelson = s.pelson := rfl
@[simp] theorem pushOut_waiting (e : OutEntry) : (s.pushOut e).waiting = s.waiting := rfl
@[simp] theorem pushOut_owners (e : OutEntry) : (s.pushOut e).owners = s.owners := rfl
@[simp] theorem pushOut_harts (e : OutEntry) : (s.pushOut e).harts = s.harts := rfl

/-! ## `modActAt` -/

@[simp] theorem modActAt_agenda (t : SlotId) (f : Act → Act) : (s.modActAt t f).agenda = s.agenda := by unfold State.modActAt; split <;> rfl
@[simp] theorem modActAt_cur (t : SlotId) (f : Act → Act) : (s.modActAt t f).cur = s.cur := by unfold State.modActAt; split <;> rfl
@[simp] theorem modActAt_blocked (t : SlotId) (f : Act → Act) : (s.modActAt t f).blocked = s.blocked := by unfold State.modActAt; split <;> rfl
@[simp] theorem modActAt_issued (t : SlotId) (f : Act → Act) : (s.modActAt t f).issued = s.issued := by unfold State.modActAt; split <;> rfl
@[simp] theorem modActAt_free (t : SlotId) (f : Act → Act) : (s.modActAt t f).free = s.free := by unfold State.modActAt; split <;> rfl
@[simp] theorem modActAt_cycle (t : SlotId) (f : Act → Act) : (s.modActAt t f).cycle = s.cycle := by unfold State.modActAt; split <;> rfl
@[simp] theorem modActAt_reft (t : SlotId) (f : Act → Act) : (s.modActAt t f).reft = s.reft := by unfold State.modActAt; split <;> rfl
@[simp] theorem modActAt_mem (t : SlotId) (f : Act → Act) : (s.modActAt t f).mem = s.mem := by unfold State.modActAt; split <;> rfl
@[simp] theorem modActAt_poison (t : SlotId) (f : Act → Act) : (s.modActAt t f).poison = s.poison := by unfold State.modActAt; split <;> rfl
@[simp] theorem modActAt_sectorKeys (t : SlotId) (f : Act → Act) : (s.modActAt t f).sectorKeys = s.sectorKeys := by unfold State.modActAt; split <;> rfl
@[simp] theorem modActAt_corrected (t : SlotId) (f : Act → Act) : (s.modActAt t f).corrected = s.corrected := by unfold State.modActAt; split <;> rfl
@[simp] theorem modActAt_actors (t : SlotId) (f : Act → Act) : (s.modActAt t f).actors = s.actors := by unfold State.modActAt; split <;> rfl
@[simp] theorem modActAt_mbxs (t : SlotId) (f : Act → Act) : (s.modActAt t f).mbxs = s.mbxs := by unfold State.modActAt; split <;> rfl
@[simp] theorem modActAt_coreCtx (t : SlotId) (f : Act → Act) : (s.modActAt t f).coreCtx = s.coreCtx := by unfold State.modActAt; split <;> rfl
@[simp] theorem modActAt_coreHw (t : SlotId) (f : Act → Act) : (s.modActAt t f).coreHw = s.coreHw := by unfold State.modActAt; split <;> rfl
@[simp] theorem modActAt_clCtx (t : SlotId) (f : Act → Act) : (s.modActAt t f).clCtx = s.clCtx := by unfold State.modActAt; split <;> rfl
@[simp] theorem modActAt_clHw (t : SlotId) (f : Act → Act) : (s.modActAt t f).clHw = s.clHw := by unfold State.modActAt; split <;> rfl
@[simp] theorem modActAt_ctxs (t : SlotId) (f : Act → Act) : (s.modActAt t f).ctxs = s.ctxs := by unfold State.modActAt; split <;> rfl
@[simp] theorem modActAt_power (t : SlotId) (f : Act → Act) : (s.modActAt t f).power = s.power := by unfold State.modActAt; split <;> rfl
@[simp] theorem modActAt_bootFailed (t : SlotId) (f : Act → Act) : (s.modActAt t f).bootFailed = s.bootFailed := by unfold State.modActAt; split <;> rfl
@[simp] theorem modActAt_sid (t : SlotId) (f : Act → Act) : (s.modActAt t f).sid = s.sid := by unfold State.modActAt; split <;> rfl
@[simp] theorem modActAt_clock (t : SlotId) (f : Act → Act) : (s.modActAt t f).clock = s.clock := by unfold State.modActAt; split <;> rfl
@[simp] theorem modActAt_keysHeld (t : SlotId) (f : Act → Act) : (s.modActAt t f).keysHeld = s.keysHeld := by unfold State.modActAt; split <;> rfl
@[simp] theorem modActAt_slotA (t : SlotId) (f : Act → Act) : (s.modActAt t f).slotA = s.slotA := by unfold State.modActAt; split <;> rfl
@[simp] theorem modActAt_slotB (t : SlotId) (f : Act → Act) : (s.modActAt t f).slotB = s.slotB := by unfold State.modActAt; split <;> rfl
@[simp] theorem modActAt_bootB (t : SlotId) (f : Act → Act) : (s.modActAt t f).bootB = s.bootB := by unfold State.modActAt; split <;> rfl
@[simp] theorem modActAt_svn (t : SlotId) (f : Act → Act) : (s.modActAt t f).svn = s.svn := by unfold State.modActAt; split <;> rfl
@[simp] theorem modActAt_patch (t : SlotId) (f : Act → Act) : (s.modActAt t f).patch = s.patch := by unfold State.modActAt; split <;> rfl
@[simp] theorem modActAt_debugLock (t : SlotId) (f : Act → Act) : (s.modActAt t f).debugLock = s.debugLock := by unfold State.modActAt; split <;> rfl
@[simp] theorem modActAt_update (t : SlotId) (f : Act → Act) : (s.modActAt t f).update = s.update := by unfold State.modActAt; split <;> rfl
@[simp] theorem modActAt_beat (t : SlotId) (f : Act → Act) : (s.modActAt t f).beat = s.beat := by unfold State.modActAt; split <;> rfl
@[simp] theorem modActAt_spdm (t : SlotId) (f : Act → Act) : (s.modActAt t f).spdm = s.spdm := by unfold State.modActAt; split <;> rfl
@[simp] theorem modActAt_gov (t : SlotId) (f : Act → Act) : (s.modActAt t f).gov = s.gov := by unfold State.modActAt; split <;> rfl
@[simp] theorem modActAt_powerCap (t : SlotId) (f : Act → Act) : (s.modActAt t f).powerCap = s.powerCap := by unfold State.modActAt; split <;> rfl
@[simp] theorem modActAt_fid (t : SlotId) (f : Act → Act) : (s.modActAt t f).fid = s.fid := by unfold State.modActAt; split <;> rfl
@[simp] theorem modActAt_ports (t : SlotId) (f : Act → Act) : (s.modActAt t f).ports = s.ports := by unfold State.modActAt; split <;> rfl
@[simp] theorem modActAt_spares (t : SlotId) (f : Act → Act) : (s.modActAt t f).spares = s.spares := by unfold State.modActAt; split <;> rfl
@[simp] theorem modActAt_seams (t : SlotId) (f : Act → Act) : (s.modActAt t f).seams = s.seams := by unfold State.modActAt; split <;> rfl
@[simp] theorem modActAt_pelson (t : SlotId) (f : Act → Act) : (s.modActAt t f).pelson = s.pelson := by unfold State.modActAt; split <;> rfl
@[simp] theorem modActAt_waiting (t : SlotId) (f : Act → Act) : (s.modActAt t f).waiting = s.waiting := by unfold State.modActAt; split <;> rfl
@[simp] theorem modActAt_owners (t : SlotId) (f : Act → Act) : (s.modActAt t f).owners = s.owners := by unfold State.modActAt; split <;> rfl
@[simp] theorem modActAt_harts (t : SlotId) (f : Act → Act) : (s.modActAt t f).harts = s.harts := by unfold State.modActAt; split <;> rfl

/-! ## `now` -/

@[simp] theorem now_cur (i : Instr) : (s.now i).cur = s.cur := by unfold State.now; split <;> rfl
@[simp] theorem now_blocked (i : Instr) : (s.now i).blocked = s.blocked := by unfold State.now; split <;> rfl
@[simp] theorem now_issued (i : Instr) : (s.now i).issued = s.issued := by unfold State.now; split <;> rfl
@[simp] theorem now_free (i : Instr) : (s.now i).free = s.free := by unfold State.now; split <;> rfl
@[simp] theorem now_cycle (i : Instr) : (s.now i).cycle = s.cycle := by unfold State.now; split <;> rfl
@[simp] theorem now_reft (i : Instr) : (s.now i).reft = s.reft := by unfold State.now; split <;> rfl
@[simp] theorem now_mem (i : Instr) : (s.now i).mem = s.mem := by unfold State.now; split <;> rfl
@[simp] theorem now_poison (i : Instr) : (s.now i).poison = s.poison := by unfold State.now; split <;> rfl
@[simp] theorem now_sectorKeys (i : Instr) : (s.now i).sectorKeys = s.sectorKeys := by unfold State.now; split <;> rfl
@[simp] theorem now_corrected (i : Instr) : (s.now i).corrected = s.corrected := by unfold State.now; split <;> rfl
@[simp] theorem now_acts (i : Instr) : (s.now i).acts = s.acts := by unfold State.now; split <;> rfl
@[simp] theorem now_actors (i : Instr) : (s.now i).actors = s.actors := by unfold State.now; split <;> rfl
@[simp] theorem now_mbxs (i : Instr) : (s.now i).mbxs = s.mbxs := by unfold State.now; split <;> rfl
@[simp] theorem now_coreCtx (i : Instr) : (s.now i).coreCtx = s.coreCtx := by unfold State.now; split <;> rfl
@[simp] theorem now_coreHw (i : Instr) : (s.now i).coreHw = s.coreHw := by unfold State.now; split <;> rfl
@[simp] theorem now_clCtx (i : Instr) : (s.now i).clCtx = s.clCtx := by unfold State.now; split <;> rfl
@[simp] theorem now_clHw (i : Instr) : (s.now i).clHw = s.clHw := by unfold State.now; split <;> rfl
@[simp] theorem now_ctxs (i : Instr) : (s.now i).ctxs = s.ctxs := by unfold State.now; split <;> rfl
@[simp] theorem now_power (i : Instr) : (s.now i).power = s.power := by unfold State.now; split <;> rfl
@[simp] theorem now_bootFailed (i : Instr) : (s.now i).bootFailed = s.bootFailed := by unfold State.now; split <;> rfl
@[simp] theorem now_sid (i : Instr) : (s.now i).sid = s.sid := by unfold State.now; split <;> rfl
@[simp] theorem now_clock (i : Instr) : (s.now i).clock = s.clock := by unfold State.now; split <;> rfl
@[simp] theorem now_keysHeld (i : Instr) : (s.now i).keysHeld = s.keysHeld := by unfold State.now; split <;> rfl
@[simp] theorem now_slotA (i : Instr) : (s.now i).slotA = s.slotA := by unfold State.now; split <;> rfl
@[simp] theorem now_slotB (i : Instr) : (s.now i).slotB = s.slotB := by unfold State.now; split <;> rfl
@[simp] theorem now_bootB (i : Instr) : (s.now i).bootB = s.bootB := by unfold State.now; split <;> rfl
@[simp] theorem now_svn (i : Instr) : (s.now i).svn = s.svn := by unfold State.now; split <;> rfl
@[simp] theorem now_patch (i : Instr) : (s.now i).patch = s.patch := by unfold State.now; split <;> rfl
@[simp] theorem now_debugLock (i : Instr) : (s.now i).debugLock = s.debugLock := by unfold State.now; split <;> rfl
@[simp] theorem now_update (i : Instr) : (s.now i).update = s.update := by unfold State.now; split <;> rfl
@[simp] theorem now_beat (i : Instr) : (s.now i).beat = s.beat := by unfold State.now; split <;> rfl
@[simp] theorem now_spdm (i : Instr) : (s.now i).spdm = s.spdm := by unfold State.now; split <;> rfl
@[simp] theorem now_gov (i : Instr) : (s.now i).gov = s.gov := by unfold State.now; split <;> rfl
@[simp] theorem now_powerCap (i : Instr) : (s.now i).powerCap = s.powerCap := by unfold State.now; split <;> rfl
@[simp] theorem now_fid (i : Instr) : (s.now i).fid = s.fid := by unfold State.now; split <;> rfl
@[simp] theorem now_ports (i : Instr) : (s.now i).ports = s.ports := by unfold State.now; split <;> rfl
@[simp] theorem now_spares (i : Instr) : (s.now i).spares = s.spares := by unfold State.now; split <;> rfl
@[simp] theorem now_seams (i : Instr) : (s.now i).seams = s.seams := by unfold State.now; split <;> rfl
@[simp] theorem now_pelson (i : Instr) : (s.now i).pelson = s.pelson := by unfold State.now; split <;> rfl
@[simp] theorem now_waiting (i : Instr) : (s.now i).waiting = s.waiting := by unfold State.now; split <;> rfl
@[simp] theorem now_owners (i : Instr) : (s.now i).owners = s.owners := by unfold State.now; split <;> rfl
@[simp] theorem now_harts (i : Instr) : (s.now i).harts = s.harts := by unfold State.now; split <;> rfl

/-! ## `count` -/

@[simp] theorem count_agenda (c : Nat) (e : BitVec 16) (n : Nat) : (s.count c e n).agenda = s.agenda := by unfold State.count; split <;> rfl
@[simp] theorem count_cur (c : Nat) (e : BitVec 16) (n : Nat) : (s.count c e n).cur = s.cur := by unfold State.count; split <;> rfl
@[simp] theorem count_blocked (c : Nat) (e : BitVec 16) (n : Nat) : (s.count c e n).blocked = s.blocked := by unfold State.count; split <;> rfl
@[simp] theorem count_issued (c : Nat) (e : BitVec 16) (n : Nat) : (s.count c e n).issued = s.issued := by unfold State.count; split <;> rfl
@[simp] theorem count_free (c : Nat) (e : BitVec 16) (n : Nat) : (s.count c e n).free = s.free := by unfold State.count; split <;> rfl
@[simp] theorem count_cycle (c : Nat) (e : BitVec 16) (n : Nat) : (s.count c e n).cycle = s.cycle := by unfold State.count; split <;> rfl
@[simp] theorem count_reft (c : Nat) (e : BitVec 16) (n : Nat) : (s.count c e n).reft = s.reft := by unfold State.count; split <;> rfl
@[simp] theorem count_mem (c : Nat) (e : BitVec 16) (n : Nat) : (s.count c e n).mem = s.mem := by unfold State.count; split <;> rfl
@[simp] theorem count_poison (c : Nat) (e : BitVec 16) (n : Nat) : (s.count c e n).poison = s.poison := by unfold State.count; split <;> rfl
@[simp] theorem count_sectorKeys (c : Nat) (e : BitVec 16) (n : Nat) : (s.count c e n).sectorKeys = s.sectorKeys := by unfold State.count; split <;> rfl
@[simp] theorem count_corrected (c : Nat) (e : BitVec 16) (n : Nat) : (s.count c e n).corrected = s.corrected := by unfold State.count; split <;> rfl
@[simp] theorem count_acts (c : Nat) (e : BitVec 16) (n : Nat) : (s.count c e n).acts = s.acts := by unfold State.count; split <;> rfl
@[simp] theorem count_actors (c : Nat) (e : BitVec 16) (n : Nat) : (s.count c e n).actors = s.actors := by unfold State.count; split <;> rfl
@[simp] theorem count_mbxs (c : Nat) (e : BitVec 16) (n : Nat) : (s.count c e n).mbxs = s.mbxs := by unfold State.count; split <;> rfl
@[simp] theorem count_coreCtx (c : Nat) (e : BitVec 16) (n : Nat) : (s.count c e n).coreCtx = s.coreCtx := by unfold State.count; split <;> rfl
@[simp] theorem count_coreHw (c : Nat) (e : BitVec 16) (n : Nat) : (s.count c e n).coreHw = s.coreHw := by unfold State.count; split <;> rfl
@[simp] theorem count_clCtx (c : Nat) (e : BitVec 16) (n : Nat) : (s.count c e n).clCtx = s.clCtx := by unfold State.count; split <;> rfl
@[simp] theorem count_clHw (c : Nat) (e : BitVec 16) (n : Nat) : (s.count c e n).clHw = s.clHw := by unfold State.count; split <;> rfl
@[simp] theorem count_power (c : Nat) (e : BitVec 16) (n : Nat) : (s.count c e n).power = s.power := by unfold State.count; split <;> rfl
@[simp] theorem count_bootFailed (c : Nat) (e : BitVec 16) (n : Nat) : (s.count c e n).bootFailed = s.bootFailed := by unfold State.count; split <;> rfl
@[simp] theorem count_sid (c : Nat) (e : BitVec 16) (n : Nat) : (s.count c e n).sid = s.sid := by unfold State.count; split <;> rfl
@[simp] theorem count_clock (c : Nat) (e : BitVec 16) (n : Nat) : (s.count c e n).clock = s.clock := by unfold State.count; split <;> rfl
@[simp] theorem count_keysHeld (c : Nat) (e : BitVec 16) (n : Nat) : (s.count c e n).keysHeld = s.keysHeld := by unfold State.count; split <;> rfl
@[simp] theorem count_slotA (c : Nat) (e : BitVec 16) (n : Nat) : (s.count c e n).slotA = s.slotA := by unfold State.count; split <;> rfl
@[simp] theorem count_slotB (c : Nat) (e : BitVec 16) (n : Nat) : (s.count c e n).slotB = s.slotB := by unfold State.count; split <;> rfl
@[simp] theorem count_bootB (c : Nat) (e : BitVec 16) (n : Nat) : (s.count c e n).bootB = s.bootB := by unfold State.count; split <;> rfl
@[simp] theorem count_svn (c : Nat) (e : BitVec 16) (n : Nat) : (s.count c e n).svn = s.svn := by unfold State.count; split <;> rfl
@[simp] theorem count_patch (c : Nat) (e : BitVec 16) (n : Nat) : (s.count c e n).patch = s.patch := by unfold State.count; split <;> rfl
@[simp] theorem count_debugLock (c : Nat) (e : BitVec 16) (n : Nat) : (s.count c e n).debugLock = s.debugLock := by unfold State.count; split <;> rfl
@[simp] theorem count_update (c : Nat) (e : BitVec 16) (n : Nat) : (s.count c e n).update = s.update := by unfold State.count; split <;> rfl
@[simp] theorem count_beat (c : Nat) (e : BitVec 16) (n : Nat) : (s.count c e n).beat = s.beat := by unfold State.count; split <;> rfl
@[simp] theorem count_spdm (c : Nat) (e : BitVec 16) (n : Nat) : (s.count c e n).spdm = s.spdm := by unfold State.count; split <;> rfl
@[simp] theorem count_gov (c : Nat) (e : BitVec 16) (n : Nat) : (s.count c e n).gov = s.gov := by unfold State.count; split <;> rfl
@[simp] theorem count_powerCap (c : Nat) (e : BitVec 16) (n : Nat) : (s.count c e n).powerCap = s.powerCap := by unfold State.count; split <;> rfl
@[simp] theorem count_fid (c : Nat) (e : BitVec 16) (n : Nat) : (s.count c e n).fid = s.fid := by unfold State.count; split <;> rfl
@[simp] theorem count_ports (c : Nat) (e : BitVec 16) (n : Nat) : (s.count c e n).ports = s.ports := by unfold State.count; split <;> rfl
@[simp] theorem count_spares (c : Nat) (e : BitVec 16) (n : Nat) : (s.count c e n).spares = s.spares := by unfold State.count; split <;> rfl
@[simp] theorem count_seams (c : Nat) (e : BitVec 16) (n : Nat) : (s.count c e n).seams = s.seams := by unfold State.count; split <;> rfl
@[simp] theorem count_pelson (c : Nat) (e : BitVec 16) (n : Nat) : (s.count c e n).pelson = s.pelson := by unfold State.count; split <;> rfl
@[simp] theorem count_waiting (c : Nat) (e : BitVec 16) (n : Nat) : (s.count c e n).waiting = s.waiting := by unfold State.count; split <;> rfl
@[simp] theorem count_owners (c : Nat) (e : BitVec 16) (n : Nat) : (s.count c e n).owners = s.owners := by unfold State.count; split <;> rfl
@[simp] theorem count_harts (c : Nat) (e : BitVec 16) (n : Nat) : (s.count c e n).harts = s.harts := by unfold State.count; split <;> rfl

/-! ## Issue and retirement -/

@[simp] theorem issueCycle_agenda (y : Bool) : (s.issueCycle y).agenda = s.agenda := by simp [State.issueCycle]
@[simp] theorem issueCycle_cur (y : Bool) : (s.issueCycle y).cur = s.cur := by simp [State.issueCycle]
@[simp] theorem issueCycle_blocked (y : Bool) : (s.issueCycle y).blocked = s.blocked := by simp [State.issueCycle]
@[simp] theorem issueCycle_cycle (y : Bool) : (s.issueCycle y).cycle = s.cycle := by simp [State.issueCycle]
@[simp] theorem issueCycle_free (y : Bool) : (s.issueCycle y).free = s.free := by simp [State.issueCycle]
@[simp] theorem issueCycle_reft (y : Bool) : (s.issueCycle y).reft = s.reft := by simp [State.issueCycle]
@[simp] theorem issueCycle_mem (y : Bool) : (s.issueCycle y).mem = s.mem := by simp [State.issueCycle]
@[simp] theorem issueCycle_poison (y : Bool) : (s.issueCycle y).poison = s.poison := by simp [State.issueCycle]
@[simp] theorem issueCycle_sectorKeys (y : Bool) : (s.issueCycle y).sectorKeys = s.sectorKeys := by simp [State.issueCycle]
@[simp] theorem issueCycle_corrected (y : Bool) : (s.issueCycle y).corrected = s.corrected := by simp [State.issueCycle]
@[simp] theorem issueCycle_acts (y : Bool) : (s.issueCycle y).acts = s.acts := by simp [State.issueCycle]
@[simp] theorem issueCycle_actors (y : Bool) : (s.issueCycle y).actors = s.actors := by simp [State.issueCycle]
@[simp] theorem issueCycle_mbxs (y : Bool) : (s.issueCycle y).mbxs = s.mbxs := by simp [State.issueCycle]
@[simp] theorem issueCycle_coreCtx (y : Bool) : (s.issueCycle y).coreCtx = s.coreCtx := by simp [State.issueCycle]
@[simp] theorem issueCycle_clCtx (y : Bool) : (s.issueCycle y).clCtx = s.clCtx := by simp [State.issueCycle]
@[simp] theorem issueCycle_clHw (y : Bool) : (s.issueCycle y).clHw = s.clHw := by simp [State.issueCycle]
@[simp] theorem issueCycle_power (y : Bool) : (s.issueCycle y).power = s.power := by simp [State.issueCycle]
@[simp] theorem issueCycle_bootFailed (y : Bool) : (s.issueCycle y).bootFailed = s.bootFailed := by simp [State.issueCycle]
@[simp] theorem issueCycle_sid (y : Bool) : (s.issueCycle y).sid = s.sid := by simp [State.issueCycle]
@[simp] theorem issueCycle_clock (y : Bool) : (s.issueCycle y).clock = s.clock := by simp [State.issueCycle]
@[simp] theorem issueCycle_keysHeld (y : Bool) : (s.issueCycle y).keysHeld = s.keysHeld := by simp [State.issueCycle]
@[simp] theorem issueCycle_slotA (y : Bool) : (s.issueCycle y).slotA = s.slotA := by simp [State.issueCycle]
@[simp] theorem issueCycle_slotB (y : Bool) : (s.issueCycle y).slotB = s.slotB := by simp [State.issueCycle]
@[simp] theorem issueCycle_bootB (y : Bool) : (s.issueCycle y).bootB = s.bootB := by simp [State.issueCycle]
@[simp] theorem issueCycle_svn (y : Bool) : (s.issueCycle y).svn = s.svn := by simp [State.issueCycle]
@[simp] theorem issueCycle_update (y : Bool) : (s.issueCycle y).update = s.update := by simp [State.issueCycle]
@[simp] theorem issueCycle_beat (y : Bool) : (s.issueCycle y).beat = s.beat := by simp [State.issueCycle]
@[simp] theorem issueCycle_spdm (y : Bool) : (s.issueCycle y).spdm = s.spdm := by simp [State.issueCycle]
@[simp] theorem issueCycle_gov (y : Bool) : (s.issueCycle y).gov = s.gov := by simp [State.issueCycle]
@[simp] theorem issueCycle_powerCap (y : Bool) : (s.issueCycle y).powerCap = s.powerCap := by simp [State.issueCycle]
@[simp] theorem issueCycle_fid (y : Bool) : (s.issueCycle y).fid = s.fid := by simp [State.issueCycle]
@[simp] theorem issueCycle_ports (y : Bool) : (s.issueCycle y).ports = s.ports := by simp [State.issueCycle]
@[simp] theorem issueCycle_spares (y : Bool) : (s.issueCycle y).spares = s.spares := by simp [State.issueCycle]
@[simp] theorem issueCycle_seams (y : Bool) : (s.issueCycle y).seams = s.seams := by simp [State.issueCycle]
@[simp] theorem issueCycle_pelson (y : Bool) : (s.issueCycle y).pelson = s.pelson := by simp [State.issueCycle]
@[simp] theorem issueCycle_waiting (y : Bool) : (s.issueCycle y).waiting = s.waiting := by simp [State.issueCycle]
@[simp] theorem issueCycle_owners (y : Bool) : (s.issueCycle y).owners = s.owners := by simp [State.issueCycle]

@[simp] theorem retireTo_agenda (h : Hdr) (pc : Word) (r : Arrival) : (s.retireTo h pc r).agenda = s.agenda := by simp [State.retireTo]
@[simp] theorem retireTo_cur (h : Hdr) (pc : Word) (r : Arrival) : (s.retireTo h pc r).cur = s.cur := by simp [State.retireTo]
@[simp] theorem retireTo_blocked (h : Hdr) (pc : Word) (r : Arrival) : (s.retireTo h pc r).blocked = s.blocked := by simp [State.retireTo]
@[simp] theorem retireTo_cycle (h : Hdr) (pc : Word) (r : Arrival) : (s.retireTo h pc r).cycle = s.cycle := by simp [State.retireTo]
@[simp] theorem retireTo_free (h : Hdr) (pc : Word) (r : Arrival) : (s.retireTo h pc r).free = s.free := by simp [State.retireTo]
@[simp] theorem retireTo_reft (h : Hdr) (pc : Word) (r : Arrival) : (s.retireTo h pc r).reft = s.reft := by simp [State.retireTo]
@[simp] theorem retireTo_mem (h : Hdr) (pc : Word) (r : Arrival) : (s.retireTo h pc r).mem = s.mem := by simp [State.retireTo]
@[simp] theorem retireTo_poison (h : Hdr) (pc : Word) (r : Arrival) : (s.retireTo h pc r).poison = s.poison := by simp [State.retireTo]
@[simp] theorem retireTo_sectorKeys (h : Hdr) (pc : Word) (r : Arrival) : (s.retireTo h pc r).sectorKeys = s.sectorKeys := by simp [State.retireTo]
@[simp] theorem retireTo_corrected (h : Hdr) (pc : Word) (r : Arrival) : (s.retireTo h pc r).corrected = s.corrected := by simp [State.retireTo]
@[simp] theorem retireTo_actors (h : Hdr) (pc : Word) (r : Arrival) : (s.retireTo h pc r).actors = s.actors := by simp [State.retireTo]
@[simp] theorem retireTo_mbxs (h : Hdr) (pc : Word) (r : Arrival) : (s.retireTo h pc r).mbxs = s.mbxs := by simp [State.retireTo]
@[simp] theorem retireTo_coreCtx (h : Hdr) (pc : Word) (r : Arrival) : (s.retireTo h pc r).coreCtx = s.coreCtx := by simp [State.retireTo]
@[simp] theorem retireTo_clCtx (h : Hdr) (pc : Word) (r : Arrival) : (s.retireTo h pc r).clCtx = s.clCtx := by simp [State.retireTo]
@[simp] theorem retireTo_clHw (h : Hdr) (pc : Word) (r : Arrival) : (s.retireTo h pc r).clHw = s.clHw := by simp [State.retireTo]
@[simp] theorem retireTo_power (h : Hdr) (pc : Word) (r : Arrival) : (s.retireTo h pc r).power = s.power := by simp [State.retireTo]
@[simp] theorem retireTo_bootFailed (h : Hdr) (pc : Word) (r : Arrival) : (s.retireTo h pc r).bootFailed = s.bootFailed := by simp [State.retireTo]
@[simp] theorem retireTo_sid (h : Hdr) (pc : Word) (r : Arrival) : (s.retireTo h pc r).sid = s.sid := by simp [State.retireTo]
@[simp] theorem retireTo_clock (h : Hdr) (pc : Word) (r : Arrival) : (s.retireTo h pc r).clock = s.clock := by simp [State.retireTo]
@[simp] theorem retireTo_keysHeld (h : Hdr) (pc : Word) (r : Arrival) : (s.retireTo h pc r).keysHeld = s.keysHeld := by simp [State.retireTo]
@[simp] theorem retireTo_slotA (h : Hdr) (pc : Word) (r : Arrival) : (s.retireTo h pc r).slotA = s.slotA := by simp [State.retireTo]
@[simp] theorem retireTo_slotB (h : Hdr) (pc : Word) (r : Arrival) : (s.retireTo h pc r).slotB = s.slotB := by simp [State.retireTo]
@[simp] theorem retireTo_bootB (h : Hdr) (pc : Word) (r : Arrival) : (s.retireTo h pc r).bootB = s.bootB := by simp [State.retireTo]
@[simp] theorem retireTo_svn (h : Hdr) (pc : Word) (r : Arrival) : (s.retireTo h pc r).svn = s.svn := by simp [State.retireTo]
@[simp] theorem retireTo_update (h : Hdr) (pc : Word) (r : Arrival) : (s.retireTo h pc r).update = s.update := by simp [State.retireTo]
@[simp] theorem retireTo_beat (h : Hdr) (pc : Word) (r : Arrival) : (s.retireTo h pc r).beat = s.beat := by simp [State.retireTo]
@[simp] theorem retireTo_spdm (h : Hdr) (pc : Word) (r : Arrival) : (s.retireTo h pc r).spdm = s.spdm := by simp [State.retireTo]
@[simp] theorem retireTo_gov (h : Hdr) (pc : Word) (r : Arrival) : (s.retireTo h pc r).gov = s.gov := by simp [State.retireTo]
@[simp] theorem retireTo_powerCap (h : Hdr) (pc : Word) (r : Arrival) : (s.retireTo h pc r).powerCap = s.powerCap := by simp [State.retireTo]
@[simp] theorem retireTo_fid (h : Hdr) (pc : Word) (r : Arrival) : (s.retireTo h pc r).fid = s.fid := by simp [State.retireTo]
@[simp] theorem retireTo_ports (h : Hdr) (pc : Word) (r : Arrival) : (s.retireTo h pc r).ports = s.ports := by simp [State.retireTo]
@[simp] theorem retireTo_spares (h : Hdr) (pc : Word) (r : Arrival) : (s.retireTo h pc r).spares = s.spares := by simp [State.retireTo]
@[simp] theorem retireTo_seams (h : Hdr) (pc : Word) (r : Arrival) : (s.retireTo h pc r).seams = s.seams := by simp [State.retireTo]
@[simp] theorem retireTo_pelson (h : Hdr) (pc : Word) (r : Arrival) : (s.retireTo h pc r).pelson = s.pelson := by simp [State.retireTo]
@[simp] theorem retireTo_waiting (h : Hdr) (pc : Word) (r : Arrival) : (s.retireTo h pc r).waiting = s.waiting := by simp [State.retireTo]
@[simp] theorem retireTo_owners (h : Hdr) (pc : Word) (r : Arrival) : (s.retireTo h pc r).owners = s.owners := by simp [State.retireTo]

@[simp] theorem retire_agenda (h : Hdr) : (s.retire h).agenda = s.agenda := by simp [State.retire]
@[simp] theorem retire_cur (h : Hdr) : (s.retire h).cur = s.cur := by simp [State.retire]
@[simp] theorem retire_blocked (h : Hdr) : (s.retire h).blocked = s.blocked := by simp [State.retire]
@[simp] theorem retire_cycle (h : Hdr) : (s.retire h).cycle = s.cycle := by simp [State.retire]
@[simp] theorem retire_free (h : Hdr) : (s.retire h).free = s.free := by simp [State.retire]
@[simp] theorem retire_reft (h : Hdr) : (s.retire h).reft = s.reft := by simp [State.retire]
@[simp] theorem retire_mem (h : Hdr) : (s.retire h).mem = s.mem := by simp [State.retire]
@[simp] theorem retire_poison (h : Hdr) : (s.retire h).poison = s.poison := by simp [State.retire]
@[simp] theorem retire_sectorKeys (h : Hdr) : (s.retire h).sectorKeys = s.sectorKeys := by simp [State.retire]
@[simp] theorem retire_corrected (h : Hdr) : (s.retire h).corrected = s.corrected := by simp [State.retire]
@[simp] theorem retire_actors (h : Hdr) : (s.retire h).actors = s.actors := by simp [State.retire]
@[simp] theorem retire_mbxs (h : Hdr) : (s.retire h).mbxs = s.mbxs := by simp [State.retire]
@[simp] theorem retire_coreCtx (h : Hdr) : (s.retire h).coreCtx = s.coreCtx := by simp [State.retire]
@[simp] theorem retire_clCtx (h : Hdr) : (s.retire h).clCtx = s.clCtx := by simp [State.retire]
@[simp] theorem retire_clHw (h : Hdr) : (s.retire h).clHw = s.clHw := by simp [State.retire]
@[simp] theorem retire_power (h : Hdr) : (s.retire h).power = s.power := by simp [State.retire]
@[simp] theorem retire_bootFailed (h : Hdr) : (s.retire h).bootFailed = s.bootFailed := by simp [State.retire]
@[simp] theorem retire_sid (h : Hdr) : (s.retire h).sid = s.sid := by simp [State.retire]
@[simp] theorem retire_clock (h : Hdr) : (s.retire h).clock = s.clock := by simp [State.retire]
@[simp] theorem retire_keysHeld (h : Hdr) : (s.retire h).keysHeld = s.keysHeld := by simp [State.retire]
@[simp] theorem retire_slotA (h : Hdr) : (s.retire h).slotA = s.slotA := by simp [State.retire]
@[simp] theorem retire_slotB (h : Hdr) : (s.retire h).slotB = s.slotB := by simp [State.retire]
@[simp] theorem retire_bootB (h : Hdr) : (s.retire h).bootB = s.bootB := by simp [State.retire]
@[simp] theorem retire_svn (h : Hdr) : (s.retire h).svn = s.svn := by simp [State.retire]
@[simp] theorem retire_update (h : Hdr) : (s.retire h).update = s.update := by simp [State.retire]
@[simp] theorem retire_beat (h : Hdr) : (s.retire h).beat = s.beat := by simp [State.retire]
@[simp] theorem retire_spdm (h : Hdr) : (s.retire h).spdm = s.spdm := by simp [State.retire]
@[simp] theorem retire_gov (h : Hdr) : (s.retire h).gov = s.gov := by simp [State.retire]
@[simp] theorem retire_powerCap (h : Hdr) : (s.retire h).powerCap = s.powerCap := by simp [State.retire]
@[simp] theorem retire_fid (h : Hdr) : (s.retire h).fid = s.fid := by simp [State.retire]
@[simp] theorem retire_ports (h : Hdr) : (s.retire h).ports = s.ports := by simp [State.retire]
@[simp] theorem retire_spares (h : Hdr) : (s.retire h).spares = s.spares := by simp [State.retire]
@[simp] theorem retire_seams (h : Hdr) : (s.retire h).seams = s.seams := by simp [State.retire]
@[simp] theorem retire_pelson (h : Hdr) : (s.retire h).pelson = s.pelson := by simp [State.retire]
@[simp] theorem retire_waiting (h : Hdr) : (s.retire h).waiting = s.waiting := by simp [State.retire]
@[simp] theorem retire_owners (h : Hdr) : (s.retire h).owners = s.owners := by simp [State.retire]

/-! ## Maps and the present activation -/

theorem look_put_self {κ α : Type} [DecidableEq κ] (m : Map κ α) (k : κ) (v : α) : (m.put k v).look k = some v := by
  induction m with
  | nil => simp [Map.put, Map.look]
  | cons x t ih => obtain ⟨k', v'⟩ := x; by_cases e : k' = k <;> simp [Map.put, Map.look, e, ih]

theorem look_put_ne {κ α : Type} [DecidableEq κ] (m : Map κ α) {k j : κ} (v : α) (e : k ≠ j) :
    (m.put k v).look j = m.look j := by
  induction m with
  | nil => simp [Map.put, Map.look, e]
  | cons x t ih =>
    obtain ⟨k', v'⟩ := x
    by_cases e1 : k' = k
    · subst e1; simp [Map.put, Map.look, e]
    · by_cases e2 : k' = j
      · subst e2; simp [Map.put, Map.look, e1]
      · simp [Map.put, Map.look, e1, e2, ih]

@[simp] theorem setAct_act? (a : Act) : (s.setAct a).act? = some a := look_put_self _ _ _

@[simp] theorem setAct_act (a : Act) : (s.setAct a).act = a := by simp [State.act]

@[simp] theorem modAct_act? (f : Act → Act) : (s.modAct f).act? = some (f s.act) := setAct_act? s _

@[simp] theorem modAct_act (f : Act → Act) : (s.modAct f).act = f s.act := by simp [State.act]

/-- An update of the present activation leaves every other one. -/
theorem modAct_actAt_ne (f : Act → Act) {t : SlotId} (e : s.cur.sid ≠ t) : (s.modAct f).actAt t = s.actAt t :=
  look_put_ne _ _ e

@[simp] theorem modCtx_ctxAt (c : Nat) (f : Ctx → Ctx) : (s.modCtx c f).ctxAt c = f (s.ctxAt c) := by
  simp [State.modCtx, State.ctxAt, look_put_self]

@[simp] theorem modCore_coreAt (c k : Nat) (f : CoreCtx → CoreCtx) : (s.modCore c k f).coreAt c k = f (s.coreAt c k) := by
  simp [State.modCore, State.coreAt, look_put_self]

@[simp] theorem modHw_hwAt (k : Nat) (f : CoreHw → CoreHw) : (s.modHw k f).hwAt k = f (s.hwAt k) := by
  simp [State.modHw, State.hwAt, look_put_self]

@[simp] theorem modCl_clAt (c k : Nat) (f : ClusterCtx → ClusterCtx) : (s.modCl c k f).clAt c k = f (s.clAt c k) := by
  simp [State.modCl, State.clAt, look_put_self]

@[simp] theorem modClHw_clHwAt (k : Nat) (f : ClusterHw → ClusterHw) : (s.modClHw k f).clHwAt k = f (s.clHwAt k) := by
  simp [State.modClHw, State.clHwAt, look_put_self]

@[simp] theorem modMbx_mbxAt (c k : Nat) (m : BitVec 6) (f : Mailbox → Mailbox) :
    (s.modMbx c k m f).mbxAt c k m = f (s.mbxAt c k m) := by
  simp [State.modMbx, State.mbxAt, look_put_self]

@[simp] theorem issueCycle_act? (y : Bool) : (s.issueCycle y).act? = s.act? := by simp [State.act?]

@[simp] theorem count_act? (c : Nat) (e : BitVec 16) (n : Nat) : (s.count c e n).act? = s.act? := by simp [State.act?]

/-- What retiring does to the present activation: its stream alone changes (R34). -/
theorem retireTo_act (h : Hdr) (pc : Word) (r : Arrival) : (s.retireTo h pc r).act = (s.goTo pc r).act := by
  simp [State.retireTo, State.act]

end Sys2Proof.Machine
end

