-- ==== Sys2Proof/Tests/Slice0.lean ====
section
/-! SUPPORT. Tests of single words and single steps, and a witness for the hypotheses of every statement of
Certificates/Slice0/Obligations.lean. Words are written out by hand from the encodings of the manual. -/

namespace Sys2Proof.Tests

open Sys2Proof Sys2Proof.Machine

set_option Elab.async false

/-- A header whose guard is p7. -/
def hd : Hdr := { grd := 7 }

/-! ## Ill-formed instructions are refused -/

theorem test_wf_guard : (Instr.nop { grd := 15 }).wf = false := by decide
theorem test_wf_float_immediate : (Instr.fadd hd .f16 .rne (.g 1) (.g 2) (.imm 0x10000)).wf = false := by decide
theorem test_wf_amo_fadd_d : (Instr.amo hd .fadd true .relaxed false (.g 1) (.g 2) (.g 3) 0).wf = false := by decide
theorem test_wf_fcvt_integers : (Instr.fcvt hd .rne .i32 .i8 (.g 1) (.g 2)).wf = false := by decide
theorem test_wf_masked_queue : (Instr.vadd hd .f32 .rne false 1 (.q 0) (.v 1) (.vec (.v 2))).wf = false := by decide
theorem test_wf_viadd_u : (Instr.viadd hd .w false true false 0 (.v 0) (.v 1) (.vec (.v 2))).wf = false := by decide
theorem test_wf_vcvt_i64 : (Instr.vcvt hd .rne false 0 .f32 .i64 0 (.v 0) (.v 1)).wf = false := by decide
theorem test_wf_vcvt_part : (Instr.vcvt hd .rne false 0 .f32 .bf16 2 (.v 0) (.v 1)).wf = false := by decide
theorem test_wf_vcvt_queue : (Instr.vcvt hd .rne false 0 .bf16 .f32 0 (.q 0) (.v 1)).wf = false := by decide
theorem test_wf_vextr_index : (Instr.vextr hd .w false (.g 1) (.v 1) (.imm 16)).wf = false := by decide
theorem test_wf_special_queue : (Instr.rcpa hd false (.vec false 2 (.q 1) (.v 0))).wf = false := by decide
theorem test_wf_divf_queue : (Instr.divf hd .rne (.vec false 2 (.q 1) (.v 0) (.vec (.v 1)))).wf = false := by decide
theorem test_wf_pmerge_queue : (Instr.pmerge hd .rne (.vec false 2 (.q 1) (.v 0) (.v 1))).wf = false := by decide
theorem test_wf_dlerp : (Instr.dlerp hd true 0 1 2 65537).wf = false := by decide
theorem test_wf_send_class : (Instr.send hd false (.g 1) (.regs (.g 2) 1) 15 none).wf = false := by decide
theorem test_wf_send_words : (Instr.reply hd false (.regs (.g 2) 7) 0 none).wf = false := by decide
theorem test_wf_send_end : (Instr.send hd false (.g 1) (.regs (.g 30) 3) 0 none).wf = false := by decide
theorem test_wf_sendl : (Instr.sendl hd false (.g 1) (.g 2) 240 0 none).wf = false := by decide
theorem test_wf_refuse : (Instr.refuse hd 127).wf = false := by decide
theorem test_wf_entry : (Instr.entry { grd := 3 } true false).wf = false := by decide
theorem test_wf_cbrel : (Instr.cbrel hd 0 65).wf = false := by decide
theorem test_wf_gsig : (Instr.gsig hd (.imm 3) (.imm 0)).wf = false := by decide
theorem test_wf_tlbinv : (Instr.tlbinvAll hd .fab).wf = false := by decide
theorem test_wf_swr : (Instr.swr hd .supv (.reg (.g 1))).wf = false := by decide

/-! ## Words of the manual's encodings decode to what they stand for

Read from the left: OP, GRD, HNT, FA, FB, FC (three digits each), FN, IMM (R25). -/

theorem test_decode_add : decodeWord 0x10B28005006E0003FFFFFF9C =
    .ok (.add { grd := 0xB, rdy := 2, yld := true } .d false (.g 5) (.g 6) (.imm 0xFFFFFF9C)) := by rfl
theorem test_decode_loop : decodeWord 0x35700008E00E0000FFFFFFFE = .ok (.loop hd 8 0xFFFFFFFE) := by rfl
theorem test_decode_ld : decodeWord 0x40700005006E000200000010 =
    .ok (.ld hd .w false false (.g 5) { base := .g 6, index := none, disp := 16, loc := false }) := by rfl
theorem test_decode_scfg : decodeWord 0x50700C300050080000010000 = .ok (.scfg hd false 0 (.g 5) (.g 8) 1) := by rfl
theorem test_decode_fadd : decodeWord 0x537000040050060200000000 = .ok (.fadd hd .f32 .dyn (.g 4) (.g 5) (.reg (.g 6))) := by rfl
theorem test_decode_vadd : decodeWord 0x607002052062078100000002 =
    .ok (.vadd hd .f16 .dyn true 2 (.v 5) (.v 6) (.vec (.v 7))) := by rfl
theorem test_decode_baddq : decodeWord 0x827002032012020000000000 = .ok (.baddq hd .tb8 false (.v 3) (.v 1) (.v 2)) := by rfl
theorem test_decode_rcpa : decodeWord 0x90700006007E000200000000 = .ok (.rcpa hd false (.sca (.g 6) (.g 7))) := by rfl
theorem test_decode_dscale : decodeWord 0xA4700402401E000000000100 = .ok (.dscale hd 2 1 (.imm 0x100)) := by rfl
theorem test_decode_send : decodeWord 0xB07000140020154000000023 =
    .ok (.send hd true (.g 20) (.regs (.g 2) 2) 3 (some (.g 21))) := by rfl
theorem test_decode_calld : decodeWord 0xC1700E00E00E000000001179 = .ok (.calld hd (.off 0x1179)) := by rfl
theorem test_decode_mma : decodeWord 0xD0700C00E00E000000008032 = .ok (.mma hd false (.imm 0x80) 2 3) := by rfl
theorem test_decode_mcfg : decodeWord 0xD8700E000140150000000002 = .ok (.mcfgSw hd 2 (.g 20) (.g 21)) := by rfl
theorem test_decode_copy : decodeWord 0xE0700005006C220000000000 = .ok (.copy hd (.g 5) (.g 6) (some 2)) := by rfl
theorem test_decode_waitc : decodeWord 0xE5700E00C11E000000000005 = .ok (.waitc hd 1 (.imm 5)) := by rfl
theorem test_decode_gsub : decodeWord 0xE8700005006E000000000000 = .ok (.gsub hd (.g 5) (.g 6)) := by rfl
theorem test_decode_gsig : decodeWord 0xE9700E00E00E000000000103 = .ok (.gsig hd (.imm 3) (.imm 1)) := by rfl
theorem test_decode_logmark : decodeWord 0xF8700E00E00E000000000007 = .ok (.logmark hd false (.imm 7)) := by rfl
theorem test_decode_kill : decodeWord 0xFA700005006E000200000000 = .ok (.killGrp hd (.g 5) (.g 6)) := by rfl
/-- GRD 0b1111 (R32), an undefined opcode (R37), FMT 0b11 (R89), a class-7 specifier other than 0xE00 (R27). -/
theorem test_decode_illegal : decodeWord 0x01F00E00E00E000000000000 = .error .guard ∧
    decodeWord 0x00700E00E00E000000000000 = .error .opcode ∧ (decodeWord 0x607002052062078300000002).isOk = false ∧
    (decodeWord 0x53700E010050060200000000).isOk = false := ⟨rfl, rfl, rfl, rfl⟩

/-! ## A small state -/

def sid0 : SlotId := { ctx := 0, core := 0, slot := 0 }
def kit : Actor := { aid := 1, group := 2, parallel := false, priv := true, stateBase := 0x1000, stk := 0x2000, stksz := 256,
                     ret := 0, hdom := 0, owner := 0, handlers := [((0, 3), (0x300, true))] }

/-- An activation of a privileged actor on core 0 of a running context. -/
def withAct (a : Act) : State :=
  { State.reset with acts := [(sid0, a)], actors := [((0, 0, 0), kit)], ctxs := [(0, { running := true, supv := 0x80000040 })] }
def s0 : State := withAct Act.blank
/-- As `s0`, the actor unprivileged. -/
def u0 : State := { s0 with actors := [((0, 0, 0), { kit with priv := false })] }

theorem ready (a : Act) : Ready hd (withAct a) := ⟨a, rfl, rfl⟩
theorem ready0 : Ready hd s0 := ready _
theorem readyU : Ready hd u0 := ⟨_, rfl, rfl⟩

/-! ## Witnesses: operands, the end of an instruction -/

/-- Entries of this stream, and of the other one two cycles back and now; an empty queue, and a full one. -/
def ent {α : Type} (v : α) (by_ : Stream) : QEntry α := { val := v, at_ := 0, by_ }
theorem test_wit_ReadOperand : ((withAct { Act.blank with qg := Act.blank.qg.set 1 [ent 5 .main] }).act.qg[1] = [ent 5 .main] ∧
      (ent (5 : Word) .main).by_ = s0.cur.stream) ∧
    (∃ s : State, s.act.qg[1] = [ent 5 .access] ∧ (ent (5 : Word) .access).at_ + 2 ≤ s.cycle) ∧
    (∃ s : State, s.act.qg[1] = [ent 5 .access] ∧ Stream.access ≠ s.cur.stream ∧ s.cycle < (ent (5 : Word) .access).at_ + 2) ∧
    s0.act.qg[3] = [] :=
  ⟨⟨rfl, rfl⟩, ⟨{ withAct { Act.blank with qg := Act.blank.qg.set 1 [ent 5 .access] } with cycle := 2 }, rfl, by decide⟩,
    ⟨{ withAct { Act.blank with qg := Act.blank.qg.set 1 [ent 5 .access] } with cycle := 1 }, rfl, nofun, by decide⟩, rfl⟩
theorem test_wit_WriteOperand : (s0.act.qg[0]).length < 8 ∧
    8 ≤ ((withAct { Act.blank with qg := Act.blank.qg.set 1 (List.replicate 8 (ent 0 .main)) }).act.qg[1]).length := by decide
theorem test_wit_CodeAddresses : 9 / 10 * 128 + 9 % 10 * 12 < 2 ^ 64 ∧ (108 : Word).toNat % 128 < 120 ∧ (108 : Word).toNat % 128 % 12 = 0 ∧
    0 ≤ indexOf 108 + (0xFFFFFFF7 : BitVec 32).toInt ∧
    (indexOf 108 + (0xFFFFFFF7 : BitVec 32).toInt) / 10 * 128 + (indexOf 108 + (0xFFFFFFF7 : BitVec 32).toInt) % 10 * 12 < 2 ^ 64 := by decide
theorem test_wit_FalseGuard : Skipped { grd := 2 } s0 ∧ (Instr.nop { grd := 2 }).hdr? = some { grd := 2 } ∧
    (s0.act.str s0.cur.stream).answer = none := ⟨⟨_, rfl, rfl⟩, rfl, rfl⟩

/-! ## Witnesses: scalar instructions -/

/-- g operands, either reading of a second source, any value written. -/
theorem test_wit_scalar (v : Word) : Ready hd s0 ∧ (∃ x, Gives (readG (.g 2)) s0 x s0) ∧ Gives (readSrc2 (.imm 0xFFFFFFFF)) s0 (-1) s0 ∧
    Gives (readSrc2U (.imm 7)) s0 7 s0 ∧ (∃ t, Gives (writeG (.g 3) v) s0 () t) ∧ (∃ t, Gives (writeG (.q 0) v) s0 () t) ∧
    Gives (roomG (.q 0)) s0 () s0 ∧ Gives (readG? none) s0 none s0 :=
  ⟨ready0, ⟨_, rfl⟩, rfl, rfl, ⟨_, rfl⟩, ⟨_, rfl⟩, rfl, rfl⟩

/-! ## Single steps, results by hand from the rules -/

/-- A part of the state after an instruction. -/
def after {α : Type} (o : Host.Outcome State Fault Refusal) (f : State → α) : Option α := match o with | .next t => some (f t) | _ => none
/-- As `s0`, with values in g2 and g3. -/
def sg (x y : Word) : State := withAct { Act.blank with g := (Act.blank.g.set 2 x).set 3 y }

/-- R70: the 32-bit sum of 0x7FFFFFFF and 1, sign-extended. -/
theorem test_add_wraps : after (exec (.add hd .w false (.g 1) (.g 2) (.imm 1)) (sg 0x7FFFFFFF 0)) (·.act.getG 1) = some 0xFFFFFFFF80000000 := by decide +kernel
/-- R71: division by 0, and of the least number by -1. -/
theorem test_div_zero : after (exec (.div hd .d false (.g 1) (.g 2) (.reg (.g 3))) (sg 7 0)) (·.act.getG 1) = some (-1) := by decide +kernel
theorem test_div_least : after (exec (.div hd .d false (.g 1) (.g 2) (.reg (.g 3))) (sg (1 <<< 63) (-1))) (·.act.getG 1) = some (1 <<< 63) := by decide +kernel
/-- R71: the remainder has the sign of the dividend. -/
theorem test_rem_sign : after (exec (.rem hd .d false (.g 1) (.g 2) (.reg (.g 3))) (sg (-7) 2)) (·.act.getG 1) = some (-1) := by decide +kernel
/-- R71: a shift count is taken modulo 64. -/
theorem test_sar_count : after (exec (.sar hd .d false (.g 1) (.g 2) (.imm 65)) (sg (-8) 0)) (·.act.getG 1) = some (-4) := by decide +kernel
/-- R19: a write to g0 is discarded. -/
theorem test_g0 : after (exec (.ldi hd false (.g 0) 5) s0) (·.act.getG 0) = some 0 := by decide +kernel
/-- R82: LOOP with 1 left falls through with 0. -/
theorem test_loop_end : after (exec (.loop hd 2 0xFFFFFFFE) (sg 1 0)) (fun t => (t.act.getG 2, t.act.main.pc)) = some (0, 12) := by decide +kernel
/-- R34: after slot 9 the next code line. -/
theorem test_next_line : nextPc 0x6C = 0x80 := by decide
/-- R92: 1 + 2 = 3, and 2^24 + 1 is inexact. -/
theorem test_fadd : after (exec (.fadd hd .f32 .rne (.g 1) (.g 2) (.reg (.g 3))) (sg 0x3F800000 0x40000000))
    (fun t => (t.act.getG 1, t.act.flg)) = some (0x40400000, 0) := by decide +kernel
theorem test_fadd_inexact : after (exec (.fadd hd .f32 .rne (.g 1) (.g 2) (.reg (.g 3))) (sg 0x4B800000 0x3F800000))
    (fun t => (t.act.getG 1, t.act.flg)) = some (0x4B800000, 16) := by decide +kernel
/-- R117: RCPA of 0 is infinity with DZ, and of 2 is 0.5. -/
theorem test_rcpa_zero : after (exec (.rcpa hd false (.sca (.g 1) (.g 2))) (sg 0 0)) (fun t => (t.act.getG 1, t.act.flg)) = some (0x7F800000, 2) := by decide +kernel
theorem test_rcpa_two : after (exec (.rcpa hd false (.sca (.g 1) (.g 2))) (sg 0x40000000 0)) (fun t => (t.act.getG 1, t.act.flg)) = some (0x3F000000, 0) := by decide +kernel
/-- R15, R138, R139: a store to CLM is not performed until its check, and a load of the activation finds it (R141). -/
theorem test_store_forwarded : after (exec (.st hd .b false (.g 3) { base := .g 2, index := none, disp := 0, loc := false }) (sg 0x8000000000B000 0xAB))
    (fun t => (t.mem, after (exec (.ld hd .b true false (.g 4) { base := .g 2, index := none, disp := 0, loc := false }) t) (·.act.getG 4))) =
    some ([], some 0xAB) := by decide +kernel
/-- R40, R41: TRAP parks, completed, and notice 0x000A with its code is on its way. -/
theorem test_trap : after (exec (.trap hd 0x1234) s0) (fun t => (t.act.park, t.act.main.pc, t.agenda.flatMap fun e => match e.2 with
    | .packetRoute _ _ _ (.message m _) => m.payload.take 2 ++ (m.payload.drop 40).take 2 | _ => [])) =
    some (true, 12, [0x0A, 0, 0x34, 0x12]) := by decide +kernel

theorem test_wit_TwoSourceResults (v : Word) : Ready hd s0 ∧ Gives (readG (.g 2)) s0 0 s0 ∧ Gives (readSrc2 (.imm 0)) s0 0 s0 ∧
    ∃ t, Gives (writeG (.g 0) v) s0 () t := ⟨ready0, rfl, rfl, _, rfl⟩
theorem test_wit_OneSourceResults (v : Word) : Ready hd s0 ∧ Gives (readG (.g 0)) s0 0 s0 ∧ ∃ t, Gives (writeG (.g 3) v) s0 () t :=
  ⟨ready0, rfl, _, rfl⟩
/-- BFI of bit 63, and a source of all ones. -/
theorem test_wit_ConstantsAndFields : ∃ s r t, Ready hd s ∧ Gives (readG (.g 2)) s (-1) s ∧ Gives (readSrc2 (.imm 64)) s 64 s ∧
    (∀ i, i < 64 → (r : Word).getLsbD i = if (63 : BitVec 6).toNat ≤ i ∧ i ≤ (63 : BitVec 6).toNat + (0 : BitVec 6).toNat
      then (-1 : Word).getLsbD (i - (63 : BitVec 6).toNat) else (s.act.getG 3).getLsbD i) ∧ Gives (writeG (.g 3) r) s () t :=
  ⟨withAct { Act.blank with g := Act.blank.g.set 2 (-1) }, 1 <<< 63, _, ready _, rfl, rfl, by decide, rfl⟩
theorem test_wit_AddressesAndPositions (v : Word) : Ready hd s0 ∧ Gives (readG (.g 2)) s0 0 s0 ∧ (∃ t, Gives (writeG (.g 3) v) s0 () t) ∧
    511 < (512 : Word).toNat ∧ (511 : Word).toNat < 512 ∧ 31 < 32 ∧ 15 < 16 := ⟨ready0, rfl, ⟨_, rfl⟩, by decide, by decide, by decide, by decide⟩
theorem test_wit_Transfers : Ready hd s0 ∧ Gives (readG (.g 2)) s0 0 s0 ∧ s0.act.getG 4 = 0 ∧
    ∃ s, Ready hd s ∧ s.act.getG 4 = 1 := ⟨ready0, rfl, rfl, withAct { Act.blank with g := Act.blank.g.set 4 1 }, ready _, rfl⟩

/-- The access stream of an activation. -/
def s0a : State := { withAct { Act.blank with strm := true } with cur := { sid := sid0, stream := .access } }

theorem test_wit_StreamsAndEnd : (Ready hd s0 ∧ s0.cur.stream = .main ∧ s0.act.strm = false) ∧ (Ready hd s0a ∧ s0a.cur.stream = .access) ∧
    s0.act.thimble = [] ∧ s0.act.queuesEmpty = true ∧ s0.act.checks = [] ∧ s0.act.storeFault = false :=
  ⟨⟨ready0, rfl, rfl⟩, ⟨⟨_, rfl, rfl⟩, rfl⟩, rfl, rfl, rfl, rfl⟩
theorem test_wit_ComparesAndPredicates (v : Word) : Ready hd s0 ∧ Gives (readG (.g 2)) s0 0 s0 ∧ Gives (readSrc2 (.imm 0)) s0 0 s0 ∧
    Gives (readSrc2U (.imm 0)) s0 0 s0 ∧ (true = true ↔ Holds .le true ((0 : Word).setWidth 8) ((0 : Word).setWidth 8)) ∧
    (∃ t, Gives (writeG (.g 3) v) s0 () t) ∧
    (∀ i, i < 64 → (0x80 : Word).getLsbD i = (decide (i < 8) && s0.act.getP (BitVec.ofNat 3 i))) ∧
    (∀ j, j < 16 → (0xFFFF : BitVec 16).getLsbD j = (8 : BitVec 4).getLsbD ((if (s0.act.getK 0).getLsbD j then 2 else 0) +
      (if (s0.act.getK 0).getLsbD j then 1 else 0))) ∧
    (∀ j, j < 16 → (0 : BitVec 16).getLsbD j = decide (j < (0 : Word).toNat)) :=
  ⟨ready0, rfl, rfl, rfl, by simp [Holds], ⟨_, rfl⟩, by decide, by decide, by decide⟩

/-! ## Witnesses: memory -/

/-- Local address of the first byte beyond the workspaces. -/
def clm0 : Word := 0x8000000000B000
/-- An activation whose g2 holds it; k1 holds lane 0 alone. -/
def actM : Act := { Act.blank with g := Act.blank.g.set 2 clm0, k := Act.blank.k.set 1 1 }
def s0m : State := withAct actM
def memF2 : MemOp := { base := .g 2, index := none, disp := 0, loc := false }

theorem test_wit_LoadsAndStores : Ready hd s0m ∧ Gives (memAddr memF2) s0m clm0 s0m ∧ Gives (roomG (.g 3)) s0m () s0m ∧
    clm0.toNat % Size.d.bytes = 0 ∧ (∃ bs t u, Gives (loadM clm0 8 true) s0m bs t ∧
      Gives (writeG (.g 3) (extend false (BitVec.ofNat 64 (ofBytesLE bs)))) t () u) ∧
    Gives (readG (.g 4)) s0m 0 s0m ∧ (∃ t, Gives (storeM (.plain true none) clm0 (storeBytes clm0 (bytesLE 8 (0 : Word).toNat)) true) s0m () t) ∧
    ∃ t, Gives (storeM (.plain true (some .core)) clm0 (storeBytes clm0 (bytesLE 8 (0 : Word).toNat)) true) s0m () t :=
  ⟨⟨_, rfl, rfl⟩, rfl, rfl, rfl, ⟨_, _, _, rfl, rfl⟩, rfl, ⟨_, rfl⟩, ⟨_, rfl⟩⟩

/-- Lane 0 under k1. -/
theorem test_wit_VectorMemory_lanes : Ready hd s0m ∧ Gives (readG (.g 2)) s0m clm0 s0m ∧ Gives (readG? none) s0m none s0m ∧
    (∃ v, Gives (readV (.v 3)) s0m v s0m) ∧ ((List.range 16).filter (active (s0m.act.getK 1))).map (fun j => (j, clm0)) = [(0, clm0)] ∧
    clm0.toNat % 4 = 0 ∧ (∃ t, Gives (vload (.v 4) (s0m.act.getK 1) false true [(0, clm0)]) s0m () t) ∧
    ∃ t, Gives (vstore vzero false [(0, clm0)]) s0m () t :=
  ⟨⟨_, rfl, rfl⟩, rfl, rfl, ⟨_, rfl⟩, by decide, rfl, ⟨_, rfl⟩, ⟨_, rfl⟩⟩

/-- The first bytes beyond the workspaces lie in CLM, and any access to them is admitted. -/
theorem place_clm0 (i : Nat) (h : i < 8) (n : Need) : s0m.place s0m.who (clm0.toNat + i) n = .ok (.clm (45056 + i)) := by
  have e : clm0.toNat + i = 36028797019009024 + i := rfl
  have : i = 0 ∨ i = 1 ∨ i = 2 ∨ i = 3 ∨ i = 4 ∨ i = 5 ∨ i = 6 ∨ i = 7 := by omega
  rw [e]
  rcases this with rfl | rfl | rfl | rfl | rfl | rfl | rfl | rfl <;> (cases n <;> simp only [Nat.reduceAdd] <;> rfl)

set_option maxRecDepth 20000 in
theorem test_wit_VectorMemory_blocks : ∃ l1 l2 bs bs8 t u, Ready hd s0m ∧ Gives (readG (.g 2)) s0m clm0 s0m ∧
    clm0.toNat % 2 = 0 ∧ (clm0 + 64).toNat % 2 = 0 ∧ ¬ (clm0 + 64).toNat < clm0.toNat ∧
    Gives (storeM (.plain false none) clm0 (storeBytes clm0 ((s0m.act.d[1]).toList.flatMap fun l => bytesLE 2 l.toNat) ++
      storeBytes (clm0 + 64) (bytesLE 2 (s0m.act.n[1]).toNat)) false) s0m () t ∧
    Gives (placesM clm0 64 .read) s0m l1 s0m ∧ Gives (placesM (clm0 + 64) 2 .read) s0m l2 s0m ∧
    Gives (seamLoad (l1 ++ l2) (loadPlaces false (l1 ++ l2))) s0m bs s0m ∧ Gives (roomV (.v 3)) s0m () s0m ∧
    Gives (loadM clm0 528 false) s0m bs8 s0m ∧ Gives (writeV (.v 3) vzero) s0m () u :=
  ⟨_, _, _, _, _, _, ⟨_, rfl, rfl⟩, rfl, rfl, rfl, by decide, rfl, rfl, rfl, rfl, rfl, rfl, rfl⟩

theorem test_wit_LocalLoad : clm0.toNat + 4 ≤ 2 ^ 64 ∧ s0m.act.checks = [] ∧ s0m.poison = [] ∧
    ∀ i, i < 4 → s0m.place s0m.who (clm0.toNat + i) .read = .ok (.clm (45056 + i)) := ⟨by decide, rfl, rfl, fun i h => place_clm0 i (by omega) _⟩
/-- The last bytes of CLM. -/
theorem test_wit_StoreEntersChecking : [(1 : Byte), 2] ≠ [] ∧ 2 ^ 55 ≤ (0x8000000001FFFE : Word).toNat ∧
    (0x8000000001FFFE : Word).toNat + [(1 : Byte), 2].length ≤ 2 ^ 56 ∧
    ∀ i, i < [(1 : Byte), 2].length → s0m.place s0m.who ((0x8000000001FFFE : Word).toNat + i) .write = .ok (.clm (131070 + i)) :=
  ⟨by decide, by decide, by decide, fun i h => by
    have e : (0x8000000001FFFE : Word).toNat + i = 36028797019095038 + i := rfl
    have : i = 0 ∨ i = 1 := by simp at h; omega
    rw [e]
    rcases this with rfl | rfl <;> (simp only [Nat.reduceAdd]; rfl)⟩
theorem test_wit_Atomics (v : Word) : ∃ t u, Ready hd s0m ∧ Gives (readG (.g 2)) s0m clm0 s0m ∧ Gives (readG (.g 3)) s0m 0 s0m ∧
    Gives (roomG (.g 4)) s0m () s0m ∧
    Gives (atomicM (withLocal false clm0) 8 .relaxed fun old => (some (amoValue 64 .add old 0).1, (amoValue 64 .add old 0).2))
      s0m (0, 0) t ∧ (∃ w, Gives (writeG (.g 4) v) t () w) ∧
    Gives (atomicM (withLocal false clm0) 4 .relaxed fun old =>
      (if old = (s0m.act.getG 5).toNat % 2 ^ 32 then some 0 else none, 0)) s0m (0, 0) u ∧
    memOk s0m ∧ s0m.act.checks = [] ∧ s0m.poison = [] ∧ s0m.act.tack.length < 512 ∧ clm0.toNat % 8 = 0 ∧
    (∀ i, i < 8 → s0m.place s0m.who (clm0.toNat + i) .both = .ok (.clm (45056 + i))) :=
  ⟨_, _, ⟨_, rfl, rfl⟩, rfl, rfl, rfl, rfl, ⟨_, rfl⟩, rfl, rfl, rfl, rfl, by decide, rfl, fun i h => place_clm0 i h _⟩

/-- A local store of one byte under check. -/
def pst : PStore := { id := 0, stream := .main, pc := 0, dom := 0, word := 0, windows := [], kind := .plain false none, addr := clm0
                      bytes := [(clm0.toNat, 7)], issued := 0, mark := 0 }

theorem test_wit_FencesAndCaches : ∃ t, Ready hd s0m ∧ FenceKind.all ≠ .ld ∧ s0m.act.outUsed + 16 ≤ 4096 ∧
    Gives (readG memF2.base) s0m clm0 s0m ∧ Gives (readG? memF2.index) s0m none s0m ∧
    Gives (enterStore (.flush .die 1) (withLocal memF2.loc (clm0 + memF2.disp.signExtend 64)) [] false) s0m () t ∧
    Gives (memAddr memF2) s0m clm0 s0m ∧ 2 ^ 55 ≤ clm0.toNat ∧ (∀ p ∈ s0m.act.checks, p.held = true) ∧
    pst ∈ (withAct { Act.blank with checks := [pst] }).act.checks ∧ pst.held = false :=
  ⟨_, ⟨_, rfl, rfl⟩, by decide, by decide, rfl, rfl, rfl, rfl, by decide, by decide, by decide, rfl⟩

/-! ## Witnesses: floating point, vectors, special functions, directional instructions -/

theorem test_wit_FloatEvents : s0.act.fen &&& 31 = 0 ∧ ∃ s, s = withAct { Act.blank with fen := 1 } ∧ s.act.fen &&& 1 ≠ 0 ∧ s.seam? = none ∧
    (s.raise 0 1).actAt s.cur.sid ≠ none := ⟨rfl, _, rfl, by decide, rfl, Option.ne_none_iff_isSome.mpr (by decide +kernel)⟩
theorem test_wit_Formats : 0x7F7FFFFF < 2 ^ FFmt.f32.bits ∧ ((binFmt .f32).decode 0x7F7FFFFF).isNan = false ∧
    ((binFmt .f32).decode 0x7F800001).isNan = true := by decide
theorem test_wit_ScalarFloat (v : Word) : Ready hd s0 ∧ Gives (readG (.g 2)) s0 0 s0 ∧ Gives (readSrc2U (.imm 0x7F800001)) s0 0x7F800001 s0 ∧
    (∃ t, Gives (writeG (.g 3) v) s0 () t) ∧ 
    (match Sgn.cpy (GQ.g 2) with
      | .abs => (0 : Word) = 0 ∧ s0 = s0
      | .cpy c | .ncp c | .xor c => Gives (readG c) s0 0 s0) := ⟨ready0, rfl, rfl, ⟨_, rfl⟩, rfl⟩
theorem test_wit_VectorOperands (w : VReg) : s0.act.boundTo 31 = none ∧ (∃ s : State, s.act.qv[1] = [ent w .main] ∧ Stream.main = s.cur.stream) ∧
    (∃ s : State, s.act.qv[1] = [ent w .access] ∧ Stream.access ≠ s.cur.stream ∧ s.cycle < (ent w .access).at_ + 2) ∧
    s0.act.qv[0] = [] ∧ (s0.act.qv[0]).length < 4 ∧
    4 ≤ ((withAct { Act.blank with qv := Act.blank.qv.set 1 (List.replicate 4 (ent w .main)) }).act.qv[1]).length ∧
    Gives (readG (.g 2)) s0 0 s0 ∧ (1 : BitVec 5) ≠ 2 :=
  ⟨rfl, ⟨withAct { Act.blank with qv := Act.blank.qv.set 1 [ent w .main] }, rfl, rfl⟩,
    ⟨withAct { Act.blank with qv := Act.blank.qv.set 1 [ent w .access] }, rfl, nofun, (by decide : 0 < 0 + 2)⟩, rfl, by decide,
    Nat.le_refl 4, rfl, by decide⟩

/-- v operands, broadcast, a masked write of any value under any mask. -/
theorem test_wit_vector (v : VReg) (k : BitVec 16) (z : Bool) : Ready hd s0 ∧ Gives (readV (.v 1)) s0 vzero s0 ∧
    Gives (readVSrc 32 (.vec (.v 2))) s0 vzero s0 ∧ Gives (oldV (.v 3)) s0 vzero s0 ∧
    (∃ t, Gives (writeMasked (.v 3) k z v) s0 () t) ∧ ∃ t, Gives (writeV (.v 3) v) s0 () t :=
  ⟨ready0, rfl, rfl, rfl, ⟨_, rfl⟩, ⟨_, rfl⟩⟩
theorem test_wit_VectorFloat (v : VReg) : Ready hd s0 ∧ Gives (readV (.v 1)) s0 vzero s0 ∧ Gives (readVSrc 32 (.vec (.v 2))) s0 vzero s0 ∧
    Gives (oldV (.v 3)) s0 vzero s0 ∧ (∃ t, Gives (writeMasked (.v 3) (s0.act.getK 0) false v) s0 () t) ∧
    (∀ j : Fin 16, (0xFFFF : BitVec 16).getLsbD j = true ↔ (s0.act.getK 0).getLsbD j = true ∧ Holds .eq false vzero[j] vzero[j]) ∧
    (∀ j : Fin 16, (0xFFFF : BitVec 16).getLsbD j = ((s0.act.getK 0).getLsbD j && (fcmp fmtF32 .eq vzero[j].toNat vzero[j].toNat).1)) ∧
    (∀ j : Fin 16, vzero[j] = if (s0.act.getK 0).getLsbD j then vzero[j] else vzero[j]) :=
  ⟨ready0, rfl, rfl, rfl, ⟨_, rfl⟩, fun j => ⟨fun _ => ⟨by revert j; decide, rfl⟩, fun _ => (by decide : ∀ j : Fin 16, (0xFFFF : BitVec 16).getLsbD j = true) j⟩, by decide, by simp⟩
theorem test_wit_VectorInteger (n : Nat) (v : VReg) : (true = true ∨ true = false) ∧ Ready hd s0 ∧ Gives (readV (.v 1)) s0 vzero s0 ∧
    Gives (readVSrc n (.vec (.v 2))) s0 vzero s0 ∧ (∃ t, Gives (writeMasked (.v 3) (s0.act.getK 0) true v) s0 () t) ∧
    0 < 8 ∧ 255 < 2 ^ 8 := ⟨.inl rfl, ready0, rfl, rfl, ⟨_, rfl⟩, by decide, by decide⟩
/-- A vector reduction of sixteen zeros, the last index of VEXTR, and a narrowing conversion. -/
theorem test_wit_VectorMoves (v : VReg) (x : Word) : Ready hd s0 ∧ NType.f32.bits ≠ 64 ∧ NType.bf16.bits ≠ 64 ∧
    Gives (readV (.v 1)) s0 vzero s0 ∧ Gives (oldV (.v 3)) s0 vzero s0 ∧
    (∃ t, Gives (writeMasked (.v 3) (s0.act.getK 0) true v) s0 () t) ∧ Gives (readG (.g 2)) s0 0 s0 ∧
    (match Idx.imm 63 with | .imm j => 63 = j.toNat ∧ s0 = s0 | .reg c => ∃ w : Word, Gives (readG c) s0 w s0 ∧ 63 = w.toNat % 64) ∧
    (∃ t, Gives (writeV (.v 3) v) s0 () t) ∧ (∃ t, Gives (writeG (.g 3) x) s0 () t) ∧
    (let f := (redOp .rne (.iadd true)).1
     tree16 (fun (p q : Nat × BitVec 5) => ((f p.1 q.1).1, p.2 ||| q.2 ||| (f p.1 q.1).2)) ((List.range 16).map fun j =>
      (if (s0.act.getK 0).getLsbD j then (lane vzero j).toNat else (redOp .rne (.iadd true)).2, 0)) = [(0, 0)]) :=
  ⟨ready0, by decide, by decide, rfl, rfl, ⟨_, rfl⟩, rfl, ⟨rfl, rfl⟩, ⟨_, rfl⟩, ⟨_, rfl⟩, by decide⟩

/-- A page of one granule at virtual 0x10000 and physical 0x10000. -/
def page1 : TlbEntry := { ctx := 0, bits := 16, vpage := 1, ppage := 1, r := true, w := true, x := true, dom := 0, key := 0 }
/-- An activation whose g2 holds 0x10000, with that page in its core's TLB, and a BF16 window over it. -/
def s0g : State := { withAct { Act.blank with g := Act.blank.g.set 2 0x10000 } with
  coreHw := [(0, { tlb := [page1] })]
  ctxs := [(0, { running := true, supv := 0x80000040, fwin := (Vector.replicate 16 (0, 0, 0, 0)).set 0 (0x10001, 0x11000, 0, 0) })] }

/-- Can a part of an instruction be performed? -/
def runs {α : Type} (m : M α) (s : State) : Bool := match m.run s with | .ok _ => true | .error _ => false
theorem gives_of_runs {α : Type} {m : M α} {s : State} (h : runs m s = true) : ∃ x t, Gives m s x t := by
  unfold runs at h
  split at h
  · exact ⟨_, _, ‹_›⟩
  · cases h

theorem test_wit_FormatWindows_load : ∃ w p l bs s1 s2 s3, Ready hd s0g ∧ Gives (readG (.g 2)) s0g 0x10000 s0g ∧
    Gives (roomV (.v 3)) s0g () s0g ∧ Gives (blockPlaces 0x10000) s0g (w, p, l) s1 ∧
    Gives (seamLoad l (loadBlock 0x10000 w p l)) s1 bs s2 ∧ Gives (writeV (.v 3) (vldfValue .bf16 .rne w.fmt bs).1) s2 () s3 := by
  obtain ⟨_, s3, h⟩ := gives_of_runs (m := blockPlaces 0x10000 >>= fun q => seamLoad q.2.2 (loadBlock 0x10000 q.1 q.2.1 q.2.2) >>= fun bs =>
    writeV (.v 3) (vldfValue .bf16 .rne q.1.fmt bs).1) (s := s0g) (by decide +kernel)
  obtain ⟨q, s1, h1, h⟩ := gives_bind h
  obtain ⟨bs, s2, h2, h3⟩ := gives_bind h
  exact ⟨q.1, q.2.1, q.2.2, bs, s1, s2, s3, ⟨_, rfl, rfl⟩, rfl, rfl, h1, h2, h3⟩
theorem test_wit_FormatWindows_store : ∃ u, Ready hd s0g ∧ Gives (readV (.v 3)) s0g vzero s0g ∧ Gives (readG (.g 2)) s0g 0x10000 s0g ∧
    Gives (enterStore (.block .raw vzero vzero 0 (s0g.vstfFormat 0x10000).isSome) 0x10000 [] false
      (blockBytes ((s0g.vstfFormat 0x10000).getD 0))) s0g () u :=
  ⟨_, ⟨_, rfl, rfl⟩, rfl, rfl, rfl⟩
theorem test_wit_SpecialFunctions (v : VReg) (x : Word) (f : Fin 16 → BitVec 32) : Ready hd s0 ∧ Gives (readG (.g 2)) s0 0 s0 ∧
    (∃ t, Gives (writeG (.g 3) x) s0 () t) ∧ Gives (readV (.v 1)) s0 vzero s0 ∧ Gives (readVSrc 32 (.bc (.g 2))) s0 (vmk fun _ => 0) s0 ∧
    (∃ t, Gives (writeMasked (.v 6) (s0.act.getK 0) true v) s0 () t ∧ ∃ u, Gives (writeMasked (.v 7) (s0.act.getK 0) true v) t () u) ∧
    (∀ j, j < 16 → (0xFFFF : BitVec 16).getLsbD j = (s0.act.getK 0).getLsbD (2 * (j / 2))) ∧ ∃ w : VReg, ∀ j : Fin 16, w[j] = f j :=
  ⟨ready0, rfl, ⟨_, rfl⟩, rfl, rfl, ⟨_, rfl, _, rfl⟩, by decide, Vector.ofFn f, by simp⟩
theorem test_wit_Directional (v : VReg) (x : Word) : Ready hd s0 ∧ Gives (readG (.g 2)) s0 0 s0 ∧ Gives (readV (.v 1)) s0 vzero s0 ∧
    (∃ t, Gives (writeV (.v 2) v) s0 () t ∧ ∃ u, Gives (writeV (.v 3) v) t () u) ∧ (∃ t, Gives (writeG (.g 3) x) s0 () t) ∧
    Gives (readSrc2 (.imm 0x8000)) s0 0x8000 s0 ∧ (1 : BitVec 4) ≠ 2 :=
  ⟨ready0, rfl, rfl, ⟨_, rfl, _, rfl⟩, ⟨_, rfl⟩, rfl, by decide⟩
theorem test_wit_StreamGenerators : Ready hd s0m ∧ Gives (readG (.g 2)) s0m clm0 s0m ∧ Gives (readG (.g 3)) s0m 0 s0m ∧ clm0.toNat % 4 = 0 :=
  ⟨⟨_, rfl, rfl⟩, rfl, rfl, rfl⟩

/-! ## Witnesses: messages, mailboxes, domains -/

/-- An activation whose message came from the mailbox of a core that the context reaches; g2 holds that AAD. -/
def s0s : State := withAct { Act.blank with
  hdr1 := 0x80000000, g := Act.blank.g.set 2 0x80000000
  msg := { m := { dst := 0x80000000, cls := 2, src := 0x80000000, payload := [] }, order := 0, at_ := 0 } }

theorem sendOk_s0s (cls : BitVec 4) (n : Nat) (r : Bool) (h : cls ≠ 15) (e : n ≤ 240) : SendOk s0s 0x80000000 cls n r :=
  ⟨by decide, by decide, by show (16 + n + 63) / 64 ≤ 4; omega, fun _ => rfl, fun _ => rfl, fun h' => absurd h' h⟩

/-- A payload of one word, and of 240 bytes; a REFUSE; and a destination that names no mailbox. -/
theorem test_wit_Sends : Ready hd s0s ∧ Gives (readG (.g 2)) s0s 0x80000000 s0s ∧ Gives (payloadM (.regs (.g 3) 1)) s0s (bytesLE 8 0) s0s ∧
    TagDelay 0 none 0 0 s0s s0s ∧ TagDelay 0 (some (.g 3)) 0 0 s0s s0s ∧ SendOk s0s 0x80000000 0 8 false ∧
    s0s.act.outUsed + 64 * ((16 + 8 + 63) / 64) ≤ 4096 ∧ SendOk s0s 0x80000000 13 240 true ∧
    (∃ pay, Gives (loadM clm0 (BitVec.toNat (0 : BitVec 8) + 1) false) s0s pay s0s) ∧
    (SendOk s0s (s0s.act.msg.m.src.setWidth 64) 15 112 true ∧ s0s.act.outUsed + 128 ≤ 4096) ∧
    Gives (readG (.g 0)) s0s 0 s0s ∧ ¬ SendOk s0s 0 0 8 false :=
  ⟨⟨_, rfl, rfl⟩, rfl, rfl, ⟨rfl, rfl, rfl⟩, ⟨0, rfl, rfl, rfl⟩, sendOk_s0s _ _ _ (by decide) (by decide), by decide,
    sendOk_s0s _ _ _ (by decide) (by decide), ⟨_, rfl⟩,
    ⟨⟨by decide, by decide, by decide, fun _ => rfl, fun _ => rfl, fun _ => by decide⟩, by decide⟩, rfl,
    fun h => absurd h.1 (by decide)⟩

/-- A depth of 64 with a return mailbox; a bobbin of one page; a handler in the last slot of a code line; a combining mailbox. -/
def s0c : State := { s0 with mbxs := [((0, 0, 1), { kind := .combining })] }
theorem test_wit_Mailboxes (v : Word) : ∃ s : State, s = withAct { Act.blank with g := (Act.blank.g.set 2 0x10040).set 3 4096 } ∧
    Ready hd s ∧ Gives (readG (.g 2)) s 0x10040 s ∧ Gives (readG (.g 3)) s 4096 s ∧ Gives (readG (.g 4)) s 0 s ∧
    1 ≤ ((0x10040 : Word).extractLsb' 0 7).toNat ∧ ((0x10040 : Word).extractLsb' 0 7).toNat ≤ 64 ∧
    s.depthSum s.cctx s.idCore (s.ownMbx 1) + ((0x10040 : Word).extractLsb' 0 7).toNat ≤ 96 ∧
    (s.ownBox 1).used ≤ ((0x10040 : Word).extractLsb' 0 7).toNat ∧ (s.ownBox 1).busy = false ∧
    (0x10040 : Word) &&& ~~~0x1317F = 0 ∧ (0x10040 : Word).getLsbD 16 = true ∧ s.isCopy = false ∧ s.cactor? = some kit ∧
    s.isPriv = true ∧ (4096 : Word).toNat % 4096 = 0 ∧ 4096 ≤ (4096 : Word).toNat ∧
    (4096 : Word).toNat ≤ 2 ^ 30 ∧ (4096 : Word).toNat + (4096 : Word).toNat ≤ 2 ^ 55 ∧
    (∀ x, (s.ownBox 1).bobbin = some x → x.msgs = []) ∧ (s.ownBox 1).waiting = [] ∧ (s.ownBox 1).bobbin = none ∧
    (108 : Word).toNat % 128 < 120 ∧ (108 : Word).toNat % 128 % 12 = 0 ∧ ∃ t, Gives (writeG (.g 5) v) s () t :=
  ⟨_, rfl, ⟨_, rfl, rfl⟩, rfl, rfl, rfl, by decide, by decide, by decide, by decide, rfl, by decide, by decide, rfl, rfl, rfl,
    by decide, by decide, by decide, by decide, fun _ h => (by cases h), rfl, rfl, by decide, by decide, _, rfl⟩
theorem test_wit_Mailboxes_arm : (s0c.ownBox 1).kind = .combining ∧ 1 ≤ (1024 : Word).toNat ∧ (1024 : Word).toNat ≤ 1024 ∧
    (s0c.ownBox 1).used < 256 ∧ (s0c.ownBox 1).drop < 4 ∧ (s0c.ownBox 1).comb.left < 2048 := ⟨rfl, by decide, by decide, by decide, by decide, by decide⟩

def rec0 : ThimbleRec := { rpc := 0x120, sp := 7, w0 := none, w1 := some { base := 0, len := 1, ldom := 0, write := false }, cdom := 1, edom := 0 }
/-- An activation with one record in its thimble, on code of its own page. -/
def s0t : State := { s0g with acts := [(sid0, { Act.blank with
  thimble := [rec0], main := { pc := 0x10000, fromDom := 0, arrival := .handler }, g := Act.blank.g.set 2 (2 ^ 40) })] }

/-- As `s0g`, with the opcode of ENTRY at 0x10000. -/
def s0e : State := { s0g with mem := [(0x1000B, 0xC0)] }

/-- A fetch that has given a word. -/
theorem isWord {f : Fetched} {d : BitVec 6} (h : (match f with | .word e _ => decide (e = d) | _ => false) = true) :
    ∃ w, f = .word d w := by
  cases f with
  | word e w => exact ⟨w, by rw [of_decide_eq_true h]⟩
  | fault n => cases h
  | walk g => cases h
theorem test_wit_DomainInstructions (v : Word) : Ready hd s0e ∧ s0e.cur.stream = .main ∧ s0e.act.strm = false ∧ s0e.act.thimble.length < 8 ∧
    (∃ w, (s0e.fetch s0e.cctx s0e.ccore s0e.cur.dom .calld s0e.pc 0x10000 (s0e.act.str s0e.cur.stream).refused
      (s0e.act.str s0e.cur.stream).given).1 = .word 0 w) ∧
    (Ready hd s0t ∧ s0t.cur.stream = .main ∧ s0t.act.strm = false ∧ s0t.act.thimble = [rec0] ∧ s0t.cur.dom = rec0.edom ∧
      ∀ w, rec0.w0 = some w ∨ rec0.w1 = some w → s0t.windowBusy w = false) ∧
    Gives (readG (.g 2)) s0t (2 ^ 40) s0t ∧ (2 ^ 40 : Word).toNat ≤ 2 ^ 40 ∧ (0 : Word).toNat < 2 ^ 56 ∧
    ((0 : Word).toNat + (2 ^ 40 : Word).toNat - 1) / 2 ^ 55 = (0 : Word).toNat / 2 ^ 55 ∧ s0g.act.thimble = [] ∧
    (∃ t, Gives (writeG (.g 3) v) s0g () t) ∧ (2 ^ 40 + 1 : Word).toNat > 2 ^ 40 ∧
    ∀ w s, ∃ t, Gives (writeG (.g 3) w) s () t :=
  ⟨⟨_, rfl, rfl⟩, rfl, rfl, by decide, isWord (by decide +kernel), ⟨⟨_, rfl, rfl⟩, rfl, rfl, rfl, rfl, fun w h => by
    rcases h with h | h
    · cases h
    · cases h; rfl⟩, rfl, by decide, by decide, by decide, rfl, ⟨_, rfl⟩, by decide, fun _ _ => ⟨_, rfl⟩⟩

/-! ## Witnesses: matrix unit, engines, synchronisation, graph instructions -/

def sw0 (fmt : BitVec 3) (base : Nat) : Swatch := { base, fmt, pitch := 128, sbase := 0, spitch := 0 }
/-- Swatches: 0 and 1 TB8, 2 a mask, 3 sparse, 4 and 5 BF16 apart from each other. -/
def s0w : State := { s0 with coreCtx := [((0, 0), { sw := ((((((Vector.replicate 16 none).set 0 (some (sw0 3 0))).set 1
  (some (sw0 3 0))).set 2 (some (sw0 7 0))).set 3 (some (sw0 6 0))).set 4 (some (sw0 0 0))).set 5 (some (sw0 0 0x10000)) })] }
theorem readyW : Ready hd s0w := ⟨_, rfl, rfl⟩

/-- MMA, MMAS and MMASX at the least K that each admits. -/
theorem test_wit_TileCommands_mma : Ready hd s0w ∧ Gives (readG (.g 2)) s0w 0 s0w ∧ s0w.isPriv = true ∧
    (HasSwatch s0w 4 (sw0 0 0) ∧ HasSwatch s0w 5 (sw0 0 0x10000) ∧ InTile ((sw0 0 0).regions 32 ++ (sw0 0 0x10000).regions 32) ∧
      TileRoom s0w (.mma true (sw0 0 0) (sw0 0 0x10000) 32)) ∧
    (HasSwatch s0w 3 (sw0 6 0) ∧ HasSwatch s0w 1 (sw0 3 0) ∧ InTile ((sw0 6 0).regions 192 ++ (sw0 3 0).regions 192) ∧
      TileRoom s0w (.mmas true (sw0 6 0) (sw0 3 0) 192)) ∧
    (HasSwatch s0w 2 (sw0 7 0) ∧ InTile ((sw0 3 0).regions (64 / 2) ++ (sw0 7 0).regions 64 ++ (sw0 3 0).regions 64) ∧
      TileRoom s0w (.mmasx true (sw0 3 0) (sw0 3 0) (sw0 7 0) 64)) ∧
    ∃ s, Ready hd s ∧ HasSwatch s 2 (sw0 7 0) ∧ Gives (readG (.g 2)) s 64 s :=
  ⟨readyW, rfl, rfl, ⟨rfl, rfl, by unfold InTile; decide, by unfold TileRoom; decide⟩,
    ⟨rfl, rfl, by unfold InTile; decide, by unfold TileRoom; decide⟩,
    ⟨rfl, by unfold InTile; decide, by unfold TileRoom; decide⟩,
    { s0w with acts := [(sid0, { Act.blank with g := Act.blank.g.set 2 64 })] }, ⟨_, rfl, rfl⟩, rfl, rfl⟩
theorem test_wit_TileCommands_others (v : Word) : TileRoom s0w (.mzero false) ∧ InTile ((sw0 0 0).regions 64) ∧
    TileRoom s0w (.mload false (sw0 0 0)) ∧ TileRoom s0w (.mstore (sw0 0 0) false .rtz) ∧
    (∀ r ∈ (sw0 0 0).regions 64, ∀ q ∈ (sw0 0 0x10000).regions 64, r.2 < q.1 ∨ q.2 < r.1) ∧ (0 : BitVec 3).toNat ≤ 2 ∧
    InTile ((sw0 0 0).regions 64 ++ (sw0 0 0x10000).regions 64) ∧ TileRoom s0w (.mxpose (sw0 0 0) (sw0 0 0x10000)) ∧
    TileRoom s0w (.mewise true 0 .rup 0 none) ∧ InTile [(sw0 0 0).line0] ∧ TileRoom s0w (.mewise true 4 .rne 0 (some (sw0 0 0))) ∧
    swatchOf 0 0 = some { base := 0, fmt := 0, pitch := 0, sbase := 0, spitch := 0 } ∧ ∃ t, Gives (writeG (.g 3) v) s0w () t :=
  ⟨by unfold TileRoom; decide, by unfold InTile; decide, by unfold TileRoom; decide, by unfold TileRoom; decide, by decide, by decide,
    by unfold InTile; decide, by unfold TileRoom; decide, by unfold TileRoom; decide, by unfold InTile; decide,
    by unfold TileRoom; decide, by decide, _, rfl⟩

/-- As `s0m`, with memory from the first byte beyond the workspaces on. -/
def s0d (l : List (Nat × Byte)) : State := { s0m with mem := l.map fun c => (clmKey 0 0 45056 + c.1, c.2) }
/-- The descriptor of a COPY of one byte from that address to 4,096 bytes above it. -/
def copyMem : List (Nat × Byte) := [(1, 0xB0), (6, 0x80), (9, 0xC0), (14, 0x80), (16, 1), (20, 1), (24, 1)]
/-- The descriptor of a GATHER of one item, with its indices 8,192 bytes above. -/
def gatherMem : List (Nat × Byte) := [(1, 0xB0), (6, 0x80), (9, 0xC0), (14, 0x80), (16, 1), (20, 1), (25, 0xD0), (30, 0x80)]
/-- A loop node of one descriptor. -/
def loopMem : List (Nat × Byte) := [(0, 2), (48, 1)]

/-- Bytes loaded that meet a condition, and what is done with them. -/
theorem load_then {m : M (List Byte)} {p : List Byte → State → Bool} {k : List Byte → M Unit} {s : State}
    (h : runs (m >>= fun d => asks (p d) >>= fun b => if b then k d else stop (.poison [])) s = true) :
    ∃ d s2 s3, Gives m s d s2 ∧ p d s2 = true ∧ Gives (k d) s2 () s3 := by
  obtain ⟨_, u, h⟩ := gives_of_runs h
  obtain ⟨d, s2, h1, h⟩ := gives_bind h
  obtain ⟨b, s3, h2, h⟩ := gives_bind h
  obtain ⟨rfl, rfl⟩ : p d s2 = b ∧ s2 = s3 := by
    have : (Except.ok (p d s2, s2) : Except Stop _) = .ok (b, s3) := h2
    injection this with e; injection e with e1 e2; exact ⟨e1, e2⟩
  cases e : p d s2
  · rw [e] at h; simp [Gives, stop] at h; cases h
  · rw [e] at h; exact ⟨d, s2, u, h1, e, h⟩

theorem test_wit_EngineCommands_copy : ∃ d s2 s3, Ready hd (s0d copyMem) ∧ Gives (readG (.g 2)) (s0d copyMem) clm0 (s0d copyMem) ∧
    Gives (roomG (.g 3)) (s0d copyMem) () (s0d copyMem) ∧ (s0d copyMem).descPlace clm0.toNat 64 = true ∧
    Gives (loadM clm0 64 false) (s0d copyMem) d s2 ∧ (copyCause d none == none) = true ∧ Gives (enterCmd false (.g 3) fun e => { e with
      src := descWord d 0, dst := descWord d 8, x := fieldLE d 16 4, y := fieldLE d 20 4, z := fieldLE d 24 4 }) s2 () s3 := by
  obtain ⟨d, s2, s3, h1, h2, h3⟩ := load_then (m := loadM clm0 64 false) (p := fun d _ => copyCause d none == none)
    (k := fun d => enterCmd false (.g 3) fun e => { e with
      src := descWord d 0, dst := descWord d 8, x := fieldLE d 16 4, y := fieldLE d 20 4, z := fieldLE d 24 4 })
    (s := s0d copyMem) (by decide +kernel)
  exact ⟨d, s2, s3, ⟨_, rfl, rfl⟩, rfl, rfl, by decide, h1, h2, h3⟩
theorem test_wit_EngineCommands_gather : ∃ d s2 s3, Ready hd (s0d gatherMem) ∧ (s0d gatherMem).descPlace clm0.toNat 64 = true ∧
    Gives (loadM clm0 64 false) (s0d gatherMem) d s2 ∧ (gatherCause d true == none) = true ∧
    Gives (enterCmd true (.g 3) fun e => { e with src := descWord d 0, dst := descWord d 8 }) s2 () s3 := by
  obtain ⟨d, s2, s3, h1, h2, h3⟩ := load_then (m := loadM clm0 64 false) (p := fun d _ => gatherCause d true == none)
    (k := fun d => enterCmd true (.g 3) fun e => { e with src := descWord d 0, dst := descWord d 8 })
    (s := s0d gatherMem) (by decide +kernel)
  exact ⟨d, s2, s3, ⟨_, rfl, rfl⟩, by decide, h1, h2, h3⟩
theorem test_wit_EngineCommands_ckpt (mk : EngCmd → EngCmd) : ∃ s2, s0.isPriv = true ∧ Gives (readG (.g 2)) s0 0 s0 ∧ (0 : Word).getLsbD 55 = false ∧
    (0 : Word).toNat % 4096 = 0 ∧ ((s0.coreAt s0.cctx s0.ccore).engQ false).length < 16 ∧ (∀ e, (id e : EngCmd).n = e.n) ∧
    Gives (enterCmd false (.g 3) mk) s0 () s2 := ⟨_, rfl, rfl, rfl, rfl, by decide, fun _ => rfl, rfl⟩

def cb0 : CBuf := { base := 0, slot := 128, cnt := 2, head := 1, tail := 0, free := 1, fill := 1, resv := [] }
/-- A buffer that holds one filled slot; tlc1 stands at 5. -/
def s0b : State := { s0 with clCtx := [((0, 0), { cbufs := (Vector.replicate 8 none).set 3 (some cb0) })]
                             coreCtx := [((0, 0), { tlc := (Vector.replicate 4 {}).set 1 { assigned := 9, present := 5 } })] }
theorem test_wit_Synchronisation_cbinit : ∃ s, s = withAct { Act.blank with g := (Act.blank.g.set 2 0x5FDF80).set 3 0x4000000080 } ∧ Ready hd s ∧
    Gives (readG (.g 2)) s 0x5FDF80 s ∧ Gives (readG (.g 3)) s 0x4000000080 s ∧ (0x5FDF80 : Word).toNat ≤ 0x5FFFFF ∧
    (0x5FDF80 : Word).toNat % 128 = 0 ∧ (0x4000000080 : Word) &&& ~~~0x7F001FFFFF = 0 ∧
    ((0x4000000080 : Word).extractLsb' 0 21).toNat = 128 ∧ ((0x4000000080 : Word).extractLsb' 32 7).toNat = 64 ∧
    (0x5FDF80 : Word).toNat + 64 * 128 ≤ 0x600000 ∧ s.cbBusy s.cctx s.ccl 3 = false :=
  ⟨_, rfl, ⟨_, rfl, rfl⟩, rfl, rfl, by decide, by decide, by decide, by decide, by decide, by decide, rfl⟩
theorem test_wit_Synchronisation (v : Word) : Ready hd s0b ∧ s0b.cbufAt s0b.cctx s0b.ccl 3 = some cb0 ∧ 1 < cb0.cnt ∧ (1 : BitVec 32).toNat ≤ cb0.fill ∧
    (∀ p ∈ s0b.act.checks, p.stream = s0b.cur.stream → ∀ b ∈ p.bytes, tileOffset b.1 = none) ∧
    (5 ≤ ((s0b.coreAt s0b.cctx s0b.ccore).tlcAt (1 : BitVec 2).toNat).present ∧ ((s0b.coreAt s0b.cctx s0b.ccore).tlcAt (1 : BitVec 2).toNat).present < 6) ∧
    (∃ t, Gives (writeG (.g 3) v) s0b () t) ∧ (s0b.clAt s0b.cctx s0b.ccl).barriers[3]? = some (Barrier.mk 0 [] []) ∧
    (∀ p ∈ s0b.act.checks, p.stream = s0b.cur.stream → ∀ x ∈ p.bytes, x.1 < 2 ^ 55) ∧
    ∃ s, Ready hd s ∧ Gives (readG (.g 2)) s 1 s ∧ Gives (readG (.g 3)) s 64 s :=
  ⟨⟨_, rfl, rfl⟩, rfl, by decide, by decide, nofun, ⟨by decide, by decide⟩, ⟨_, rfl⟩, rfl, nofun,
    withAct { Act.blank with g := (Act.blank.g.set 2 1).set 3 64 }, ⟨_, rfl, rfl⟩, rfl, rfl⟩

theorem test_wit_GraphInstructions_gsub : ∃ d s2 s3, Ready hd (s0d loopMem) ∧ ((s0d loopMem).act.str .main).answer = none ∧
    (s0d loopMem).isCopy = false ∧ Gives (readG (.g 2)) (s0d loopMem) clm0 (s0d loopMem) ∧
    (s0d loopMem).descPlace clm0.toNat 192 = true ∧ Gives (loadM clm0 192 false) (s0d loopMem) d s2 ∧
    (s2.submitCause s2.cctx d == none && s2.act.outb.isEmpty) = true ∧ Gives commitM s2 () s3 := by
  obtain ⟨d, s2, s3, h1, h2, h3⟩ := load_then (m := loadM clm0 192 false)
    (p := fun d s => s.submitCause s.cctx d == none && s.act.outb.isEmpty) (k := fun _ => commitM) (s := s0d loopMem) (by decide +kernel)
  exact ⟨d, s2, s3, ⟨_, rfl, rfl⟩, rfl, rfl, rfl, by decide, h1, h2, h3⟩
theorem test_wit_GraphInstructions (v : Word) : (∃ s t, (s.act.str s.cur.stream).answer = some 5 ∧ Gives (writeG (.g 3) 5) s () t) ∧
    Ready hd s0 ∧ 255 < 256 ∧ s0.isPriv = true ∧ Gives (readG (.g 2)) s0 0 s0 ∧ (0 : Word).toNat % 256 = 0 ∧ Gives commitM s0 () s0 ∧
    s0.isCopy = false ∧ ∃ t, Gives (writeG (.g 3) v) s0 () t :=
  ⟨⟨withAct { Act.blank with main := { pc := 0, fromDom := 0, arrival := .handler, answer := some 5 } }, _, rfl, rfl⟩, ready0, by decide,
    rfl, rfl, by decide, rfl, rfl, _, rfl⟩

/-! ## Witnesses: system instructions -/

theorem test_wit_SpecialRegisters (v : Word) : Ready hd s0 ∧ sregPriv .cyc = false ∧ s0.isPriv = true ∧ (∃ t, Gives (writeG (.g 3) v) s0 () t) ∧
    s0.cactor? = some kit ∧ sregPriv .flg = false ∧ Gives (readSrc2 (.reg (.g 2))) s0 0 s0 := ⟨ready0, rfl, rfl, ⟨_, rfl⟩, rfl, rfl, rfl⟩

/-- As `s0`, with the present actor as the supervisor of the context, and with no supervisor. -/
def s0o : State := { s0 with ctxs := [(0, { running := true, supv := 0x80000003 })] }
def s0n : State := { s0 with ctxs := [(0, { running := true })] }
theorem test_wit_TrapsPark : Ready hd s0 ∧ s0.seam? = none ∧ s0.cactor? = some kit ∧ (s0.ctxAt s0.cctx).supv ≠ 0 ∧
    s0.ownsSupv s0.cctx s0.ccore s0.act.actor = false ∧ (s0n.seam? = none ∧ (s0n.ctxAt s0n.cctx).supv = 0) ∧
    (s0o.seam? = none ∧ s0o.ownsSupv s0o.cctx s0o.ccore s0o.act.actor = true) ∧ s0n.update = none ∧ s0o.update = none :=
  ⟨ready0, rfl, rfl, by decide, rfl, ⟨rfl, rfl⟩, ⟨rfl, rfl⟩, rfl, rfl⟩

def sid1 : SlotId := { ctx := 0, core := 0, slot := 1 }
/-- A second activation of the actor, parked in slot 1; g2 holds the actor's AAD, and g3 the slot. -/
def s0k : State := { s0 with acts := [(sid0, { Act.blank with g := (Act.blank.g.set 2 0x80000000).set 3 1 }),
                                      (sid1, { Act.blank with park := true })] }
theorem readyK : Ready hd s0k := ⟨_, rfl, rfl⟩
theorem test_wit_OtherActivations : (s0k.isPriv = true ∧ Gives (readG (.g 2)) s0k 0x80000000 s0k ∧ Gives (readG (.g 3)) s0k 1 s0k ∧
      aadOk 0x80000000 = true ∧ (s0k.ctxAt s0k.cctx).mayReach (nodeOf (aadCore ((0x80000000 : Word).setWidth 32))) = true) ∧
    s0k.seam? = none ∧ Ready hd s0k ∧ Gives (targetM (.g 2) (.g 3)) s0k (0x80000000, 1) s0k ∧
    (∃ t, Gives (seamOnce (asks fun s => if (s.parkedAt 0x80000000 1).isSome then 0x0080000020000000 else 0)) s0k 0x0080000020000000 s0k ∧
      Gives (writeG (.g 4) 0x0080000020000000) (s0k.modAct fun x => { x with win := some sid1 }) () t) ∧
    (∃ t u, Gives (seamOnce (changeGet fun s => match s.parkedAt 0x80000000 1 with
      | some t => (1, match s.copyOf t with | some u => (s.resumeOne t).resumeOne u | none => s.resumeOne t)
      | none => (0, s))) s0k 1 t ∧ Gives (writeG (.g 4) 1) t () u) ∧ Gives (roomG (.g 4)) s0k () s0k ∧
    s0k.actAt sid1 = some { Act.blank with park := true } ∧ Act.blank.tack = [] ∧
    (∀ x, s0k.actorAt sid1.ctx sid1.core Act.blank.actor = some x → x.dying = false) :=
  ⟨⟨rfl, rfl, rfl, by decide, by decide⟩, rfl, readyK, rfl, ⟨_, rfl, rfl⟩, ⟨_, _, rfl, rfl⟩, rfl, rfl, rfl, fun x h => by
    have : some kit = some x := h
    cases this; rfl⟩
/-- A write of what a part of an instruction answers. -/
theorem answer_then {m : M Word} {s : State} (h : runs (m >>= fun v => writeG (.g 4) v) s = true) :
    ∃ v s2 s3, Gives m s v s2 ∧ Gives (writeG (.g 4) v) s2 () s3 := by
  obtain ⟨_, u, h⟩ := gives_of_runs h
  obtain ⟨v, s2, h1, h2⟩ := gives_bind h
  exact ⟨v, s2, u, h1, h2⟩
theorem test_wit_OtherActivations_kill :
    (∃ v s2 s3, Gives (seamOnce (changeGet fun s =>
      let t : SlotId := { ctx := s.cctx, core := aadCore 0x80000000, slot := 1 }
      if (s.actAt t).any (fun x => x.actor == aadActor 0x80000000) = true ∧ t ≠ s.cur.sid then (1, s.killAll [t]) else (0, s))) s0k v s2 ∧
      Gives (writeG (.g 4) v) s2 () s3) ∧
    (∃ v s2 s3, Gives (seamOnce (changeGet fun s => s.killActors (s.actorsWith fun k _ => k == (aadCore 0x80000000, aadActor 0x80000000)))) s0k v s2 ∧
      Gives (writeG (.g 4) v) s2 () s3) ∧
    ∃ v s2 s3, Gives (seamOnce (changeGet fun s => s.killActors (s.actorsWith fun _ x => x.group.setWidth 64 == 2))) s0k v s2 ∧
      Gives (writeG (.g 4) v) s2 () s3 :=
  ⟨answer_then (by decide +kernel), answer_then (by decide +kernel), answer_then (by decide +kernel)⟩

/-- A local and a global page, one scope of each kind, and the last cluster of the interval. -/
theorem test_wit_SystemOthers : Ready hd s0k ∧ s0k.isPriv = true ∧ Gives (readG (.g 2)) s0k 0x80000000 s0k ∧
    (∃ t, Gives (tlbinvM .core (some 0x80000000)) s0k () t) ∧ (∃ t, Gives (tlbinvM .clu none) s0k () t) ∧
    (clm0).getLsbD 55 = true ∧ Scope.clu ≠ .core ∧ Scope.die ≠ .pkg ∧ (s0k.hwAt s0k.ccore).ringBase = 0 ∧
    (s0k.hwAt s0k.ccore).ring.length < 1024 ∧
    ∃ s : State, Ready hd s ∧ Gives (readG (.g 2)) s 511 s ∧ Gives (readG (.g 3)) s 1 s ∧ s.isCopy = false ∧
      (s.ctxAt s.cctx).svb ≤ (511 : Word).toNat ∧ (511 : Word).toNat + (1 : Word).toNat ≤ (s.ctxAt s.cctx).svb + (s.ctxAt s.cctx).svl :=
  ⟨readyK, rfl, rfl, ⟨_, rfl⟩, ⟨_, rfl⟩, by decide, by decide, by decide, rfl, by decide,
    withAct { Act.blank with g := (Act.blank.g.set 2 511).set 3 1 }, ⟨_, rfl, rfl⟩, rfl, rfl, rfl, by decide, by decide⟩

/-- Privileged or not, on either stream, with entries left, a record, a store under check; an address off a multiple of 8. -/
theorem test_wit_Traps : Ready hd u0 ∧ u0.isPriv = false ∧ u0.ownsSupv u0.cctx u0.idCore u0.act.actor = false ∧
    (∃ s : State, Ready hd s ∧ Gives (memAddr memF2) s 0x80000000 s ∧ Gives (readG (.g 3)) s 1 s ∧ Gives (roomG (.g 4)) s () s ∧
      (0x80000001 : Word).toNat % Size.d.bytes ≠ 0) ∧
    (Ready hd s0a ∧ s0a.act.strm = true ∧ s0a.cur.stream = .access) ∧ s0.cur.stream = .main ∧ s0t.act.thimble ≠ [] ∧
    (withAct { Act.blank with qg := Act.blank.qg.set 0 [ent 1 .main] }).act.queuesEmpty = false ∧
    (withAct { Act.blank with checks := [pst] }).act.checks ≠ [] ∧ (withAct { Act.blank with checks := [pst] }).act.queuesEmpty = true :=
  ⟨readyU, rfl, rfl, ⟨s0k, readyK, rfl, rfl, rfl, by decide⟩, ⟨⟨_, rfl, rfl⟩, rfl, rfl⟩, rfl, nofun, by decide, nofun, by decide⟩
theorem test_wit_RegisterFrames : Ready hd s0 ∧ scalarDest (.ldi hd false (.g 3) 7) = some (hd, .g 3) ∧
    (∃ t, exec (.ldi hd false (.g 3) 7) s0 = .next t) ∧ jumpDest (.call hd 2) = some (hd, 15) ∧ (∃ t, exec (.call hd 2) s0 = .next t) ∧
    (∃ t, exec (.cmp hd .eq .d false 2 (.g 2) (.imm 0)) s0 = .next t) ∧ (∃ t, exec (.plog hd 3 1 2 3) s0 = .next t) ∧
    ∃ t, exec (.klog hd 3 1 2 3) s0 = .next t := ⟨ready0, rfl, ⟨_, rfl⟩, rfl, ⟨_, rfl⟩, ⟨_, rfl⟩, ⟨_, rfl⟩, _, rfl⟩

/-! ## Witnesses: events -/

theorem test_wit_Descriptors : 4096 ≤ 4096 ∧ 4096 < 4097 ∧ 65536 ≤ 65536 ∧ 65535 < 65536 ∧ 2 ^ 32 < 2 ^ 32 + 1 ∧ 95 < 96 ∧ memOk s0 ∧
    2 ^ 39 - 1 < 2 ^ 39 ∧ (∃ s : State, ∃ x ∈ s.ctxs, (7 : BitVec 9).toNat ∈ x.2.keys) ∧ (∀ x ∈ s0.ctxs, (7 : BitVec 9).toNat ∉ x.2.keys) ∧
    (s0.ctxAt 0).counters[(15 : BitVec 4).toNat]? = some { event := 0 } ∧ (s0.ctxAt 0).frames[(15 : BitVec 4).toNat]? = some { node := 0 } ∧
    s0.submitCause 0 (List.replicate 192 0) = some 7 ∧ s0.submitCause 0 (2 :: List.replicate 47 0 ++ 1 :: List.replicate 143 0) = none ∧ s0.update = none :=
 
  ⟨by decide, by decide, by decide, by decide, by decide, by decide, rfl, by decide,
    ⟨{ s0 with ctxs := [(0, { keys := [7] })] }, (0, { keys := [7] }), List.mem_cons_self, by decide⟩, by decide, rfl, rfl,
    by decide +kernel, by decide +kernel, rfl⟩

/-- A message of class 3 to mailbox 0 of the actor, which has a handler for it. -/
def msg3 : Msg := { dst := 0x80000000, cls := 3, src := 0x80000000, payload := [] }
def q3 : Queued := { m := msg3, order := 0, at_ := 0 }
/-- The mailbox holds one in its ring, and has room for one more; no activation runs. In `s0r` a bobbin holds another. -/
def s0q : State := { s0 with acts := [], mbxs := [((0, 0, 0), { kind := .queue, depth := 2, ring := [q3] })] }
def bob0 : Bobbin := { base := 0x10000, entries := 16, head := 0, msgs := [{ order := 1, at_ := 0, held := false }] }
def s0r : State := { s0 with mbxs := [((0, 0, 0), { kind := .queue, depth := 2, ring := [q3], bobbin := some bob0 })] }

/-- Pelson's mailboxes: owned, not owned, and while Pelson is updated. -/
def msgP : Msg := { msg3 with dst := 0x80042000 }
def hand0 : Handover := { magic := 0, version := 1, length := 0, crc := crc32c [], body := [] }
def upd0 : Update := { img := imageReset, slot := true, graph := false, hand := hand0, due := 5 }
def sUpd : State := { s0 with update := some upd0 }
theorem test_wit_Arrivals_pelson : s0.overtakes 0 msgP = false ∧ 528 ≤ nodeOf (aadCore msgP.dst) ∧ s0.update = none ∧ msgP.dst ∉ s0.owners ∧
    msgP.node = none ∧ msgP.cls ≠ 15 ∧ msgP.src.msb = true ∧ (∃ s : State, s.update = none ∧ msgP.dst ∈ s.owners ∧ s.overtakes 0 msgP = false) ∧
    sUpd.update ≠ none ∧ sUpd.overtakes 0 msgP = false ∧ (∃ w, (sUpd.ctxAt 0).frames[0]? = some w ∧ w.stat.getLsbD 8 = true) :=
  ⟨rfl, by decide, rfl, by decide, rfl, by decide, by decide, ⟨{ s0 with owners := [0x80042000] }, rfl, List.mem_cons_self, rfl⟩, by decide, rfl,
    _, rfl, rfl⟩
theorem test_wit_Arrivals : s0.overtakes 0 msg3 = false ∧ 528 ≤ nodeOf (aadCore 0x80042000) ∧
    (∃ s : State, s.overtakes 0 msg3 = true) ∧ nodeOf (aadCore msg3.dst) < 512 ∧ (s0.mbxAt 0 0 0).kind = .unconfigured ∧
    (s0.mbxAt 0 0 0).replay = none ∧ msg3.node = none ∧ msg3.cls ≠ 15 ∧ msg3.src.msb = true ∧
    s0q.overtakes 0 msg3 = false ∧ s0q.actorAt 0 0 ((aadMbx msg3.dst).toNat / 4) = some kit ∧ (s0q.mbxAt 0 0 0).kind = .queue ∧
    s0q.stoppedAt 0 0 = false ∧ kit.handler 0 3 = some (0x300, true) ∧ (s0q.mbxAt 0 0 0).spilled = false ∧ (s0q.mbxAt 0 0 0).ring ≠ [] ∧
    (s0q.mbxAt 0 0 0).used + msgFlits msg3 ≤ (s0q.mbxAt 0 0 0).depth ∧ s0q.slotFor 0 0 = some 0 ∧
    bestOf (s0q.candidates 0 0) = some (0, 0, q3) ∧ (s0q.ctxAt 0).lockstitch = false ∧
    (∃ s : State, s.stoppedAt 0 0 = true) ∧ s0r.bobbinHead 0 0 0 = some (bob0, 0) ∧
    (s0r.mbxAt 0 0 0).used + msgFlits (s0r.bobbinMsg 0 0 bob0 0).1.m ≤ (s0r.mbxAt 0 0 0).depth :=
  ⟨rfl, by decide, ⟨{ s0 with agenda := [(0, .messageArrival 0 { msg3 with seq := 0xFFFF })] }, by decide⟩, by decide, rfl, rfl, rfl,
    by decide, rfl, rfl, rfl, rfl, rfl, rfl, rfl, nofun, by decide, by decide, by decide, rfl, ⟨State.reset, rfl⟩, by decide, by decide +kernel⟩
theorem test_wit_Arrivals_delayed : ∃ s : State, (s.coreAt 0 0).inject = [(msg3, 0)] ∧ (∀ y ∈ ([] : List (Msg × Nat)), y.1.dst ≠ msg3.dst) ∧
    0 ≤ s.cycle ∧ ∀ y ∈ (s0.coreAt 0 0).inject, y.1.dst ≠ msg3.dst :=
  ⟨{ s0 with coreCtx := [((0, 0), { inject := [(msg3, 0)] })] }, rfl, nofun, Nat.zero_le _, nofun⟩

/-- The two last bytes of CLM under check; the slot is not idle. -/
def pstE : PStore := { pst with addr := 0x8000000001FFFE, bytes := [(2 ^ 55 + 131070, 7), (2 ^ 55 + 131071, 8)] }
def s0p : State := withAct { Act.blank with checks := [pstE] }
theorem place_pstE (i : Nat) (x : Nat × Byte) (h : pstE.bytes[i]? = some x) : x.1 = 2 ^ 55 + 131070 + i ∧
    s0p.place { sid := sid0, own := true, dom := pstE.dom, windows := pstE.windows, win := none } x.1 .write = .ok (.clm (131070 + i)) := by
  match i, h with
  | 0, h =>
    obtain rfl : (2 ^ 55 + 131070, 7) = x := Option.some.inj h
    exact ⟨rfl, by show s0p.place _ 36028797019095038 _ = _; rfl⟩
  | 1, h =>
    obtain rfl : (2 ^ 55 + 131071, 8) = x := Option.some.inj h
    exact ⟨rfl, by show s0p.place _ 36028797019095039 _ = _; rfl⟩
  | n + 2, h => cases h
theorem test_wit_ReleasesAndKills : s0p.actAt sid0 = some { Act.blank with checks := [pstE] } ∧ (s0p.ctxAt 0).lockstitch = false ∧
    s0p.actAt sid1 = none ∧ memOk s0p ∧ pstE.held = false ∧ pstE.kind = .plain false none ∧ Act.blank.win = none ∧ 45056 ≤ 131070 ∧
    131070 + pstE.bytes.length ≤ 131072 ∧ Act.blank.tack.length + pstE.bytes.length ≤ 512 ∧ Act.blank.outb = [] ∧
    (∀ x ∈ s0p.seams, x.primary ≠ sid0 ∧ x.secondary ≠ sid0) ∧
    (∀ x, s0p.actorAt sid0.ctx sid0.core Act.blank.actor = some x → x.dying = false) ∧
    (Act.retryable { Act.blank with idem := true } = true ∧ Act.retryable { Act.blank with idem := true, ecom := true } = false ∧ 1 < 2) :=
  ⟨rfl, rfl, rfl, rfl, rfl, rfl, rfl, by decide, by decide, by decide, rfl, nofun,
    fun x h => (by have : some kit = some x := h; cases this; rfl), by decide, by decide, by decide⟩

/-- A context that is not running; the whole package, and less than that; a launch of one actor. -/
def s0x : State := { State.reset with ctxs := [(0, { svl := 256 })] }
def decl0 : ActorDecl := { node := 0, core := 0, aid := 5, group := 6, parallel := false, priv := false, stksz := 256, hdom := 0
                           state := [1, 2], mailboxes := [(0, some (4, false, 1), 0, 0)], handlers := [(0, 3, 0x300, false)] }
def plan0 : LaunchPlan := { ctx := 0, tables := 0, sections := [], entries := [(1, 2)], actors := [decl0], msgs := [{ actor := 0, mbx := 3, cls := 13, payload := List.replicate 240 0 }] }
def s0y : State := { State.reset with coreCtx := [((0, 0), { stop := some (0x80000000, 0) })] }
theorem some_pair {α β : Type} {o : Option (α × β)} (h : o.isSome = true) : ∃ a b, o = some (a, b) := by
  cases o with
  | none => cases h
  | some p => exact ⟨p.1, p.2, rfl⟩
theorem test_wit_Contexts_stops : (∀ k ∈ s0.acts, ∀ p ∈ k.2.checks, p.held = false) ∧
    s0y.stopDue 0 0 = true ∧ (s0y.coreAt 0 0).stop = some (0x80000000, 0) ∧ (∀ k ∈ s0y.acts, ∀ p ∈ k.2.checks, p.held = false) ∧
    s0.stopDue 0 0 = false ∧ (s0.ctxAt 0).running = true := by
  refine ⟨?_, ?_, ?_, ?_, ?_, ?_⟩ <;> decide +kernel
theorem test_wit_Contexts_restore : (s0x.ctxAt 0).running = false ∧ (s0x.ctxAt 0).terminated = false ∧
    (∀ y ∈ s0x.ctxs, y.2.running = true → y.1 ≠ 0 →
      y.2.svb + y.2.svl ≤ (s0x.ctxAt 0).svb ∨ (s0x.ctxAt 0).svb + (s0x.ctxAt 0).svl ≤ y.2.svb) ∧ s0x.update = none ∧ (s0x.ctxAt 0).moved = [] := by
  refine ⟨?_, ?_, ?_, ?_, ?_⟩ <;> decide +kernel
theorem test_wit_Contexts_intervals : State.reset.partitionOk [1] 511 1 = true ∧ State.reset.partitionOk [1] 511 2 = false ∧
    s0x.partitionOk [1] 255 1 = false ∧ 0 ∈ s0.siblings 0 ∧ (s0.ctxAt 0).running = true ∧ s0x.siblings 0 = [0] ∧ (s0x.ctxAt 0).running = false ∧
    (s0x.ctxAt 0).svl ≤ 512 ∧ s0x.partitionOk [0] (s0x.ctxAt 0).svb 512 = true ∧
    ((s0x.ctxAt 0).lockstitch = true → 512 % 2 = 0 ∧ 4 ≤ 512) ∧ (∀ k ∈ s0x.siblings 0, (s0x.ctxAt k).running = false) ∧
    s0x.partitionOk (s0x.siblings 0) 0 513 = false :=
  ⟨by decide +kernel, by decide +kernel, by decide +kernel, by decide +kernel, rfl, by decide +kernel, rfl, by decide +kernel, by decide +kernel, fun _ => by decide +kernel, by decide +kernel, by decide +kernel⟩
/-- A launch that follows the limits, one whose message is for an actor that it does not place, and one with more actors than a core holds. -/
theorem test_wit_Contexts_launch : planOk plan0 (s0x.ctxAt plan0.ctx) = true ∧
    (∃ l s1, s0x.placeAll plan0.ctx plan0.actors = some (l, s1)) ∧ (∃ aad t, s0x.placeActor 0 decl0 = some (aad, t)) ∧
    planOk { plan0 with msgs := [{ actor := 1, mbx := 0, cls := 14, payload := [] }] } (s0x.ctxAt 0) = false ∧
    s0x.placeAll 0 (List.replicate 17 decl0) = none :=
  ⟨by decide +kernel, some_pair (by decide +kernel), some_pair (by decide +kernel), by decide +kernel,
    Option.isNone_iff_eq_none.mp (by decide +kernel)⟩

theorem pair_of {α β : Type} {p : α × β} {a : α} (h : p.1 = a) : ∃ b, p = (a, b) := ⟨p.2, by rw [← h]⟩

/-- A root table at 0 that points to a table at 0x10000, whose first entry maps 1 GiB at 0. -/
def s0l : State := { State.reset with
  mem := [(0, 1), (2, 1), (0x10000, 0x1F)]
  acts := [(sid0, { Act.blank with main := { pc := 0x10000, fromDom := 0, arrival := .handler, wait := .walk 1 } })]
  clHw := [(0, { walks := [{ ctx := 0, granule := 1, acc := .load }] })]
  ctxs := [(0, { running := true, keys := [0], fqOut := [{ seq := 3, granule := 1, kind := 0, cluster := 0 }] })] }
theorem test_wit_Walks_end : (∃ w ∈ (s0l.clHwAt 0).walks, w.ctx = 0 ∧ w.granule = (0x10000 : Word).toNat / 65536 ∧ w.seq = none) ∧
    (∃ e s1, s0l.walkTable 0 ((0x10000 : Word).toNat / 65536 * 65536) = (.leaf e, s1)) ∧
    (∃ s1, ({ s0l with mem := [] } : State).walkTable 0 ((0x10000 : Word).toNat / 65536 * 65536) = (.bad 0 3 0, s1)) ∧
    (s0l.ctxAt 0).fqOut.length < 256 ∧ (∃ a, s0l.actAt sid0 = some a ∧ sid0.ctx = 0 ∧ nodeOf sid0.core = 0 ∧ a.main.wait = .walk 1) ∧
    ∀ w ∈ (s0.clHwAt 0).walks, w.ctx = 0 → w.granule = (0x10000 : Word).toNat / 65536 → w.seq ≠ none :=
  ⟨⟨_, List.mem_cons_self, rfl, by decide, rfl⟩,
    ⟨{ ctx := 0, bits := 30, vpage := 0, ppage := 0, r := true, w := true, x := true, dom := 0, key := 0 }, pair_of (by decide +kernel)⟩,
    pair_of (by decide +kernel), by decide, ⟨_, rfl, rfl, rfl, rfl⟩, nofun⟩
theorem test_wit_Walks_faults : (s0l.ctxAt 0).faultEntry 4 = none ∧
    (s0l.ctxAt 0).faultEntry 3 = some { seq := 3, granule := 1, kind := 0, cluster := 0 } ∧ (s0l.ctxAt 0).running = true ∧
    s0l.nodesWaiting 0 0 1 = [] ∧ (∃ s : State, (s.ctxAt 0).faultEntry 3 = some { seq := 3, granule := 1, kind := 0, cluster := 0 } ∧
      (s.ctxAt 0).running = false) ∧ ∃ a : Act, a.main.wait = .fault 1 3 :=
  ⟨rfl, rfl, rfl, rfl, ⟨{ State.reset with ctxs := [(0, { fqOut := [{ seq := 3, granule := 1, kind := 0, cluster := 0 }] })] }, rfl, rfl⟩,
    { Act.blank with main := { pc := 0, fromDom := 0, arrival := .handler, wait := .fault 1 3 } }, rfl⟩

/-- A tile command with leave whose rights have been checked, four cycles after it entered. -/
def tcmd : TileCmd := { n := 1, op := .mzero true, slot := 0, stream := .main, dom := 0, windows := [], aid := 1, owner := none, after := 0
                        enter := 0, leave := true, step := 0, checked := true, ranges := [], seq := 0 }
def ecmd : EngCmd := { n := 1, slot := 0, stream := .main, dom := 0, windows := [], aid := 1, owner := none, src := clm0, dst := 0x8000000001FFFF
                       x := 1, y := 1, z := 1, sys := 0, szs := 0, dys := 0, dzs := 0, idx := none, ckpt := none, cb := none, pos := 0
                       leave := true, after := 0, issued := 0 }
def coreU : CoreCtx := { tile := [tcmd], copyQ := [ecmd], releases := [{ n := 4, msgs := [] }] }
def s0v : State := { s0 with cycle := 4, coreCtx := [((0, 0), coreU)] }
/-- The commands of `s0v` complete. -/
def s0z : State := { s0 with coreCtx := [((0, 0), { tile := [{ tcmd with step := tcmd.op.steps }], copyQ := [{ ecmd with pos := 1 }] })] }
theorem test_wit_Units_tile : (s0v.clHwAt 0).busy = 0 ∧ s0v.chooseQueue 0 0 = some (0, 1) ∧ s0v.tileReady 0 0 = some tcmd ∧ tcmd.checked = true ∧
    s0.chooseQueue 0 0 = none ∧ (s0.coreAt 0 0).tile = [] ∧ (s0z.coreAt 0 0).tile = [{ tcmd with step := tcmd.op.steps }] ∧
    headTile (s0v.coreAt 0 0).tile = some tcmd := by
  refine ⟨?_, ?_, ?_, ?_, ?_, ?_, ?_, ?_⟩ <;> decide +kernel
theorem test_wit_Units_engine : headCmd ((s0v.coreAt 0 0).engQ false) = some ecmd ∧ ecmd.leave = true ∧ ecmd.waits = none ∧
    s0v.storesDone ecmd.owner ecmd.after false = true ∧ s0v.cbFree 0 0 ecmd = true ∧ s0v.reserveSlot 0 0 ecmd = (ecmd, s0v) ∧
    (∃ b e2 s2, State.moveBytes 0 0 (min 4096 (ecmd.total - ecmd.pos)) s0v ecmd = (.byte b, e2, s2) ∧ (s2.coreAt 0 0).stop = none) ∧
    ecmd.ckpt = none ∧ ecmd.idx = none ∧ ecmd.got = [] ∧ ecmd.addrs = (clm0.toNat, 2 ^ 55 + 131071) ∧
    (∃ b s1 s2, s0v.engRead 0 0 (ecmd.who 0 0) ecmd.refused clm0.toNat = (.byte b, s1) ∧
      (∀ p en, s0v.place (ecmd.who 0 0) clm0.toNat .read = .ok (.glob p en) → s0v.blockStart 0 clm0.toNat p = none) ∧
      s1.engWrite 0 0 (ecmd.who 0 0) ecmd.refused ecmd.issued ecmd.since (2 ^ 55 + 131071) b = (.byte b, s2)) ∧
    ({ ecmd with pos := 1 } : EngCmd).total ≤ 1 ∧ ecmd.cb = none ∧ (s0v.coreAt 0 0).releases = [{ n := 4, msgs := [] }] ∧
    (∀ x k, ([] : List OpenRelease) = x :: k → x.msgs ≠ []) ∧ ∀ x k, (s0.coreAt 0 0).releases = x :: k → x.msgs ≠ [] :=
  ⟨by decide +kernel, rfl, rfl, rfl, rfl, rfl,
    ⟨0, _, _, Prod.ext (by decide +kernel) (Prod.ext rfl rfl), by decide +kernel⟩, rfl, rfl, rfl, by decide +kernel,
    ⟨0, _, _, Prod.ext (by decide +kernel) rfl, fun _ _ h => (by cases (by show State.place _ _ 36028797019009024 _ = _; rfl : s0v.place (ecmd.who 0 0) clm0.toNat .read = .ok (.clm 45056)).symm.trans h), Prod.ext (by decide +kernel) rfl⟩, by decide, rfl, rfl, nofun, nofun⟩

/-- Streams held at WAITC, CBWAIT and GSUB. -/
def waiting (w : Wait) : Act := { Act.blank with main := { pc := 0x120, fromDom := 0, arrival := .handler, wait := w } }
theorem test_wit_Waits : (∃ s : State, s.actAt sid0 = some (waiting (.waitc 1 5)) ∧ 5 ≤ ((s.coreAt 0 0).tlcAt 1).present) ∧
    (∃ s : State, s.actAt sid0 = some (waiting (.waitc 1 6)) ∧ ((s.coreAt 0 0).tlcAt 1).present < 6) ∧
    (∃ s : State, s.actAt sid0 = some (waiting (.cbwait (.g 3) 3 0)) ∧ s.cbufAt 0 0 3 = some cb0 ∧ 0 < cb0.fill ∧ cb0.fill ≤ 1) ∧
    (s0.clAt 0 0).barriers[3]? = some (Barrier.mk 0 [] []) ∧
    (∃ a : Act, a.gens[3].wr = false ∧ some 3 ∈ a.bind ∧ a.park = false) ∧ some 3 ∉ Act.blank.bind ∧ (s0.ctxAt 0).lockstitch = false ∧
    (s0.hwAt 0).ringBase = 0 ∧ (s0.hwAt 0).ring.length < 1024 :=
  ⟨⟨{ s0b with acts := [(sid0, waiting (.waitc 1 5))] }, rfl, by decide⟩, ⟨{ s0b with acts := [(sid0, waiting (.waitc 1 6))] }, rfl, by decide⟩,
    ⟨{ s0b with acts := [(sid0, waiting (.cbwait (.g 3) 3 0))] }, rfl, rfl, by decide, by decide⟩, rfl,
    ⟨{ Act.blank with bind := Act.blank.bind.set 0 (some 3) }, rfl, by decide +kernel, rfl⟩, by decide +kernel, rfl, rfl, by decide⟩

/-- A dirty line in way 7 of a slice. -/
def sl7 : SliceLine := { line := 5, set := 5, way := 7, key := 3, valid := 0xFF, dirty := 4 }
/-- At its destination, one hop on, and to a node that the context does not reach; a line with a dirty byte. -/
theorem test_wit_MeshCachesRails : (s0.ctxAt 0).mayReach 511 = true ∧ 511 = meshNode 511 (s0.ctxAt 0).svb ∧ 0 ≠ meshNode 511 (s0.ctxAt 0).svb ∧
    nextHop 0 (meshNode 511 0) 0 512 ≠ 0 ∧ (s0.ctxAt 0).mayReach 512 = false ∧ (∀ m e, Packet.go false ≠ .message m e) ∧ Packet.go false ≠ .go true ∧
    s0.lineAt 0 0 = none ∧ memOk s0 ∧ (∃ (s : State) (x : CLine) (j : Fin 128), s.lineAt 0 7 = some x ∧ x.dirty.getLsbD j = true) ∧
    ∃ s : State, ∃ y ∈ (s.clHwAt 0).slice, ∀ z ∈ (s.clHwAt 0).slice, z.line = y.line → z.way ≠ 7 ∧ z.way ≠ 15 :=
  ⟨by decide +kernel, rfl, by decide +kernel, by decide +kernel, by decide +kernel, nofun, nofun, rfl, rfl,
    ⟨{ s0 with clHw := [(0, { lines := [{ ctx := 0, line := 7, data := Vector.replicate 128 5, dirty := 1, fill := 0, key := 0, poison := 0, scales := none }] })] },
      _, 0, rfl, rfl⟩,
    { s0 with clHw := [(0, { slice := [{ sl7 with way := 6 }] })] }, _, List.mem_cons_self, by decide⟩

/-- Bytes of a list of (offset, byte), the others 0. -/
def bytesAt (l : List (Nat × Byte)) (n : Nat) : List Byte := (List.range n).map fun i => (Map.look l i).getD 0
def node0 (d : List Byte) (st : NodeState) : Node := { id := 1, desc := d, submitter := 0, aid := 1, cluster := 0, dom := 0, windows := []
                                                       preds := [], parent := none, copy := false, st }
/-- A conditional, a loop and a switch on the word at 0x10000, with their table at 0x10040; a loop on a local word. -/
def selD : List Byte := bytesAt [(0, 1), (34, 1), (40, 0x40), (42, 1), (48, 2)] 192
def loopD : List Byte := bytesAt [(0, 2), (34, 1), (40, 0x40), (42, 1), (48, 1), (50, 3), (52, 3)] 192
def casD : List Byte := bytesAt [(0, 3), (34, 1), (40, 0x40), (42, 1), (48, 2)] 192
def badD : List Byte := bytesAt [(0, 2), (38, 0x80), (48, 1)] 192
/-- Entry 1 of the table names one descriptor, all zeros, at 0x10100; the page is in the cluster's TLB. -/
def s0f (n : Node) (l : List (Nat × Byte)) : State := { State.reset with
  mem := l ++ [(0x10051, 1), (0x10052, 1), (0x10058, 1)], clHw := [(0, { tlb := [page1] })]
  ctxs := [(0, { running := true, nodes := [n], nextNode := 2 })] }
theorem test_wit_GraphEvents_evaluate : ((s0f (node0 selD (.evaluating none)) []).ctxAt 0).node? 1 = some (node0 selD (.evaluating none)) ∧
    (∃ s1, (s0f (node0 loopD (.evaluating none)) []).evaluate 0 (node0 loopD (.evaluating none)) = (.expansion [] 1, s1)) ∧
    (∃ s1, (s0f (node0 selD (.evaluating none)) []).evaluate 0 (node0 selD (.evaluating none)) = (.expansion [List.replicate 192 0] 1, s1)) ∧
    (∃ s1, (s0f (node0 badD (.evaluating none)) []).evaluate 0 (node0 badD (.evaluating none)) = (.fail 3, s1)) ∧
    (∃ s1, ({ s0f (node0 selD (.evaluating none)) [] with clHw := [] } : State).evaluate 0 (node0 selD (.evaluating none)) = (.wait 1, s1)) ∧
    (∃ s1, (s0f (node0 casD (.evaluating none)) [(0x10000, 1)]).graphRead 0 (node0 casD (.evaluating none)) (dWord casD) 8 =
      (.bytes [1, 0, 0, 0, 0, 0, 0, 0], s1)) ∧
    ofBytesLE [1, 0, 0, 0, 0, 0, 0, 0] ≠ 0 ∧ dKind selD = 1 ∧ dKind loopD = 2 ∧ dMaxit loopD ≠ 0 ∧ dMaxit loopD ≤ dIter loopD ∧ dKind casD = 3 :=
  ⟨by decide +kernel, pair_of (by decide +kernel), pair_of (by decide +kernel), pair_of (by decide +kernel), pair_of (by decide +kernel),
    pair_of (by decide +kernel), by decide +kernel, by decide +kernel, by decide +kernel, by decide +kernel, by decide +kernel, by decide +kernel⟩

/-- A worker in service, with a ready node on level 0, or one that it runs. -/
def s0j (st : NodeState) : State := { State.reset with ctxs := [(0, {
  running := true, nodes := [node0 (List.replicate 192 0) st], nextNode := 2, quota := 1
  levels := (Vector.replicate 4 []).set 0 [1]
  workers := (Vector.replicate 256 {}).set 0 { entry := 0x11080000000, out := 1 } })] }
theorem test_wit_GraphEvents : ((s0j .waiting).ctxAt 0).quota ≤ ((s0j .waiting).ctxAt 0).nodes.length ∧ (s0.ctxAt 0).nodes.length < (s0.ctxAt 0).quota ∧
    (∃ s : State, s.actAt sid0 = some (waiting (.gsub (.g 3))) ∧ s.seams = []) ∧
    (((s0j (.expanded [[0]] 1 1)).ctxAt 0).node? 1).isSome = true ∧
    ((s0f (node0 [] (.expanded [[0]] 1 1)) []).ctxAt 0).nodes.length < ((s0f (node0 [] (.expanded [[0]] 1 1)) []).ctxAt 0).quota ∧
    ((s0j (.ready 0 2 0)).ctxAt 0).node? 1 = some (node0 (List.replicate 192 0) (.ready 0 2 0)) ∧ 2 < 3 ∧
    (s0j (.ready 0 0 0)).graphStopped 0 = false ∧ State.reset.graphStopped 0 = true ∧
    ((s0j (.running 0 0 0)).ctxAt 0).node? 1 = some (node0 (List.replicate 192 0) (.running 0 0 0)) ∧
    ((s0j (.running 0 0 0)).ctxAt 0).workers[(0 : BitVec 8).toNat]? = some { entry := 0x11080000000, out := 1 } ∧
    ((s0j (.running 0 0 0)).ctxAt 0).levels[0]? = some [1] :=
  ⟨by decide +kernel, by decide +kernel, ⟨withAct (waiting (.gsub (.g 3))), rfl, rfl⟩, by decide +kernel, by decide +kernel,
    by decide +kernel, by decide, by decide +kernel, by decide +kernel, by decide +kernel, by decide +kernel, by decide +kernel⟩
/-- Its second place is free. -/
def s0i : State := { s0j (.ready 0 0 0) with ctxs := (s0j (.ready 0 0 0)).ctxs.map fun x => (x.1, { x.2 with workers := x.2.workers.map fun w => { w with out := 0 } }) }
theorem test_wit_GraphEvents_dispatch : s0i.graphStopped 0 = false ∧ s0i.chooseNode 0 = some (node0 (List.replicate 192 0) (.ready 0 0 0), 0) := by
  constructor <;> decide +kernel

/-! ## Witnesses: package, fabric -/

def img1 : Image := { version := 2, svn := 0, length := 64, signed := true, takes := 1 }
def both : State := { State.reset with slotB := some img1 }
theorem test_wit_Package : State.reset.power = .inReset ∧ State.reset.bootChoice = some false ∧ both.bootChoice = some true ∧
    ({ State.reset with slotA := none } : State).bootChoice = none ∧ img1.signed = true ∧ both.svn.toNat ≤ img1.svn.toNat ∧
    imageReset.version.toNat < img1.version.toNat ∧ (∃ s : State, s.power = .asleep) ∧ (∃ s : State, s.power = .booted ∧ s.update = none) ∧
    (∃ s : State, s.power = .booted ∧ s.update = some upd0 ∧ s.reft ≤ upd0.due ∧ upd0.hand.fits upd0.img = true) ∧
    (∃ s : State, s.update = some upd0 ∧ upd0.due < s.reft) ∧ upd0.hand.fits { img1 with takes := 2 } = false ∧
    ({ img1 with signed := false } : Image).signed = false ∧ (∃ s : State, s.beat = true ∧ s.slotA = some imageReset ∧ s.bootB = false) ∧
    State.reset.beat = false ∧ State.reset.clock = 940000 ∧ (∃ s : State, s.clock = 470000) ∧ State.reset.actAt sid0 = none :=
  ⟨rfl, by decide, by decide, by decide, rfl, by decide, by decide, ⟨{ State.reset with power := .asleep }, rfl⟩,
    ⟨{ State.reset with power := .booted }, rfl, rfl⟩, ⟨{ State.reset with power := .booted, update := some upd0 }, rfl, rfl, by decide, by decide⟩,
    ⟨{ State.reset with update := some upd0, reft := 6 }, rfl, by decide⟩, by decide, rfl,
    ⟨{ State.reset with beat := true }, rfl, rfl, rfl⟩, rfl, rfl, ⟨{ State.reset with clock := 470000 }, rfl⟩, rfl⟩
def sidS : SlotId := { ctx := 0, core := 2048, slot := 0 }
theorem test_wit_Package_seam : ∃ (s : State) (x : Seam) (a : Act), s.seams.find? (fun y => y.primary == sid0) = some x ∧ s.actAt sid0 = some a ∧
    x.hp = some (5, true, 1) ∧ x.hs = some (6, true, 1) ∧ a.retryable = true ∧ a.msg.seam = false ∧ (6 : Word) ≠ 5 :=
  ⟨{ s0 with seams := [{ primary := sid0, secondary := sidS, hp := some (5, true, 1), hs := some (6, true, 1) }] }, _, _, rfl, rfl, rfl, rfl,
    rfl, rfl, by decide⟩

/-- A message request of no data on port 15, which the context may use, and one that is too short. -/
def req0 : Msg := { dst := 0x80041E3C, cls := 0, src := 0x80000000, payload := List.replicate 16 0 }
def sentF : Frame := { sfid := 0, saad := 0, job := 0, mode := 0, kind := 0, daad := 0x80000000, tag := 0, cls := 0, data := [] }
def s0u (l : List Sent) : State := { s0 with
  power := .booted, cycle := 100, ctxs := [(0, { running := true, grant := 0x8000 })]
  ports := (Vector.replicate 16 {}).set 15 { ctx := some 0, job := 0, sent := l } }
theorem test_wit_Fabric : ((s0u []).port 15).reqs = [] ∧ req0.cls ≠ 15 ∧ ((s0u []).ctxAt 0).grant.getLsbD 15 = true ∧ requestOk req0.payload = true ∧
    fieldLE req0.payload 2 1 ≠ 1 ∧ req0.node = none ∧ req0.src.msb = true ∧ requestOk (List.replicate 15 0) = false ∧ (s0.ctxAt 0).grant.getLsbD 15 = false ∧
    (∃ s : State, s.power = .asleep) ∧ (s0u []).power ≠ .asleep ∧ sentF.kind = 0 ∧ sentF.mode.toNat ≤ 2 ∧ ((s0u []).port 15).ctx = some 0 ∧
    sentF.job = ((s0u []).port 15).job ∧ aadOk (sentF.daad.setWidth 64) = true ∧ ((s0u []).ctxAt 0).mayReach (nodeOf (aadCore sentF.daad)) = true ∧
    ((s0u []).port 3).ctx = none ∧
    ((s0u [{ dfid := 5, f := sentF, tries := 7, due := 100 }]).port 15).sent = [{ dfid := 5, f := sentF, tries := 7, due := 100 }] ∧
    100 ≤ (s0u []).cycle ∧ 7 < 8 ∧ ((s0u [{ dfid := 5, f := sentF, tries := 8, due := 100 }]).port 15).sent = [{ dfid := 5, f := sentF, tries := 8, due := 100 }] ∧
    8 ≤ 8 ∧ ∀ y ∈ ((s0u []).port 15).sent, y.dfid = 5 → (s0u []).cycle < y.due :=
  ⟨rfl, by decide, by decide, by decide, by decide, rfl, rfl, by decide, by decide, ⟨{ State.reset with power := .asleep }, rfl⟩, by decide, rfl,
    by decide, rfl, rfl, by decide, by decide, rfl, rfl, by decide, by decide, rfl, by decide, nofun⟩

/-- Frame 1 of a flow, after frame 0 and before it; frame 0 after it; an acknowledgement. -/
def sOrd : State := { s0u [] with ports := (Vector.replicate 16 {}).set 15 { ctx := some 0, taken := [((0, 0, 0, 0x80000000, 0), { next := 1 })] } }
theorem test_wit_Fabric_order : ((sOrd.port 15).early { sentF with no := { n := 1 } } = false ∧ (sOrd.port 15).duplicate { sentF with no := { n := 1 } } = false) ∧
    ((s0u []).port 15).early { sentF with no := { n := 1 } } = true ∧ (sOrd.port 15).duplicate sentF = true ∧
    ((s0u []).port 15).early sentF = false ∧ ((s0u []).port 15).duplicate sentF = false ∧ ((s0u []).port 3).early sentF = false ∧
    (sOrd.port 15).ctx = some 0 ∧ sentF.job = (sOrd.port 15).job ∧ (sOrd.ctxAt 0).mayReach (nodeOf (aadCore sentF.daad)) = true ∧
    ({ sentF with kind := 0xF0 } : Frame).kind = 0xF0 := by
  refine ⟨⟨?_, ?_⟩, ?_, ?_, ?_, ?_, ?_, ?_, ?_, ?_, ?_⟩ <;> decide +kernel

/-! ## Witnesses: the step, encodings, memory -/

/-- The state in which the first step runs ADD g5, g6, #-100. -/
def s0p1 : State := State.reset.withFetchWord 96 0x10700005006E0003FFFFFF9C
theorem test_wit_StepRunsDecoded_event : ({ State.reset with agenda := [(0, .svnRaise)] } : State).agenda = [(0, .svnRaise)] ∧ 0 ≤ State.reset.cycle ∧
    State.reset.nextCandidate = none ∧ ∀ d i l, State.reset.agenda = (d, i) :: l → State.reset.cycle < d :=
  ⟨rfl, Nat.le_refl _, by decide +kernel, fun d i l h => absurd h (List.cons_ne_nil (d, i) l).symm⟩
def pcP : Word := 0x2000000000
def actP : Act := { Act.blank with main := { pc := pcP, fromDom := 0, arrival := .handler }, budget := 32768 }
theorem test_wit_StepRunsDecoded_word : s0p1.agenda = [] ∧ s0p1.nextCandidate = some (placedSlot, .main) ∧
    (s0p1.fetch 1 0 0 .handler 0 pcP none none).1 = .word 0 0x10700005006E0003FFFFFF9C ∧ s0p1.breakpointAt 1 1 .main pcP = none := by
  refine ⟨rfl, ?_, ?_, ?_⟩ <;> decide +kernel
theorem test_wit_StepRunsDecoded_act : s0p1.actAt placedSlot = some actP ∧ actP.main.skipBp = false ∧ actP.main.answer = none := ⟨rfl, rfl, rfl⟩
theorem test_wit_StepRunsDecoded_fetch : pcP.toNat % 128 < 120 ∧ pcP.toNat % 128 % 12 = 0 ∧ pcP.toNat < 2 ^ 55 ∧
    s0p1.xlatOr none 1 0 pcP.toNat = some { ctx := 1, bits := 16, vpage := placedPage, ppage := 0, r := true, w := false, x := true, dom := 0, key := 0 } ∧
    ofBytesLE ((List.range 8).map fun i => s0p1.mem.read (120 + i)) = 0 ∧
    (s0p1.ctxAt 1).entryCause 0 0 .handler 0x10700005006E0003FFFFFF9C = none := by
  refine ⟨?_, ?_, ?_, ?_, ?_, ?_⟩ <;> decide +kernel
theorem test_wit_InstructionBytes : decodeWord 0x10700005006E0003FFFFFF9C = .ok (.add hd .d false (.g 5) (.g 6) (.imm 0xFFFFFF9C)) ∧ 11 < 12 := ⟨rfl, by decide⟩
theorem test_wit_EncodingRoundTrip : (Instr.add hd .d true (.q 3) (.g 31) (.imm 0xFFFFFFFF)).hdr? = some hd ∧
    (Instr.add hd .d true (.q 3) (.g 31) (.imm 0xFFFFFFFF)).wf = true := ⟨rfl, by decide⟩
theorem test_wit_MemoryCanonicalStep : memOk s0p1 ∧ ∃ t, step s0p1 = .next t := by
  refine ⟨(by decide +kernel : s0p1.mem.wf = true), ?_⟩
  have h : (match step s0p1 with | .next _ => true | _ => false) = true := by decide +kernel
  revert h
  cases step s0p1 with
  | next t => exact fun _ => ⟨t, rfl⟩
  | fault f => exact nofun
  | refused f => exact nofun
theorem test_wit_MemorySpaces : memOk s0 ∧ 8191 < 8192 ∧ 511 < 512 ∧ 131071 < 2 ^ 40 ∧ clmKey 0 8191 131071 = clmKey 0 8191 131071 := ⟨rfl, by decide, by decide, by decide, rfl⟩

/-! ## Witnesses of single clauses -/

/-- VectorMemory, the lane clauses: lane 0 in the core's own CLM; no lane. -/
theorem test_wit_VectorMemory_bytes : s0m.act.boundTo 4 = none ∧ s0m.act.checks = [] ∧ s0m.poison = [] ∧
    (∀ j b, j < 16 → (s0m.act.getK 1).getLsbD j = true → b < 4 → clm0.toNat + 4 ≤ 2 ^ 64 ∧ 2 ^ 55 ≤ clm0.toNat ∧ clm0.toNat + 4 ≤ 2 ^ 56 ∧
      ∀ n, s0m.place s0m.who (clm0.toNat + b) n = .ok (.clm (45056 + b))) ∧ (0 : BitVec 16) = 0 ∧ s0m.act.getK 1 ≠ 0 :=
  ⟨rfl, rfl, rfl, fun _ b _ _ h => ⟨by decide, by decide, by decide, place_clm0 b (by omega)⟩, rfl, by decide⟩
set_option maxRecDepth 40000 in
theorem test_wit_VectorMemory_pairs : ∃ bs u, Gives (roomV (.v 3)) s0m () s0m ∧ Gives (loadM clm0 1056 false) s0m bs s0m ∧
    Gives (writeV (.v 3) vzero) s0m () u := ⟨_, _, rfl, rfl, rfl⟩
theorem test_wit_Atomics_acquire : (∃ t, Gives (atomicM clm0 8 (.acq .die) fun old => (some old, 0)) s0m (0, 0) t) ∧
    45056 % 8 = 0 ∧ Gives (readG (.g 2)) s0m clm0 s0m := ⟨⟨_, rfl⟩, rfl, rfl⟩
theorem test_wit_FencesAndCaches_local : pst.stream = Stream.main ∧ (clm0.toNat, (7 : Byte)) ∈ pst.bytes ∧ 2 ^ 55 ≤ clm0.toNat ∧
    (∀ p ∈ ([] : List PStore), p.stream = s0m.cur.stream → ∀ b ∈ p.bytes, b.1 < 2 ^ 55) := ⟨rfl, by decide, by decide, by simp⟩
/-- A number below FP32's least step, one above its largest finite number, one, two, an infinity and a zero. -/
theorem test_wit_Formats_values : (roundTo .rne false 1 0 (-149) false).1 * 2 ^ (-149 - (binFmt .f32).qmin).toNat
      < 2 ^ (binFmt .f32).fbits * 2 ^ (2 ^ (binFmt .f32).ebits - 2) ∧
    (binFmt .f32).decode 0x3F800000 = .fin false (2 ^ 23) (-23) ∧ (binFmt .f32).decode 0x40000000 = .fin false (2 ^ 23) (-22) ∧
    (binFmt .f32).decode 0x7F800000 = .inf false ∧ (binFmt .f32).decode 0xFF800000 = .inf true ∧
    (binFmt .f32).decode 0 = .fin false 0 (-149) := by decide +kernel
/-- A TB6 block with its pair; a TB4 block whose first scale is the NaN code; a block at its bounds. -/
theorem test_wit_FormatWindows_values : (3 : Nat) < 5 ∧ (List.replicate 26 (1 : Byte)).length = (26 : Nat) ∧
    (List.replicate 64 (1 : Byte)).length = 64 ∧ (List.replicate 16 (1 : Byte) ++ [0xFF, 0]).length = blockBytes 4 + 2 ∧
    (List.replicate 16 (1 : Byte) ++ [0xFF, 0])[blockBytes 4]? = some 0xFF ∧ 255 < 256 ∧ 2 ^ 256 - 1 < 2 ^ (8 * tbBytes .tb8) ∧ 63 < 64 ∧
    31 < 32 := by decide +kernel
/-- A signalling NaN, the least magnitude, minus infinity, two and one and a half, zeros, and a pair of numbers. -/
theorem test_wit_SpecialFunctions_values : fmtF32.decode 0x7F800001 = .nan true ∧ 0 < 1 ∧ 1 ≤ 0x00200040 ∧ 0x80000000 < 0xFF800000 ∧
    fmtF32.decode 0x40000000 = .fin false (2 ^ 23) (-22) ∧ (1 * ((2 ^ 23 : Nat) : Int)) * 2 ^ (-22 : Int).toNat = 2 * 2 ^ (22 : Int).toNat ∧
    2 ^ 23 * 2 ^ (-22 : Int).toNat = 2 * 2 ^ (22 : Int).toNat ∧ fmtF32.decode 0x3FC00000 = .fin false (3 * 2 ^ 22) (-23) ∧
    2 * (3 * 2 ^ 22 * 2 ^ (-23 : Int).toNat) = (2 * 1 + 1) * 2 ^ (23 : Int).toNat ∧ fmtF32.decode 0x7F800000 = .inf false ∧
    fmtF32.decode 0x80000000 = .fin true 0 (-149) ∧ (fmtF32.decode 0x40400000).isNan = false ∧ 0x40400000 < 2 ^ 32 ∧
    0x40000000 ≠ 0x80000000 := by decide +kernel
/-- A vector of 32 lanes at a lane's bounds; a code in range, one above and one below; a square root; lanes in the band. -/
theorem test_wit_Directional_values : (-32768 :: List.replicate 31 (32767 : Int)).length = 32 ∧
    (∀ x ∈ (-32768 :: List.replicate 31 (32767 : Int)), -32768 ≤ x ∧ x ≤ 32767) ∧ sumSq [0] = 0 ∧ sumSq [1] ≠ 0 ∧
    (32767 < normCode (sumSq [1]) 0 40000 1 ∧ normCode (sumSq [1]) 0 (-40000) 1 < -32767 ∧ -32767 ≤ normCode (sumSq [1]) 0 0 1 ∧
      normCode (sumSq [1]) 0 0 1 ≤ 32767) ∧ 0 < 2 ∧ 0 < rneSqrt 3 2 ∧ 4 * 1 = (2 * 0 + 1) * (2 * 0 + 1) * 4 ∧
    sumSq ([(16384 : Int)].map fun x => (if x < 0 then -1 else 1) * (rneSqrt (x.natAbs * x.natAbs * 2 ^ 28) (2 ^ 28) : Int)) = 268435456 := by
  decide +kernel
/-- SEND to the AAD 0 fails with cause 1; SENDL of one byte beyond the workspaces; REPLY of one word to the AAD of HDR1. -/
theorem test_wit_Sends_faults : SendFaults s0s 0 0 8 false 1 ∧ clm0.toNat + ((0 : BitVec 8).toNat + 1) ≤ 2 ^ 64 ∧
    s0m.act.checks = [] ∧ s0m.poison = [] ∧ (s0s.act.hdr1.extractLsb' 0 32).setWidth 64 = (0x80000000 : Word) := by
  refine ⟨?_, by decide, rfl, rfl, by decide⟩
  exact ⟨.inl ⟨rfl, by decide⟩, fun k hk h => by
    obtain rfl : k = 0 := by omega
    simp [SendCause] at h⟩
/-- A queue mailbox takes a bobbin; the combining one turns off; a depth of 0 is refused with cause 1. -/
theorem test_wit_Mailboxes_kinds : ((({ s0 with mbxs := [((0, 0, 1), { kind := .queue, depth := 1 })] } : State).ownBox 1).kind ≠ .unconfigured) ∧
    (s0c.ownBox 1).kind = .combining ∧ mbcfgQCause (s0.ownBox 1) 0 0 = some 1 := ⟨by decide, rfl, by decide⟩
/-- A walk of the granule of g2's page in this cluster, and none. -/
def s0kw : State := { s0k with clHw := [(0, { walks := [{ ctx := 0, granule := 32768, acc := .load }] })] }
theorem test_wit_SystemOthers_walks : WalkInWay s0kw 0 (some 0x80000000) ∧ WalkInWay s0kw 0 none ∧ (0x80000000 : Word).getLsbD 55 = false ∧
    0 ∈ s0kw.tlbClusters .pkg ∧ ¬ WalkInWay s0k s0k.ccl none ∧ (∀ cl ∈ s0k.tlbClusters .pkg, ¬ WalkInWay s0k cl none) ∧ Ready hd s0kw ∧
    s0kw.isPriv = true ∧ Gives (readG (.g 2)) s0kw 0x80000000 s0kw := by
  have hn : ∀ cl va, ¬ WalkInWay s0k cl va := fun cl va ⟨w, hw, _⟩ => by cases hw
  refine ⟨?_, ?_, by decide, by decide, hn _ _, fun cl _ => hn _ _, ⟨_, rfl, rfl⟩, rfl, rfl⟩
  · exact ⟨_, List.mem_cons_self, rfl, rfl, fun a h => by cases h; decide +kernel⟩
  · exact ⟨_, List.mem_cons_self, rfl, rfl, nofun⟩
/-- Two partitions whose quotas take all entries of the unit beside a third; guest memory of one granule; a frame whose submission is
under way. -/
def s0aa : State := { s0 with ctxs := [(0, { svl := 1, guestBase := 4096, guestSize := 65536, frames := (Vector.replicate 16 {}).set 0 ({ stat := 0 } : SubFrame) }),
                                       (1, { svb := 1, svl := 1 }), (2, { svb := 2, svl := 1 })] }
def s0ac : State :=
  { s0 with ctxs := [(0, { frames := (Vector.replicate 16 {}).set 0 ({ desc := ((Vector.replicate 192 0).set 0 2).set 48 1 } : SubFrame) })] }
theorem test_wit_Descriptors_quota : 4096 ≤ s0.quotaRoom 0 (s0.ctxAt 0).die (s0.ctxAt 0).svb ∧
    s0aa.quotaRoom 0 (s0aa.ctxAt 0).die (s0aa.ctxAt 0).svb < 1 := by decide +kernel
theorem test_wit_Descriptors_memory : (∃ c x, s0.ctxs.find? (fun x => x.2.inPart 5 1) = some (c, x)) ∧
    (∀ x ∈ State.reset.ctxs, x.2.inPart 5 1 = false) ∧ (∀ x ∈ State.reset.ctxs, x.2.inPart (2 ^ 39) 1 = false) ∧
    (s0aa.ctxAt 0).guestBase ≤ 4100 ∧ 4100 < (s0aa.ctxAt 0).guestBase + (s0aa.ctxAt 0).guestSize ∧
    (s0aa.ctxAt 0).inPart ((s0aa.ctxAt 0).svb * 2 ^ 30 + (4100 - (s0aa.ctxAt 0).guestBase)) 1 = true ∧ 5 < (s0aa.ctxAt 0).guestBase := by
  refine ⟨some_pair ?_, ?_, ?_, ?_, ?_, ?_, ?_⟩ <;> decide +kernel
theorem test_wit_Descriptors_frames : (∃ w, (s0aa.ctxAt 0).frames[(0 : BitVec 4).toNat]? = some w ∧ w.stat.getLsbD 8 = false) ∧
    (∃ w, (s0.ctxAt 0).frames[(0 : BitVec 4).toNat]? = some w ∧ w.stat.getLsbD 8 = true ∧ s0.submitCause 0 w.desc.toList = some 7) ∧
    (∃ s w, ((s : State).ctxAt 0).frames[(0 : BitVec 4).toNat]? = some w ∧ w.stat.getLsbD 8 = true ∧ s.update = none ∧
      s.submitCause 0 w.desc.toList = none) ∧ (s0.ctxAt 0).counters[15]? = some { event := 0 } :=
  ⟨⟨_, rfl, rfl⟩, ⟨_, rfl, rfl, by decide +kernel⟩, 
    ⟨s0ac, _, rfl, rfl, rfl, by decide +kernel⟩, rfl⟩

/-- A context on the one cluster 0, all of whose cores are stopped, and its sibling. -/
def s0ab : State := { State.reset with ctxs := [(0, { svl := 1, running := true }), (1, { svl := 1 })]
                                       coreCtx := (List.range 8).map fun i => ((0, i), { stopped := true }) }
theorem test_wit_Arrivals_stop : (0x00000000 : BitVec 32).msb = false ∧ s0ab.update = none ∧ (s0ab.ctxAt 0).running = true ∧
    s0ab.allStopped 0 = true ∧ s0ab.noticesComing 0 = false ∧
    (s0ab.modCtx 0 fun x => { x with running := false }).nextContext 0 = some 1 := by
  refine ⟨?_, ?_, ?_, ?_, ?_, ?_⟩ <;> decide +kernel
/-- A mailbox that is recorded; a bobbin on a page that a core's TLB holds, and on one that it does not. -/
theorem test_wit_Arrivals_bobbins : (∃ s : State, (s.mbxAt 0 0 0).ring_ = some (0, 8) ∧ 8 ≤ 8 ∧ msg3.cls ≠ 15) ∧
    ({ msg3 with cls := 15 } : Msg).cls = 15 ∧ (∃ g, s0r.bobbinGap 0 0 bob0 1 = some g) ∧
    (∃ s : State, s.bobbinHead 0 0 0 = some (bob0, 0) ∧ s.bobbinGap 0 0 bob0 1 = none ∧ s.stoppedAt 0 0 = false ∧
      (s.mbxAt 0 0 0).used + msgFlits ((s.bobbinMsg 0 0 bob0 0).1).m ≤ (s.mbxAt 0 0 0).depth) :=
  ⟨⟨{ s0 with mbxs := [((0, 0, 0), { ring_ := some (0, 8) })] }, rfl, by decide, by decide⟩, rfl, ⟨1, by decide +kernel⟩,
    ⟨{ s0r with coreHw := [(0, { tlb := [page1] })] }, by decide +kernel, by decide +kernel, rfl, by decide +kernel⟩⟩
/-- A global store that waits for release into a stash over block 0 of the tile store, which a command entered before it is to read. -/
def out0 : OutEntry := .store 0 [(0x10000, 7)] (some [(0x10000, 7)]) false none 24
def actH : Act := { Act.blank with outb := [out0], stamps := [(0, 5, 0)] }
def s0ad : State := { withAct actH with
  clCtx := [((0, 0), { stash := some { base := 0x10000, size := 4096, tile := 0, lines := [] } })]
  coreCtx := [((0, 0), { tile := [{ tcmd with ranges := [(0, 127)] }] })] }
theorem test_wit_ReleasesAndKills_held : s0ad.actAt sid0 = some actH ∧ out0 ∈ actH.outb ∧ s0ad.entryHeld sid0 actH out0 = true ∧
    (withAct actH).entryHeld sid0 actH out0 = false ∧ ([out0] : List OutEntry) ≠ [] ∧ s0ad.mate 0 0 = none := by
  refine ⟨?_, ?_, ?_, ?_, ?_, ?_⟩ <;> decide +kernel
/-- The copy of a line in a cluster cache. -/
def line5 : CLine := { ctx := 0, line := 5, data := Vector.replicate 128 0, dirty := 0, fill := 0, key := 0, poison := 0, scales := none }
def s0af : State := { s0 with clHw := [(0, { lines := [line5] })] }
theorem test_wit_ReleasesAndKills_lines : memOk s0 ∧ s0.stashOf 0 0 0x10000 = none ∧ s0.stashHolder 0 5 = none ∧ s0.lineAt 0 5 = none ∧
    s0af.stashHolder 0 5 = none ∧ s0af.lineAt 0 5 = some line5 := by
  refine ⟨rfl, ?_, ?_, ?_, ?_, ?_⟩ <;> decide +kernel
/-- A store of one byte just beyond the CLM. -/
def pstF : PStore := { pst with addr := 0x80000000020000, bytes := [(2 ^ 55 + 131072, 7)] }
def s0ae : State := withAct { Act.blank with checks := [pstF] }
theorem test_wit_ReleasesAndKills_fails : s0ae.actAt sid0 = some { Act.blank with checks := [pstF] } ∧ pstF.held = false ∧
    pstF.kind = .plain false none ∧ 2 ^ 55 ≤ (2 ^ 55 + 131072, (7 : Byte)).1 ∧
    s0ae.place { sid := sid0, own := true, dom := pstF.dom, windows := pstF.windows, win := none } (2 ^ 55 + 131072) .write = .error (.cause 4) ∧
    Act.blank.main.wait = .ready ∧ Act.blank.acc.wait = .ready ∧ (s0ae.ctxAt 0).supv ≠ 0 ∧ s0ae.ownsSupv 0 0 0 = false := by
  refine ⟨rfl, rfl, rfl, by decide +kernel, ?_, rfl, rfl, by decide +kernel, by decide +kernel⟩
  show s0ae.place _ 36028797019095040 _ = _; rfl
/-- A CKPT of a CLM with a chunk under way; a context of one cluster, not running, and its sibling that runs. -/
def ckcmd : EngCmd := { ecmd with x := 512, ckpt := some (false, [0, 1]) }
def s0ag : State := { s0 with coreCtx := [((0, 0), { copyQ := [ckcmd] })], agenda := [(9, .engineChunk 0 0 false)] }
theorem test_wit_Contexts_cut : headCmd (s0ag.coreAt 0 0).copyQ = some ckcmd ∧ ckcmd.ckpt = some (false, [0, 1]) ∧
    (9, Instr.engineChunk 0 0 false) ∈ s0ag.agenda ∧ s0ag.stepOn 0 0 = false ∧ ∀ k ∈ s0ag.acts, ∀ p ∈ k.2.checks, p.held = false := by
  refine ⟨?_, ?_, List.mem_cons_self, ?_, ?_⟩ <;> decide +kernel
def s0ah : State := { State.reset with ctxs := [(0, { svl := 1 }), (1, { svb := 1, svl := 1, running := true })] }
theorem test_wit_Contexts_sizes : s0ah.siblings 1 = [1] ∧ (s0ah.ctxAt 1).running = true ∧ s0ah.siblings 0 = [0] ∧ (s0ah.ctxAt 0).running = false ∧
    (s0ah.ctxAt 0).lockstitch = false ∧ s0ah.partitionOk [0] 0 1 = true ∧
    (∀ r ∈ s0ah.namedPieces [0] 0 (2 ^ 30), r.at_ + r.size ≤ 2 ^ 30) ∧ s0ah.quotaRoom 2 1 300 ≠ 0 ∧ s0ah.partitionOk [2] 300 1 = true ∧
    s0aa.quotaRoom 0 0 0 = 0 ∧ s0ah.resizable 0 2 1 = true ∧ (s0ah.resized 0 2 1).isSome = true := by
  refine ⟨?_, ?_, ?_, ?_, ?_, ?_, ?_, ?_, ?_, ?_, ?_, ?_⟩ <;> decide +kernel
/-- A section of two bytes, in a state whose slices hold nothing. -/
theorem test_wit_Contexts_section : ([1, 2] : List Byte)[1]? = some 2 ∧ memOk s0 ∧ ∀ k ∈ s0.clHw, k.2.slice = [] := ⟨rfl, rfl, nofun⟩

/-- A walk under way, two of them, and 256 entries of the fault queue. -/
def s0ai : State := { s0l with clHw := [(0, { walks := [{ ctx := 0, granule := 1, acc := .load, begun := true },
  { ctx := 0, granule := 2, acc := .load, begun := true }] })] }
theorem test_wit_Walks_begun : (∃ w ∈ (s0ai.clHwAt 0).walks, w.ctx = 0 ∧ w.granule = (0x10000 : Word).toNat / 65536 ∧ w.begun = true ∧ w.seq = none) ∧
    (∃ e s1, s0ai.walkTable 0 ((0x10000 : Word).toNat / 65536 * 65536) = (.leaf e, s1)) ∧
    2 ≤ ((s0ai.clHwAt 0).walks.filter fun w => w.begun && w.seq.isNone).length ∧ (∀ w ∈ (s0ai.clHwAt 0).walks, w.ctx = 0 → w.granule ≠ 3) ∧
    (s0.clHwAt 0).walks = [] ∧ 511 < 512 ∧ (∃ s : State, ∃ y ∈ (s.clHwAt 0).slice, y.line = 5 ∧ y.valid.getLsbD (sectorOf 640) = true) ∧
    (∀ w ∈ (s0l.clHwAt 0).walks, w.ctx = 0 → w.granule = (0x10000 : Word).toNat / 65536 → w.begun = false ∨ w.seq ≠ none) ∧
    (∃ s1, ({ s0ai with mem := [] } : State).walkTable 0 ((0x10000 : Word).toNat / 65536 * 65536) = (.bad 0 3 0, s1)) ∧
    256 ≤ (({ s0 with ctxs := [(0, { fqOut := List.replicate 256 { seq := 3, granule := 1, kind := 0, cluster := 0 } })] } : State).ctxAt 0).fqOut.length :=
  ⟨⟨_, List.mem_cons_self, rfl, by decide, rfl, rfl⟩,
    ⟨{ ctx := 0, bits := 30, vpage := 0, ppage := 0, r := true, w := true, x := true, dom := 0, key := 0 }, pair_of (by decide +kernel)⟩,
    by decide +kernel, by decide +kernel, rfl, by decide,
    ⟨{ s0 with clHw := [(0, { slice := [sl7] })] }, sl7, List.mem_cons_self, rfl, by decide⟩, by decide +kernel, pair_of (by decide +kernel),
    by decide +kernel⟩
/-- A chunk of one byte; swatches of each element width, and a block format; an accumulator's last element. -/
theorem test_wit_Units_chunk : ecmd.held = false ∧ ecmd.cut = none ∧
    ∃ b e2 s2, State.moveBytes 0 0 (min 4096 (ecmd.total - ecmd.pos)) s0v ecmd = (.byte b, e2, s2) ∧ (s2.coreAt 0 0).stop = none :=
  ⟨rfl, rfl, 0, _, _, Prod.ext (by decide +kernel) (Prod.ext rfl rfl), by decide +kernel⟩
def sw6 (fmt : BitVec 3) : Swatch := { base := 0, fmt, pitch := 256, sbase := 65536, spitch := 4 }
theorem test_wit_Units_tiles : 63 < 64 ∧ 0 < 64 - 0 ∧ (sw6 2).fmt ≤ 5 ∧ (sw6 2).fmt = 2 ∧ 64 * 4 ≤ (sw6 2).pitch ∧ memOk s0 ∧
    ((s0.coreAt 0 0).accum true)[64 * 63 + 63]? = some 0 ∧ (∃ f, swTb (sw6 3).fmt = some f) ∧ 0 % 32 = 0 ∧
    (∃ v, (s0.tileLine 0 0 (sw6 0) 63 0 64)[63]? = some v) ∧
    (∀ r ∈ (sw6 2).regions 64, 5 < tileKey 0 0 r.1 ∨ tileKey 0 0 r.2 < 5) := by
  refine ⟨by decide, by decide, by decide, rfl, by decide, rfl, by decide +kernel, ⟨_, rfl⟩, rfl,
    ⟨_, List.getElem?_eq_getElem (by decide +kernel)⟩, by decide +kernel⟩
theorem test_wit_GraphEvents_pool : (s0j .waiting).poolFull 0 = true ∧ s0.poolFull 0 = false ∧ (0 : BitVec 32).msb = false ∧
    (s0f (node0 [] (.expanded [[0]] 1 1)) []).poolFull 0 = false := by decide +kernel
theorem test_wit_MeshCachesRails_slices : (∃ s : State, (s.clHwAt 0).slice = [sl7]) ∧ sl7.dirty.getLsbD 2 = true ∧ sl7.way = 7 ∧ sl7.under = [] :=
  ⟨⟨{ s0 with clHw := [(0, { slice := [sl7] })] }, rfl⟩, rfl, rfl, rfl⟩
/-- A put of one byte: from the sender's CLM, from a page that nothing translates, and from an address beyond all spaces. -/
def reqP (l : List (Nat × Byte)) : Msg := { req0 with payload := bytesAt ([(2, 1), (32, 1)] ++ l) 40 }
def putOf (l : List (Nat × Byte)) : EngGot × PortReq × State :=
  let r : PortReq := { q := 0, ctx := 0, m := reqP l }
  State.readPut 4216 1 ((s0u []).modPort 15 fun x => { x with reqs := [r] }) r
def reqL : List (Nat × Byte) := [(17, 0xB0), (22, 0x80)]
theorem test_wit_Fabric_puts : requestOk (reqP reqL).payload = true ∧ fieldLE (reqP reqL).payload 2 1 = 1 ∧ fieldLE (reqP reqL).payload 32 4 = 1 ∧
    (∃ b r2 s2, putOf reqL = (.byte b, r2, s2)) ∧ (∃ g r2 s2, putOf [(18, 1)] = (.wait g, r2, s2)) ∧
    ∃ a cause r2 s2, putOf [(23, 1)] = (.fault a cause, r2, s2) :=
  ⟨by decide +kernel, by decide +kernel, by decide +kernel, ⟨0, _, _, Prod.ext (by decide +kernel) rfl⟩,
    ⟨1, _, _, Prod.ext (by decide +kernel) rfl⟩, 2 ^ 56, 5, _, _, Prod.ext (by decide +kernel) rfl⟩
/-- Frames of kinds 2, 1, 0x04, 0xF4, of mode 3, of 4,097 bytes; one trimmed; an answer to the frame sent. -/
theorem test_wit_Fabric_kinds : ({ sentF with kind := 2 } : Frame).kind = 2 ∧ ({ sentF with kind := 1 } : Frame).kind = 1 ∧
    sentF.trimmed = false ∧ sentF.data.length ≤ 4096 ∧ ({ sentF with trimmed := true } : Frame).trimmed = true ∧
    (2 < (4 : BitVec 8).toNat ∧ (4 : BitVec 8).toNat < 0xF0) ∧ 0xF3 < (0xF4 : BitVec 8).toNat ∧ 2 < (3 : BitVec 8).toNat ∧
    4096 < (List.replicate 4097 (0 : Byte)).length ∧ 15 < 16 ∧ 4096 * 1 < (List.replicate 4097 (0 : Byte)).length ∧
    [({ dfid := 0, f := sentF, tries := 0, due := 0 } : Sent)].find? (frameAnswers { sentF with kind := 0xF3, saad := 0x80000000 }) =
      some { dfid := 0, f := sentF, tries := 0, due := 0 } := by
  refine ⟨rfl, rfl, rfl, by decide, rfl, by decide, by decide, by decide, ?_, by decide, ?_, ?_⟩ <;> decide +kernel
theorem test_wit_Fabric_pages : (∃ g, (s0u []).putPages 0 4216 0x10000 1 = some g) ∧
    ({ s0u [] with coreHw := [(4216, { tlb := [page1] })] } : State).putPages 0 4216 0x10000 1 = none :=
  ⟨⟨1, by decide +kernel⟩, by decide +kernel⟩
theorem test_wit_RegisterFrames_others : (∃ t, exec (.fcmp hd .eq .f32 2 (.g 2) (.imm 0)) s0 = .next t) ∧ (∃ t, exec (.pmov hd (.pp 2 3)) s0 = .next t) ∧
    (∃ t, exec (.kmov hd (.kk 2 3)) s0 = .next t) ∧ (∃ t, exec (.vsel hd 1 (.v 1) (.v 2) (.vec (.v 3))) s0 = .next t) ∧
    (∃ t, exec (.vcmp hd (.flt .eq) 0 2 (.v 1) (.vec (.v 2))) s0 = .next t) ∧ ∀ i, s0.act.boundTo i = none :=
  ⟨⟨_, rfl⟩, ⟨_, rfl⟩, ⟨_, rfl⟩, ⟨_, rfl⟩, ⟨_, rfl⟩, by decide +kernel⟩
/-- A module in reset with an event, and one that holds a word fetched before; a line of a level-zero cache. -/
theorem test_wit_StepRunsDecoded_cached : State.reset.power ≠ .booted ∧ actsOff .svnRaise = false ∧ actsOff .boot = true ∧ s0p1.power = .booted ∧
    ({ actP with main := { actP.main with fetched := some (0, 5) } } : Act).main.fetched = some (0, 5) ∧
    ({ actP with main := { actP.main with answer := some 5 } } : Act).main.answer.isSome = true ∧
    icTouch [({ line := 7, data := List.replicate 128 0 } : ILine)] 7 = some { line := 7, data := List.replicate 128 0 } ∧
    fieldLE (List.replicate 128 0) 120 8 = 0 ∧ icTouch (s0p1.hwAt 0).icache 0 = none ∧ icTouch (s0p1.clHwAt 0).icache 0 = none ∧
    (∀ y ∈ (s0p1.clHwAt 0).slice, y.under = []) ∧ s0p1.sectorKeys = [] := by
  refine ⟨?_, rfl, rfl, rfl, rfl, rfl, ?_, ?_, ?_, ?_, ?_, ?_⟩ <;> decide +kernel

/-! ## Witnesses: clauses on parks, frames and waits -/

theorem test_wit_RegisterFrames_dests : registerDests (.fadd hd .f32 .rne (.g 1) (.g 2) (.imm 0)) = some (hd, { g := [.g 1] }) ∧
    (∃ t, exec (.fadd hd .f32 .rne (.g 1) (.g 2) (.imm 0)) s0 = .next t) ∧
    loadDests (.ld hd .b false true (.g 3) memF2) = some (hd, { g := [.g 3] }) ∧
    (∃ t, exec (.ld hd .b false true (.g 3) memF2) s0m = .next t) ∧
    (∃ bs t, Gives (loadM clm0 4 true) s0m bs t) ∧ (∀ i, i < 4 → 2 ^ 55 ≤ (clm0 + BitVec.ofNat 64 i).toNat) ∧
    (∃ t, Gives (storeM (.plain true none) clm0 (storeBytes clm0 [7]) true) s0m () t) ∧
    (∀ p ∈ storeBytes clm0 [7], s0m.directPlace p.1 = none) ∧ s0m.act.outUsed + storeSize true 1 ≤ 4096 ∧
    cacheHdr (.fence hd .ld .die) = some hd ∧ ∃ t, exec (.fence hd .ld .die) s0 = .next t :=
  ⟨rfl, ⟨_, rfl⟩, rfl, ⟨_, rfl⟩, ⟨_, _, rfl⟩, by decide, ⟨_, rfl⟩, by decide +kernel, by decide +kernel, rfl, _, rfl⟩

/-- An activation whose g2 holds an address. -/
def sAt (x : Word) : State := withAct { Act.blank with g := Act.blank.g.set 2 x }
/-- Beyond the CLM; on a page without a translation, refused and not. -/
theorem test_wit_Traps_loads : Gives (memAddr memF2) (sAt 0x80000000020000) 0x80000000020000 (sAt 0x80000000020000) ∧
    Gives (roomG (.g 4)) (sAt 0x80000000020000) () (sAt 0x80000000020000) ∧ 
    (sAt 0x80000000020000).place (sAt 0x80000000020000).who (0x80000000020000 : Word).toNat .read = .error (.cause 4) ∧
    (sAt 0x10000).place (sAt 0x10000).who (0x10000 : Word).toNat .read = .error (.walk 1) ∧
    ((sAt 0x10000).act.str (sAt 0x10000).cur.stream).refused ≠ some 1 ∧
    ∃ s : State, s.place s.who (0x10000 : Word).toNat .read = .error (.walk 1) ∧ (s.act.str s.cur.stream).refused = some 1 :=
  ⟨rfl, rfl, (by show State.place _ _ 36028797019095040 _ = _; rfl), rfl, by decide +kernel, withAct { Act.blank with main := { pc := 0, fromDom := 0, arrival := .handler, refused := some 1 } }, rfl, rfl⟩
/-- Window 0 of `s0g` of another format, or none. -/
def s0gf (fmt : Word) : State := { s0g with ctxs := [(0, { running := true, fwin := (Vector.replicate 16 (0, 0, 0, 0)).set 0 (0x10001 + 2 * fmt, 0x11000, 0, 0) })] }
def s0gn : State := { s0g with ctxs := [(0, { running := true })] }
set_option maxRecDepth 20000 in
theorem test_wit_Traps_vldf : (2 ^ 55 ≤ clm0.toNat ∧ clm0.toNat < 2 ^ 56 ∧ Gives (readG (.g 2)) s0m clm0 s0m ∧ Gives (roomV (.v 3)) s0m () s0m) ∧
    s0gn.place s0gn.who (0x10000 : Word).toNat .read = .ok (.glob 0x10000 page1) ∧ (s0gn.ctxAt s0gn.cctx).fwinAt 0x10000 = none ∧
    (s0gf 4).place (s0gf 4).who (0x10004 : Word).toNat .read = .ok (.glob 0x10004 page1) ∧
    ((s0gf 4).ctxAt (s0gf 4).cctx).fwinAt 0x10004 = some { fmt := 4, base := 0x10000, fin := 0x11000, sbase := 0 } ∧
    (0x10004 - 0x10000) % blockBytes 4 ≠ 0 ∧ (∃ l, Gives (placesM 0x10004 (blockBytes 4) .read) (s0gf 4) l (s0gf 4)) ∧
    ((s0gf 5).ctxAt (s0gf 5).cctx).fwinAt 0x10004 = some { fmt := 5, base := 0x10000, fin := 0x11000, sbase := 0 } ∧
    ∃ l, Gives (placesM 0x10004 (blockBytes 5) .read) (s0gf 5) l (s0gf 5) :=
  ⟨⟨by decide, by decide, rfl, rfl⟩, rfl, by decide +kernel, rfl, by decide +kernel, by decide, ⟨_, rfl⟩,
    by decide +kernel, _, rfl⟩

/-- No swatch, a mask, one that runs beyond the tile store, two of unlike formats, a K that is too small, a swatch over itself. -/
def s0wb : State := { s0 with coreCtx := [((0, 0), { sw := ((Vector.replicate 16 none).set 0 (some (sw0 7 0))).set 1 (some (sw0 0 0x5FFF80)) })] }
theorem test_wit_TileCommands_parks : Ready hd s0wb ∧ (∀ x, ¬HasSwatch s0wb 9 x) ∧ HasSwatch s0wb 0 (sw0 7 0) ∧ (sw0 7 0).fmt = 7 ∧
    HasSwatch s0wb 1 (sw0 0 0x5FFF80) ∧ ¬InTile ((sw0 0 0x5FFF80).regions 64) ∧ HasSwatch s0w 0 (sw0 3 0) ∧ (sw0 3 0).fmt ≠ (sw0 0 0).fmt ∧
    (sw0 0 0).fmt = (sw0 0 0x10000).fmt ∧ (sw0 0 0).fmt.toNat ≤ 1 ∧ (0 : BitVec 17).toNat < 32 ∧
    InTile ((sw0 0 0).regions 64 ++ (sw0 0 0).regions 64) ∧ (∃ r ∈ (sw0 0 0).regions 64, ∃ q ∈ (sw0 0 0).regions 64, r.1 ≤ q.2 ∧ q.1 ≤ r.2) ∧
    Gives (readG (.g 2)) (sAt 0x8000000000000000) 0x8000000000000000 (sAt 0x8000000000000000) ∧ swatchOf 0x8000000000000000 0 = none :=
  ⟨⟨_, rfl, rfl⟩, (fun x h => by cases h), rfl, rfl, rfl, by unfold InTile; decide, rfl, by decide, rfl, by decide, by decide,
    by unfold InTile; decide, ⟨_, List.mem_cons_self, _, List.mem_cons_self, by decide, by decide⟩, rfl, by decide⟩

/-- A descriptor at a global address; one of length 0. -/
theorem test_wit_EngineCommands_parks : Ready hd (sAt 0x10000) ∧ (sAt 0x10000).descPlace (0x10000 : Word).toNat 64 = false ∧
    Gives (readG (.g 2)) (sAt 0x10000) 0x10000 (sAt 0x10000) ∧ Gives (roomG (.g 3)) (sAt 0x10000) () (sAt 0x10000) ∧
    (sAt 0x10000).descPlace (0x10000 : Word).toNat 192 = false ∧
    (s0d []).descPlace clm0.toNat 64 = true ∧ (∃ d s2, Gives (loadM clm0 64 false) (s0d []) d s2 ∧ (copyCause d none == some 2) = true ∧
      (gatherCause d true == some 2) = true) ∧ fieldLE (List.replicate 64 0) 16 4 < 1 := by
  refine ⟨⟨_, rfl, rfl⟩, by decide +kernel, rfl, rfl, by decide +kernel, by decide +kernel, ?_, by decide⟩
  obtain ⟨d, s2, s3, h1, h2, _⟩ := load_then (m := loadM clm0 64 false) (p := fun d _ => copyCause d none == some 2 && gatherCause d true == some 2)
    (k := fun _ => pure ()) (s := s0d []) (by decide +kernel)
  exact ⟨d, s2, h1, (Bool.and_eq_true_iff.mp h2)⟩

theorem test_wit_Synchronisation_parks : Ready hd s0b ∧ Gives (readG (.g 2)) s0b 0 s0b ∧
    (s0b.clAt s0b.cctx s0b.ccl).barriers[(0 : BitVec 2).toNat]? = some (Barrier.mk 0 [] []) ∧ (0 : Word).toNat < 1 ∧
    (Gives (readG (.g 2)) (sAt 0x40) 0x40 (sAt 0x40) ∧ (0x40 : Word).toNat % 128 ≠ 0 ∧ Gives (readG (.g 3)) (sAt 0x40) 0 (sAt 0x40)) ∧
    (∃ s : State, Ready hd s ∧ Gives (readG (.g 2)) s 2 s ∧ s.cbufAt s.cctx s.ccl 3 = some cb0 ∧ cb0.cnt ≤ (2 : Word).toNat) ∧
    s0b.cbufAt s0b.cctx s0b.ccl 0 = none ∧ cb0.fill < (2 : BitVec 32).toNat :=
  ⟨⟨_, rfl, rfl⟩, rfl, rfl, by decide, ⟨rfl, by decide, rfl⟩,
    ⟨{ s0b with acts := [(sid0, { Act.blank with g := Act.blank.g.set 2 2 })] }, ⟨_, rfl, rfl⟩, rfl, rfl, by decide⟩, rfl, by decide⟩

/-- A descriptor of a kind that there is not; the copy of an activation under lockstitch submits. -/
def s0lk : State := { s0d loopMem with ctxs := [(0, { running := true, lockstitch := true })], seams := [{ primary := sidS, secondary := sid0 }] }
theorem test_wit_GraphInstructions_parks : ((s0d [(0, 4)]).act.str (s0d [(0, 4)]).cur.stream).answer = none ∧ 
    (∃ d s2, Gives (loadM clm0 192 false) (s0d [(0, 4)]) d s2 ∧ (s2.submitCause s2.cctx d == some 2 && decide (3 < fieldLE d 0 1)) = true) ∧
    s0lk.isCopy = true ∧ ∃ d s2 s3, Gives (loadM clm0 192 false) s0lk d s2 ∧
      (s2.submitCause s2.cctx d == none && s2.isCopy) = true ∧ Gives commitM s2 () s3 := by
  refine ⟨rfl, ?_, by decide +kernel, ?_⟩
  · obtain ⟨d, s2, s3, h1, h2, _⟩ := load_then (m := loadM clm0 192 false)
      (p := fun d s => s.submitCause s.cctx d == some 2 && decide (3 < fieldLE d 0 1)) (k := fun _ => pure ()) (s := s0d [(0, 4)]) (by decide +kernel)
    exact ⟨d, s2, h1, h2⟩
  · obtain ⟨d, s2, s3, h1, h2, h3⟩ := load_then (m := loadM clm0 192 false)
      (p := fun d s => s.submitCause s.cctx d == none && s.isCopy) (k := fun _ => commitM) (s := s0lk) (by decide +kernel)
    exact ⟨d, s2, s3, h1, h2, h3⟩

/-- A fetch from where no instruction lies, beyond 2^55, from a page without a translation, and across domains. -/
theorem test_wit_StepRunsDecoded_faults : 120 ≤ (120 : Word).toNat % 128 ∧ 2 ^ 55 ≤ clm0.toNat ∧ clm0.toNat % 128 < 120 ∧ clm0.toNat % 128 % 12 = 0 ∧
    State.reset.xlatOr none 0 0 (0 : Word).toNat = none ∧ s0g.xlatOr none 0 0 (0x10000 : Word).toNat = some page1 ∧
    (∃ (s : State) (l : ILine), s.xlatOr none 0 0 (0x10000 : Word).toNat = some page1 ∧
      icTouch (s.hwAt 0).icache (page1.phys (0x10000 : Word).toNat / 128) = some l ∧ fieldLE l.data 120 8 = 0 ∧
      (s.ctxAt 0).entryCause 1 page1.dom .transfer (BitVec.ofNat 96 (fieldLE l.data (page1.phys (0x10000 : Word).toNat % 128) 12)) = some 1) ∧
    (Arrival.transfer ≠ .retd ∧ (0 : BitVec 6) ≠ 1) ∧ (0xC00000000000000000000000 : IWord).extractLsb' 88 8 = 0xC0 ∧
    (0xC00000000000000000000000 : IWord).getLsbD 0 = false ∧ (0xC00000000000000000000000 : IWord).getLsbD 1 = false ∧
    (0xC00000000000000000000003 : IWord).getLsbD 1 = true := by
  refine ⟨by decide, by decide, by decide, by decide, rfl, by decide +kernel,
    ⟨{ s0g with coreHw := [(0, { tlb := [page1], icache := [{ line := 512, data := List.replicate 128 0 }] })] }, { line := 512, data := List.replicate 128 0 }, by decide +kernel,
      by decide +kernel, by decide +kernel, by decide +kernel⟩, ⟨nofun, by decide⟩, by decide, by decide, by decide, by decide⟩
def s0bt (pc : Word) : State := { withAct { Act.blank with main := { pc, fromDom := 0, arrival := .handler } } with power := .booted }
theorem test_wit_StepRunsDecoded_stops (pc : Word) : (s0bt pc).power = .booted ∧ (s0bt pc).agenda = [] ∧ (s0bt 0).nextCandidate = some (sid0, .main) ∧
    (s0bt 120).nextCandidate = some (sid0, .main) ∧ (s0bt pc).act.main.fetched = none ∧
    (∃ s1, (s0bt 0).fetch 0 0 0 .handler 0 0 none none = (.walk 0, s1)) ∧
    ∃ n s1, (s0bt 120).fetch 0 0 0 .handler 0 120 none none = (.fault n, s1) :=
  ⟨rfl, rfl, by decide +kernel, by decide +kernel, rfl, ⟨_, rfl⟩, _, _, rfl⟩

/-- Local and global addresses that are probed: with a translation, and without one that has been asked for. -/
theorem test_wit_FencesAndCaches_probes : (∀ a ∈ [clm0.toNat], 2 ^ 55 ≤ a) ∧ (∀ a ∈ [0x10000], a < 2 ^ 55 → s0g.xlat s0g.cctx s0g.ccore a ≠ none) ∧
    (0x10000 < 2 ^ 55 ∧ s0.xlat s0.cctx s0.ccore 0x10000 = none ∧ (s0.act.str s0.cur.stream).given = none ∧ (s0.act.str s0.cur.stream).skip = [] ∧
      s0.walkSeq s0.cctx s0.ccl (0x10000 / 65536) = none) ∧
    (∃ t, Gives (probeM (((rangeAddrs (withLocal memF2.loc (clm0 + memF2.disp.signExtend 64)).toNat 1)).getD [])) s0m () t) ∧
    (∃ t, Gives (probeM [clm0.toNat]) s0m () t) ∧
    ∃ p ∈ (withAct { Act.blank with checks := [pst] }).act.checks, p.stream = (withAct { Act.blank with checks := [pst] }).cur.stream ∧
      (clm0.toNat, (7 : Byte)) ∈ p.bytes ∧ 2 ^ 55 ≤ clm0.toNat := by
  refine ⟨?_, ?_, ?_, ?_, ?_, _, List.mem_cons_self, rfl, List.mem_cons_self, by decide⟩
  · decide
  · decide +kernel
  · decide +kernel
  · obtain ⟨⟨⟩, t, h⟩ := gives_of_runs (m := probeM (((rangeAddrs (withLocal memF2.loc (clm0 + memF2.disp.signExtend 64)).toNat 1)).getD []))
      (s := s0m) (by decide +kernel)
    exact ⟨t, h⟩
  · obtain ⟨⟨⟩, t, h⟩ := gives_of_runs (m := probeM [clm0.toNat]) (s := s0m) (by decide +kernel)
    exact ⟨t, h⟩

/-- The copy of an activation under lockstitch sets no mailbox. -/
theorem test_wit_Mailboxes_copy : Ready hd s0lk ∧ s0lk.isCopy = true ∧ Gives (readG (.g 3)) s0lk 0 s0lk ∧
    (∀ x, (s0.ownBox 1).bobbin = some x → s0.bobbinGap s0.cctx s0.ccore x x.count = none) ∧ (s0.ownBox 1).limbo = [] ∧
    (s0r.ownBox 0).bobbin = some bob0 ∧ (∃ s : State, (s.ownBox 0).bobbin = some bob0 ∧ s.bobbinGap s.cctx s.ccore bob0 bob0.count = none) :=
  ⟨⟨_, rfl, rfl⟩, by decide +kernel, rfl, nofun, rfl, by decide +kernel,
    { s0r with coreHw := [(0, { tlb := [page1] })] }, by decide +kernel, by decide +kernel⟩

/-- A stream that waits where another PC is written; the last stop that Pelson awaits. -/
theorem test_wit_OtherActivations_pc : (12 : Word) ≠ (waiting (.waitc 1 5)).main.pc ∧ (waiting (.waitc 1 5)).main.wait ≠ .ended ∧
    (waiting (.waitc 1 5)).main.wait ≠ .seam ∧ s0k.actAt sid1 = some { Act.blank with park := true } := ⟨by decide, nofun, nofun, rfl⟩
theorem test_wit_TrapsPark_pelson : ({ msg3 with use := some .terminate } : Msg).use = some .terminate ∧ nodeOf 0 < 512 ∧ s0.update = none ∧
    ({ code := 0x0003 } : Notice).pages = [] := ⟨rfl, by decide, rfl, rfl⟩
theorem test_wit_Arrivals_notices : ({ msg3 with use := some .take } : Msg).use = some .take ∧ ({ msg3 with use := some .record } : Msg).use = some .record ∧
    ({ msg3 with use := some .stopped } : Msg).use = some .stopped ∧ s0ab.update = none ∧ (s0ab.ctxAt 0).running = true ∧ s0ab.allStopped 0 = true ∧
    s0ab.noticesComing 0 = false ∧ (s0r.mbxAt 0 0 0).pends q3 = false ∧ (s0r.mbxAt 0 0 0).limbo = [] ∧ (s0r.mbxAt 0 0 0).bobbin = some bob0 ∧
    bob0.count + (s0r.mbxAt 0 0 0).onWay < bob0.entries ∧ s0r.xlat 0 0 (bob0.entryAt (bob0.head + bob0.count)) = none := by
  refine ⟨rfl, rfl, rfl, rfl, rfl, ?_, ?_, ?_, rfl, rfl, ?_, ?_⟩ <;> decide +kernel

/-- A stream that waits for a probe's walk, and one that does not. -/
def s0pr : State := { s0 with acts := [(sid0, waiting (.probe 1))], clHw := [(0, { walks := [{ ctx := 0, granule := 1, acc := .probe, begun := true }] })] }
theorem test_wit_Walks_probes : s0pr.actAt sid0 = some (waiting (.probe 1)) ∧ sid0.ctx = 0 ∧ nodeOf sid0.core = 0 ∧ (waiting (.probe 1)).main.wait = .probe 1 ∧
    (waiting (.probe 1)).acc.wait ≠ .probe 1 ∧ s0pr.walkOf 0 0 1 = some { ctx := 0, granule := 1, acc := .probe, begun := true } ∧
    s0ai.walkOf 0 0 1 = some { ctx := 0, granule := 1, acc := .load, begun := true } ∧
    (∃ w ∈ (s0pr.clHwAt 0).walks, w.ctx = 0 ∧ w.granule = (0x10000 : Word).toNat / 65536 ∧ w.begun = true ∧ w.seq = none) ∧
    ∃ s1, s0pr.walkTable 0 ((0x10000 : Word).toNat / 65536 * 65536) = (.bad 0 3 0, s1) :=
  ⟨rfl, rfl, rfl, rfl, nofun, rfl, rfl, ⟨_, List.mem_cons_self, rfl, by decide, rfl, rfl⟩, pair_of (by decide +kernel)⟩

/-- A copy of 24 bytes from a TB6 window into CLM, four bytes into a block; one whose page has no translation; one that a range holds. -/
def copy6 : EngCmd := { ecmd with src := 0x10000, dst := 0x80000000010000, x := 24, pos := 4 }
def s0t6 : State := { s0gf 3 with coreCtx := [((0, 0), { copyQ := [copy6] })], clHw := [(0, { tlb := [page1] })] }
theorem test_wit_Units_blocks : copy6.ckpt = none ∧ copy6.idx = none ∧ copy6.pos < copy6.total ∧ copy6.y = 1 ∧ copy6.z = 1 ∧
    copy6.src.toNat + copy6.x ≤ 2 ^ 55 ∧ copy6.dst.toNat < 2 ^ 56 ∧ 2 ^ 55 ≤ copy6.dst.toNat ∧ copy6.dst.toNat + copy6.x ≤ 2 ^ 56 ∧
    s0t6.place (copy6.who 0 0) (0x10000 + 4) .read = .ok (.glob 0x10004 page1) ∧
    (s0t6.ctxAt (copy6.who 0 0).sid.ctx).fwinAt 0x10004 = some { fmt := 3, base := 0x10000, fin := 0x11000, sbase := 0 } ∧
    (∃ b e1 s1, State.moveSome 0 0 (s0t6.unitOf 0 0 copy6) s0t6 copy6 = (.byte b, e1, s1)) ∧
    ∃ g e1 s1, State.moveSome 0 0 (s0v.unitOf 0 0 copy6) s0v copy6 = (.wait g, e1, s1) :=
  ⟨rfl, rfl, by decide, rfl, rfl, by decide, by decide, by decide, by decide, rfl, by decide +kernel,
    ⟨0, _, _, Prod.ext (by decide +kernel) rfl⟩, 1, _, _, Prod.ext (by decide +kernel) rfl⟩

/-- A copy to a block of the tile store that a tile command entered before it is to read. -/
def copyT : EngCmd := { copy6 with src := clm0, dst := 0x80000010000000, pos := 0, issued := 5 }
def s0th : State := { s0 with coreCtx := [((0, 0), { tile := [{ tcmd with ranges := [(0, 127)] }], copyQ := [copyT] })] }
theorem test_wit_Units_held : ∃ e1 s1, State.moveSome 0 0 (s0th.unitOf 0 0 copyT) s0th copyT = (.held, e1, s1) :=
  ⟨_, _, Prod.ext (by decide +kernel) rfl⟩

/-- A put whose issuer lives. -/
theorem test_wit_Fabric_issuer : ∃ (r : PortReq) (i : Issuer), r.m.issuer = some i ∧ aadCore r.m.src = 0 ∧ i.slot % 8 = 0 ∧
    s0.actAt { ctx := r.ctx, core := aadCore r.m.src, slot := i.slot % 8 } = some Act.blank ∧ Act.blank.startAt = i.born :=
  ⟨{ q := 0, ctx := 0, m := { req0 with issuer := some { dom := 0, windows := [], aid := 1, slot := 0, born := 0 } } }, _, rfl, rfl, rfl, rfl, rfl⟩

/-- A label used in a section, and placed. -/
def planL : LaunchPlan := { plan0 with sections := [{ va := none, phys := 0x10000, kind := .data, dom := 0, bytes := List.replicate 16 0 }]
                                       labels := [{ place := .part 0 8 8, section_ := 0, offset := 4 }] }
theorem test_wit_Contexts_labels : planL.labels = [{ place := .part 0 8 8, section_ := 0, offset := 4 }] ∧ (∃ y, (planPlaces planL)[0]? = some y) ∧
    (∃ x, planL.sections[0]? = some x) ∧ 8 + 8 ≤ (List.replicate 16 (0 : Byte)).length ∧ ckcmd.cut = none ∧ (s0x.ctxAt 0).dones = [] ∧
    (s0x.ctxAt 0).reports = [] := by
  refine ⟨rfl, Option.isSome_iff_exists.mp ?_, ⟨_, rfl⟩, ?_, rfl, ?_, ?_⟩ <;> decide +kernel

/-! ## Witnesses of the clauses on waiting and closing -/

/-- The access stream waits at GSUB or CBWAIT with q1 as its destination. -/
def owing (w : Wait) : Act := { Act.blank with strm := true, acc := { pc := 0x120, fromDom := 0, arrival := .handler, wait := w } }
theorem test_wit_WriteOperand_owed : s0.act.owed s0.cur.stream ≠ some (.q 1) ∧ (s0.act.qg[(1 : BitVec 2).toNat]).length < 8 ∧
    (withAct (owing (.gsub (.q 1)))).act.owed (withAct (owing (.gsub (.q 1)))).cur.stream = some (.q 1) ∧ GQ.q 1 ≠ .g 0 ∧
    (owing (.gsub (.q 1))).acc.wait = .gsub (.q 1) ∧ (∃ cb n, (owing (.cbwait (.q 1) 3 0)).acc.wait = .cbwait (.q 1) cb n) := by
  refine ⟨by decide +kernel, by decide, by decide +kernel, nofun, rfl, 3, 0, rfl⟩
theorem test_wit_Synchronisation_push : Gives (firstPush (.g 3)) s0b () s0b ∧ Gives (firstPush (.q 3)) s0b () s0b := ⟨rfl, rfl⟩
/-- A quiet NaN as the addend. -/
theorem test_wit_Formats_fused : ((binFmt .f32).decode 0x7FC00000).isNan = true := by decide +kernel

/-- A bobbin whose messages wait for a page; none, on a core that is not closing one. -/
theorem test_wit_Mailboxes_closing : Ready hd s0r ∧ Gives (readG (.g 0)) s0r 0 s0r ∧ s0r.isCopy = false ∧
    (s0r.coreAt s0r.cctx s0r.ccore).closing = [] ∧ (s0r.ownBox 0).bobbin = some bob0 ∧ bob0.msgs ≠ [] ∧
    s0r.xlat s0r.cctx s0r.ccore (bob0.entryAt bob0.head) = none ∧ (s0.coreAt s0.cctx s0.ccore).closing = [] ∧
    (∀ x, (s0.ownBox 1).bobbin = some x → s0.bobbinGap s0.cctx s0.ccore x x.count = none ∧ (s0.ctxAt s0.cctx).running = true ∧
      (s0.coreAt s0.cctx s0.ccore).stopped = false) ∧
    ∃ s : State, (s.ownBox 0).bobbin = some bob0 ∧ s.bobbinGap s.cctx s.ccore bob0 bob0.count = none ∧ (s.ctxAt s.cctx).running = true ∧
      (s.coreAt s.cctx s.ccore).stopped = false :=
  ⟨⟨_, rfl, rfl⟩, rfl, rfl, by decide +kernel, by decide +kernel, by decide, by decide +kernel, by decide +kernel, fun _ h => (by cases h),
    { s0r with coreHw := [(0, { tlb := [page1] })] }, by decide +kernel, by decide +kernel, rfl, by decide +kernel⟩

/-- A store to 0x10000 under check, whose page is in the core's TLB. -/
def s0ck : State := { s0k with acts := [(sid0, { Act.blank with g := Act.blank.g.set 2 0x10000, checks := [{ pst with addr := 0x10000, bytes := [(0x10000, 7)] }] })]
                               coreHw := [(0, { tlb := [page1] })] }
theorem test_wit_SystemOthers_registers : (Ready hd s0k ∧ s0k.isPriv = true ∧ (s0k.act.getG 2).getLsbD 55 = false ∧
      (∀ cl ∈ s0k.tlbClusters .pkg, ¬ WalkInWay s0k cl (some (s0k.act.getG 2).toNat)) ∧ s0k.checksLeft (some (s0k.act.getG 2).toNat) = false ∧
      s0k.checksLeft none = false) ∧ (s0m.act.getG 2).getLsbD 55 = true ∧ (s0k.act.getG 3).toNat % 2 ^ 24 = 1 ∧
    (∃ s : State, Ready hd s ∧ s.isPriv = true ∧ s.isCopy = false ∧ (s.ctxAt s.cctx).svb ≤ (s.act.getG 2).toNat ∧
      (s.act.getG 2).toNat + (s.act.getG 3).toNat = (s.ctxAt s.cctx).svb + (s.ctxAt s.cctx).svl) :=
  ⟨⟨readyK, rfl, by decide +kernel, (fun _ _ ⟨_, hw, _⟩ => by cases hw), by decide +kernel, by decide +kernel⟩, by decide +kernel, by decide +kernel,
    withAct { Act.blank with g := (Act.blank.g.set 2 511).set 3 1 }, ⟨_, rfl, rfl⟩, rfl, rfl, by decide +kernel, by decide +kernel⟩
theorem test_wit_SystemOthers_checks : Ready hd s0ck ∧ s0ck.isPriv = true ∧ Gives (readG (.g 2)) s0ck 0x10000 s0ck ∧
    (0x10000 : Word).getLsbD 55 = false ∧ CheckInWay s0ck (some (0x10000 : Word).toNat) ∧ CheckInWay s0ck none ∧
    ∃ s : State, ∃ k ∈ s.acts, k.1.ctx = s.cctx ∧ ∃ p ∈ k.2.checks, p.held = true ∨ p.waits ≠ none := by
  refine ⟨⟨_, rfl, rfl⟩, rfl, rfl, by decide, ?_, ?_, withAct { Act.blank with checks := [{ pst with held := true }] }, _, List.mem_cons_self, rfl,
    _, List.mem_cons_self, .inl rfl⟩
  · exact ⟨_, List.mem_cons_self, rfl, _, List.mem_cons_self, rfl, rfl, _, List.mem_cons_self, by decide, page1, by decide +kernel, by decide +kernel⟩
  · exact ⟨_, List.mem_cons_self, rfl, _, List.mem_cons_self, rfl, rfl, _, List.mem_cons_self, by decide, page1, by decide +kernel, by decide +kernel⟩

/-- The start of the activation that `s0q` holds the message of; no bobbin of its core is closing. -/
theorem test_wit_Arrivals_start : s0q.actorAt 0 0 ((0 : BitVec 6).toNat / 4) = some kit ∧
    kit.handler ((0 : BitVec 6).extractLsb' 0 2) q3.m.cls = some (0x300, true) ∧ (s0r.coreAt 0 0).closing = [] ∧
    (s0r.mbxAt 0 0 0).kind = .queue := ⟨by decide +kernel, by decide +kernel, by decide +kernel, by decide +kernel⟩

/-- A store of the two last bytes of CLM behind an older one of the byte before them; one that has passed behind one of the same byte. -/
def pstO : PStore := { pst with id := 3, addr := 0x8000000001FFFD, bytes := [(2 ^ 55 + 131069, 6)] }
def pstN : PStore := { pstE with id := 4 }
def pstW : PStore := { pstE with id := 5, found := some (.pass []) }
theorem test_wit_ReleasesAndKills_order : (∃ s a, (s : State).actAt sid0 = some a ∧ a.checks = [pstO] ++ pstN :: [pstW]) ∧ pstN.found = none ∧
    (∀ q ∈ [pstO] ++ [pstW], q.held = false ∧ q.id ≠ pstN.id ∧ (q.id < pstN.id → (∀ x ∈ pstN.bytes, ∀ y ∈ q.bytes, x.1 ≠ y.1) ∧
      ((none : Option Scope) ≠ none → ∀ y ∈ q.bytes, y.1 < 2 ^ 55))) ∧
    (∃ s a, (s : State).actAt sid0 = some a ∧ a.checks.find? (fun k => k.id == pstW.id && !k.held) = some pstW ∧ pstN ∈ a.checks) ∧
    pstW.kind = .plain false none ∧ pstW.found = some (.pass []) ∧ pstN.held = false ∧ pstN.id < pstW.id ∧
    (∃ x ∈ pstW.bytes, ∃ y ∈ pstN.bytes, 2 ^ 55 ≤ x.1 ∧ x.1 = y.1) ∧ ∀ k ∈ [pstN, pstW], pstO.id < k.id := by
  refine ⟨⟨withAct { Act.blank with checks := [pstO, pstN, pstW] }, _, rfl, rfl⟩, rfl, by decide, ⟨withAct { Act.blank with checks := [pstN, pstW] }, _, rfl,
    by decide +kernel, by decide⟩, rfl, rfl, rfl, by decide, ⟨_, List.mem_cons_self, _, List.mem_cons_self, by decide, rfl⟩, by decide⟩

/-- The end of another partition's interval, and its start, in the way of one that is resized; a supervisor that moves. -/
theorem test_wit_Contexts_overlap : (∀ y ∈ s0ah.ctxs, y.2.terminated = false → y.1 ≠ 0 → (s0ah.ctxAt 0).svb + 1 ≤ y.2.svb ∨ y.2.svb + y.2.svl ≤ (s0ah.ctxAt 0).svb) ∧
    (∃ y ∈ s0ah.ctxs, y.2.terminated = false ∧ y.1 ∉ s0ah.siblings 0 ∧ (1 : Nat) < y.2.svb + y.2.svl ∧ y.2.svb < 1 + 1) ∧ 15 < 16 ∧ 8191 < 8192 ∧
    (s0.ctxAt 0).supv ≠ 0 ∧ aadCore (s0.ctxAt 0).supv = 1 ∧ aadActor (s0.ctxAt 0).supv = 0 := by
  refine ⟨by decide +kernel, ⟨_, List.mem_cons_of_mem _ List.mem_cons_self, ?_⟩, ?_⟩ <;> decide +kernel
/-- A byte of a source block that is already there; a copy into a TB6 window, four bytes into a block. -/
def copyG : EngCmd := { ecmd with got := [(clm0.toNat, 5), (clm0.toNat + 1, 6)] }
def copyD : EngCmd := { copy6 with src := clm0, dst := 0x10000 }
theorem test_wit_Units_destination : copyG.ckpt = none ∧ copyG.idx = none ∧ copyG.addrs = (clm0.toNat, 2 ^ 55 + 131071) ∧
    copyG.got = (clm0.toNat, 5) :: [(clm0.toNat + 1, 6)] ∧
    (∃ s2, s0v.engWrite 0 0 (copyG.who 0 0) copyG.refused copyG.issued copyG.since (2 ^ 55 + 131071) 5 = (.byte 5, s2)) ∧
    copyD.ckpt = none ∧ copyD.idx = none ∧ copyD.cb = none ∧ copyD.pos < copyD.total ∧ copyD.y = 1 ∧ copyD.z = 1 ∧
    copyD.dst.toNat + copyD.x ≤ 2 ^ 55 ∧ 24 ≤ copyD.dst.toNat + copyD.pos ∧
    s0t6.place (copyD.who 0 0) (0x10000 + 4) .write = .ok (.glob 0x10004 page1) ∧
    (s0t6.ctxAt (copyD.who 0 0).sid.ctx).fwinAt 0x10004 = some { fmt := 3, base := 0x10000, fin := 0x11000, sbase := 0 } :=
  ⟨rfl, rfl, by decide +kernel, rfl, ⟨_, Prod.ext (by decide +kernel) rfl⟩, rfl, rfl, rfl, by decide, rfl, rfl, by decide, by decide, rfl,
    by decide +kernel⟩

/-- A refusal that has come back, whole and trimmed. -/
theorem test_wit_Fabric_refusal : ({ sentF with kind := 0xF1 } : Frame).kind = 0xF1 ∧ ((s0u []).port 15).early { sentF with kind := 0xF1 } = false ∧
    ((s0u []).port 15).duplicate { sentF with kind := 0xF1 } = false ∧ ({ sentF with kind := 0xF1, trimmed := true } : Frame).trimmed = true := by
  refine ⟨?_, ?_, ?_, ?_⟩ <;> decide +kernel

/-- A submission that reaches the graph unit now: alone in its cycle, and beside an instruction. -/
def acc0 : Instr := .nodeAccept 0 [] 0 0 0 [] .none
theorem test_wit_StepRunsDecoded_behind : behindIssue acc0 = true ∧ behindIssue .svnRaise = false ∧
    (∃ s : State, s.agenda = [(0, acc0)] ∧ s.power = .booted ∧ s.nextCandidate = none) ∧
    (∀ e ∈ [((0 : Nat), acc0)], e.1 ≤ 0 → behindIssue e.2 = true) ∧
    ∃ s : State, s.agenda = [(0, acc0)] ∧ s.power = .booted ∧ s.nextCandidate = some (sid0, .main) :=
  ⟨rfl, rfl, ⟨{ State.reset with power := .booted, agenda := [(0, acc0)] }, rfl, rfl, by decide +kernel⟩, by decide +kernel,
    { s0bt 0 with agenda := [(0, acc0)] }, rfl, rfl, by decide +kernel⟩

end Sys2Proof.Tests
end

section
/-! PROOF. The bytes of an instruction word (R26): byte b holds bits 8b+7:8b, and reading the 12 bytes back little-endian gives the word. -/

namespace Sys2Proof.Machine

theorem bytesLE_eq_map (n x : Nat) : bytesLE n x = (List.range n).map fun i => BitVec.ofNat 8 (x / 256 ^ i) := by
  induction n generalizing x with
  | zero => rfl
  | succ n ih =>
    simp only [bytesLE, ih, List.range_succ_eq_map, List.map_cons, List.map_map, Nat.pow_zero, Nat.div_one, List.cons.injEq, true_and]
    refine List.map_congr_left fun i _ => ?_
    rw [Function.comp_apply, Nat.div_div_eq_div_mul, Nat.succ_eq_add_one, Nat.pow_succ']

theorem ofBytesLE_eq_foldr (bs : List Byte) : ofBytesLE bs = bs.foldr (fun b acc => b.toNat + 256 * acc) 0 := by
  induction bs with
  | nil => rfl
  | cons b t ih => simp only [ofBytesLE, List.foldr_cons, ih]

@[simp] theorem ofBytesLE_bytesLE (n x : Nat) : ofBytesLE (bytesLE n x) = x % 256 ^ n := by
  induction n generalizing x with
  | zero => simp [bytesLE, ofBytesLE, Nat.mod_one]
  | succ n ih => rw [bytesLE, ofBytesLE, ih, Nat.pow_succ', Nat.mod_mul, BitVec.toNat_ofNat]

end Sys2Proof.Machine

namespace Sys2Proof
open Machine

theorem wordOfBytes_eq_ofBytesLE (bs : List Byte) : wordOfBytes bs = BitVec.ofNat 96 (ofBytesLE bs) := by
  rw [wordOfBytes, ofBytesLE_eq_foldr]

theorem bytesOfWord_eq_bytesLE (w : IWord) : bytesOfWord w = bytesLE 12 w.toNat := by
  rw [bytesOfWord, bytesLE_eq_map]
  refine List.map_congr_left fun i _ => ?_
  rw [BitVec.extractLsb', Nat.shiftRight_eq_div_pow, Nat.pow_mul, show 2 ^ 8 = 256 from rfl]

@[simp] theorem bytesOfWord_length (w : IWord) : (bytesOfWord w).length = 12 := by simp [bytesOfWord]

theorem bytesOfWord_getElem? (w : IWord) {b : Nat} (hb : b < 12) : (bytesOfWord w)[b]? = some (w.extractLsb' (8 * b) 8) := by
  simp [bytesOfWord, hb]

@[simp] theorem wordOfBytes_bytesOfWord (w : IWord) : wordOfBytes (bytesOfWord w) = w := by
  have range : w.toNat < 256 ^ 12 := w.isLt
  rw [wordOfBytes_eq_ofBytesLE, bytesOfWord_eq_bytesLE, ofBytesLE_bytesLE, Nat.mod_eq_of_lt range, BitVec.ofNat_toNat,
    BitVec.setWidth_eq]

/-- The 12 bytes are taken off the front, whatever follows them, and decode as their word does, refusals included. -/
theorem decodeBytes_bytesOfWord_append (w : IWord) (l : List Byte) :
    decodeBytes (bytesOfWord w ++ l) = (decodeWord w).map fun i => (i, l) := by
  have front : (bytesOfWord w ++ l).take 12 = bytesOfWord w := List.take_left' (bytesOfWord_length w)
  have rest : (bytesOfWord w ++ l).drop 12 = l := List.drop_left' (bytesOfWord_length w)
  unfold decodeBytes
  rw [front, rest, wordOfBytes_bytesOfWord]
  cases decodeWord w <;> rfl

/-- Settles O56: byte by byte from `bytesOfWord`; the decoding from the little-endian round trip of the word; the words
of the manual by running the decoder. -/
theorem instructionBytes : Obligations.InstructionBytes := by
  refine ⟨fun w => ⟨bytesOfWord_length w, fun b hb => bytesOfWord_getElem? w hb⟩, ?bytes, ?words⟩
  case bytes =>
    intro w i l hw
    rw [decodeBytes_bytesOfWord_append, hw]
    rfl
  case words => exact ⟨rfl, rfl, rfl, rfl, rfl, rfl, rfl, rfl, rfl⟩

end Sys2Proof
end

section
/-! PROOF. The two-source integer family (R70, R71): it runs through `alu2`, so each instruction turns on the value of its operation
alone, and where the model computes that value another way than the manual writes it, a lemma says that the two agree. -/

namespace Sys2Proof.Machine

/-- With its guard true and its operands at hand, the family writes the n-bit result extended (R70). -/
theorem alu2_gives {f : {n : Nat} → BitVec n → BitVec n → BitVec n} {h : Hdr} {sz : Size} {u : Bool} {a b : GQ} {c : Src2}
    {x y : Word} {s s1 s2 s3 : State} (ready : Ready h s) (first : Gives (readG b) s x s1) (second : Gives (readSrc2 c) s1 y s2)
    (write : Gives (writeG a (extend u (f (lowBits sz.bits x) (lowBits sz.bits y)))) s2 () s3) :
    alu2 h sz u a b c f s = .next (s3.retire h) :=
  instr_gives ready (bind_gives first (bind_gives second write))

/-! ## The operations, as the manual writes them -/

variable {n : Nat} (x y : BitVec n)

theorem mulHigh_eq_ofInt_div : mulHigh x y = BitVec.ofInt n (x.toInt * y.toInt / 2 ^ n) := by
  simp [mulHigh, Int.shiftRight_eq_div_pow]

theorem mulHighU_eq_ofNat_div : mulHighU x y = BitVec.ofNat n (x.toNat * y.toNat / 2 ^ n) := by
  rw [mulHighU, Nat.shiftRight_eq_div_pow]

theorem divU_eq_ofNat_div : divU x y = if y = 0 then BitVec.allOnes n else BitVec.ofNat n (x.toNat / y.toNat) := by
  rw [divU, BitVec.udiv_def]

theorem remU_eq_ofNat_mod : remU x y = if y = 0 then x else BitVec.ofNat n (x.toNat % y.toNat) := by
  rw [remU, BitVec.umod_def]

theorem sshiftRight_eq_ofInt_div (k : Nat) : x.sshiftRight k = BitVec.ofInt n (x.toInt / 2 ^ k) := by
  simp [BitVec.sshiftRight, Int.shiftRight_eq_div_pow]

theorem rotateLeft_mod_eq_or (k : Nat) : x.rotateLeft (k % n) = x <<< (k % n) ||| x >>> (n - k % n) := by
  rw [BitVec.rotateLeft_mod_eq_rotateLeft, BitVec.rotateLeft_def]

/-- The comparison of MIN and MAX, unsigned or signed, holds where the reverse order does not. -/
theorem less_iff_not_le (u : Bool) :
    (if u then x.ult y else x.slt y) = true ↔ ¬ (if u then decide (y.toNat ≤ x.toNat) else decide (y.toInt ≤ x.toInt)) = true := by
  cases u with
  | false => simp [BitVec.slt_eq_decide]
  | true => simp [BitVec.ult_eq_decide]

theorem minBV_eq_ite_le (u : Bool) :
    minBV u x y = if (if u then decide (x.toNat ≤ y.toNat) else decide (x.toInt ≤ y.toInt)) then x else y := by
  simp only [minBV, less_iff_not_le, ite_not]

theorem maxBV_eq_ite_le (u : Bool) :
    maxBV u x y = if (if u then decide (y.toNat ≤ x.toNat) else decide (y.toInt ≤ x.toInt)) then x else y := by
  simp only [maxBV, less_iff_not_le, ite_not]

end Sys2Proof.Machine

namespace Sys2Proof
open Machine

section
variable {mk : Hdr → Size → Bool → GQ → GQ → Src2 → Instr} {f g : (n : Nat) → Bool → BitVec n → BitVec n → BitVec n}

/-- An instruction that `exec` hands to the family with the operation `f` completes with the results of `f`. -/
theorem twoSource_of_alu2
    (run : ∀ h sz u a b c s, exec (mk h sz u a b c) s = Machine.alu2 h sz u a b c (fun {n} => f n u) s) : TwoSource mk f := by
  intro h sz u a b c x y s s1 s2 s3 ready first second write
  rw [run]
  exact alu2_gives ready first second write

/-- What completes with the results of `f` completes with those of a `g` that has the same values at every width. -/
theorem twoSource_congr (results : TwoSource mk f) (value : ∀ n u (x y : BitVec n), f n u x y = g n u x y) : TwoSource mk g := by
  have same : f = g := funext fun n => funext fun u => funext fun x => funext fun y => value n u x y
  exact same ▸ results

end

/-- Settles O7: every instruction of the family is `alu2` with its operation, and the operation has the value the manual gives;
the borderline cases of division are cases of the values of `divS`, `divU`, `remS` and `remU`. -/
theorem twoSourceResults : Obligations.TwoSourceResults := by
  refine ⟨?add, ?sub, ?mul, ?mulh, ?mulhu, ?div, ?divu, ?rem, ?remu, ?and, ?or, ?xor, ?andn, ?shl, ?shr, ?sar, ?rot, ?min, ?max⟩
  case mulh =>
    have run : TwoSource .mulh fun _ _ => mulHigh := twoSource_of_alu2 fun _ _ _ _ _ _ _ => rfl
    exact twoSource_congr run fun _ _ => mulHigh_eq_ofInt_div
  case mulhu =>
    have run : TwoSource .mulhu fun _ _ => mulHighU := twoSource_of_alu2 fun _ _ _ _ _ _ _ => rfl
    exact twoSource_congr run fun _ _ => mulHighU_eq_ofNat_div
  case divu =>
    have run : TwoSource .divu fun _ _ => divU := twoSource_of_alu2 fun _ _ _ _ _ _ _ => rfl
    exact twoSource_congr run fun _ _ => divU_eq_ofNat_div
  case remu =>
    have run : TwoSource .remu fun _ _ => remU := twoSource_of_alu2 fun _ _ _ _ _ _ _ => rfl
    exact twoSource_congr run fun _ _ => remU_eq_ofNat_mod
  case sar =>
    have run : TwoSource .sar fun n _ x y => x.sshiftRight (y.toNat % n) := twoSource_of_alu2 fun _ _ _ _ _ _ _ => rfl
    exact twoSource_congr run fun n _ x y => sshiftRight_eq_ofInt_div x (y.toNat % n)
  case rot =>
    have run : TwoSource .rot fun n _ x y => x.rotateLeft (y.toNat % n) := twoSource_of_alu2 fun _ _ _ _ _ _ _ => rfl
    exact twoSource_congr run fun _ _ x y => rotateLeft_mod_eq_or x y.toNat
  case min =>
    have run : TwoSource .min fun _ u => minBV u := twoSource_of_alu2 fun _ _ _ _ _ _ _ => rfl
    exact twoSource_congr run fun _ u x y => minBV_eq_ite_le x y u
  case max =>
    have run : TwoSource .max fun _ u => maxBV u := twoSource_of_alu2 fun _ _ _ _ _ _ _ => rfl
    exact twoSource_congr run fun _ u x y => maxBV_eq_ite_le x y u
  -- The others are the manual's operation as it stands, DIV and REM (`divS`, `remS`) among them.
  all_goals exact twoSource_of_alu2 fun _ _ _ _ _ _ _ => rfl

end Sys2Proof
end

section
/-! PROOF. The rules of v operands (R43, R88-R91): what a read and a write of an unbound v register and of a queue register do, what a
masked write leaves in each lane, and the elements of lanes that are joined from lists of elements. -/

namespace Sys2Proof.Machine

/-! ## Lanes and elements (R89) -/

theorem lane_eq_getElem (v : VReg) (j : Fin 16) : lane v j = v[j] := by simp [lane]

@[simp] theorem getElem_vmk (f : Nat → BitVec 32) (j : Fin 16) : (vmk f)[j] = f j := by simp [vmk]

theorem lane_vmk (f : Nat → BitVec 32) {j : Nat} (hj : j < 16) : lane (vmk f) j = f j := by simp [lane, vmk, hj]

/-- The number whose digits to the base 2^n are the given elements, the first one lowest: `joinLane` holds its low 32 bits. -/
def packed (n : Nat) (l : List Nat) : Nat := l.foldr (fun x acc => acc <<< n + x % 2 ^ n) 0

section
variable {n : Nat} {l : List Nat}

theorem packed_cons (n x : Nat) (l : List Nat) : packed n (x :: l) = 2 ^ n * packed n l + x % 2 ^ n := by
  rw [Nat.mul_comm, ← Nat.shiftLeft_eq]
  rfl

theorem packed_cons_mod (n x : Nat) (l : List Nat) : packed n (x :: l) % 2 ^ n = x % 2 ^ n := by
  rw [packed_cons, Nat.mul_add_mod, Nat.mod_mod]

theorem packed_cons_shiftRight (n x : Nat) (l : List Nat) : packed n (x :: l) >>> n = packed n l := by
  rw [packed_cons, Nat.shiftRight_eq_div_pow, Nat.mul_add_div (Nat.two_pow_pos n),
    Nat.div_eq_of_lt (Nat.mod_lt x (Nat.two_pow_pos n)), Nat.add_zero]

theorem packed_lt (n : Nat) (l : List Nat) : packed n l < 2 ^ (n * l.length) := by
  induction l with
  | nil => exact Nat.two_pow_pos _
  | cons x l ih =>
    rw [List.length_cons, Nat.mul_succ, Nat.pow_add, ← Nat.div_lt_iff_lt_mul (Nat.two_pow_pos n), ← Nat.shiftRight_eq_div_pow,
      packed_cons_shiftRight]
    exact ih

theorem packed_field {r : Nat} (hr : r < l.length) : packed n l >>> (n * r) % 2 ^ n = l[r] % 2 ^ n := by
  induction l generalizing r with
  | nil => exact absurd hr (Nat.not_lt_zero r)
  | cons x l ih =>
    cases r with
    | zero => exact packed_cons_mod n x l
    | succ r =>
      rw [Nat.mul_succ, Nat.add_comm, Nat.shiftRight_add, packed_cons_shiftRight, ih (Nat.lt_of_succ_lt_succ hr),
        List.getElem_cons_succ]

/-- Element r of a lane lies at its bits n r + n - 1 to n r. -/
theorem joinLane_field (fit : n * l.length ≤ 32) {r : Nat} (hr : r < l.length) :
    (joinLane n l).toNat >>> (n * r) % 2 ^ n = l[r] % 2 ^ n := by
  have bound : packed n l < 2 ^ 32 := Nat.lt_of_lt_of_le (packed_lt n l) (Nat.pow_le_pow_right Nat.zero_lt_two fit)
  have value : (joinLane n l).toNat = packed n l := Nat.mod_eq_of_lt bound
  rw [value, packed_field hr]

/-- Where every lane holds m elements of one value, every element has that value. -/
theorem elem_vmk_joinLane_replicate {m x i : Nat} (lanes : n * m = 32) (hi : i < 16 * m) :
    elem n (vmk fun _ => joinLane n (List.replicate m x)) i = x % 2 ^ n := by
  have hm : 0 < m := Nat.pos_of_ne_zero fun e => by simp [e] at hi
  have hn : 0 < n := Nat.pos_of_ne_zero fun e => by simp [e] at lanes
  have field : i % m < (List.replicate m x).length := by simpa using Nat.mod_lt i hm
  have fit : n * (List.replicate m x).length ≤ 32 := by
    rw [List.length_replicate]
    exact Nat.le_of_eq lanes
  have position : i * n = n * (i % m) + 32 * (i / m) := by
    rw [← lanes, Nat.mul_assoc, ← Nat.mul_add, Nat.mod_add_div, Nat.mul_comm]
  have inLane : n * (i % m) < 32 := lanes ▸ Nat.mul_lt_mul_of_pos_left (Nat.mod_lt i hm) hn
  have laneIx : i * n / 32 = i / m := by omega
  have bitIx : i * n % 32 = n * (i % m) := by omega
  have laneLt : i / m < 16 := Nat.div_lt_of_lt_mul (Nat.mul_comm 16 m ▸ hi)
  rw [elem, laneIx, bitIx, lane_vmk _ laneLt, joinLane_field fit field, List.getElem_replicate]

end

/-! ## The present activation alone -/

theorem onlyAct_modAct (s : State) (f : Act → Act) : OnlyAct s (s.modAct f) := ⟨rfl, fun _ other => modAct_actAt_ne s f other.symm⟩

theorem setV_v_self (a : Act) (i : BitVec 5) (x : VReg) : (a.setV i x).v[i.toNat] = x := by simp [Act.setV]

theorem setV_v_ne (a : Act) {i j : BitVec 5} (x : VReg) (other : j ≠ i) : (a.setV i x).v[j.toNat] = a.v[j.toNat] :=
  Vector.getElem_set_ne i.isLt j.isLt fun e => other (BitVec.eq_of_toNat_eq e.symm)

/-! ## v operands (R43, R88) -/

theorem QEntry.ready_iff {α : Type} {e : QEntry α} {s : State} : e.ready s = true ↔ e.by_ = s.cur.stream ∨ e.at_ + 2 ≤ s.cycle := by
  simp [QEntry.ready]

section
variable {s : State}

theorem readV_v {i : BitVec 5} (unbound : s.act.boundTo i = none) : Gives (readV (.v i)) s s.act.v[i.toNat] s := by
  refine bind_gives (run_asks _ s) ?_
  rw [unbound]
  exact run_asks _ s

theorem readV_q {i : BitVec 2} {w : QEntry VReg} {l : List (QEntry VReg)} (oldest : s.act.qv[i.toNat] = w :: l)
    (ready : w.ready s = true) : Gives (readV (.q i)) s w.val (s.modAct fun a => { a with qv := a.qv.set i.toNat l }) := by
  simp [Gives, readV, StateT.run, oldest, ready]

/-- A queue register with no entry that the stream may pop, be it empty or its oldest entry too young, holds the stream. -/
theorem readV_q_stops {i : BitVec 2} (young : ∀ w l, s.act.qv[i.toNat] = w :: l → w.ready s = false) :
    Stops (readV (.q i)) s (.hold 8) := by
  cases queue : s.act.qv[i.toNat] with
  | nil => simp [Stops, readV, StateT.run, queue]
  | cons w l => simp [Stops, readV, StateT.run, queue, young w l queue]

theorem writeV_v {i : BitVec 5} (v : VReg) (unbound : s.act.boundTo i = none) :
    Gives (writeV (.v i) v) s () (s.modAct fun a => a.setV i v) := by
  refine bind_gives (run_asks _ s) ?_
  rw [unbound]
  exact run_changeAct _ s

theorem writeV_q {i : BitVec 2} (v : VReg) (room : (s.act.qv[i.toNat]).length < 4) :
    Gives (writeV (.q i) v) s () (s.modAct fun a => { a with qv := a.qv.set i.toNat (a.qv[i.toNat] ++ [s.entry v]) }) := by
  simp [Gives, writeV, StateT.run, Nat.not_le_of_lt room]

theorem writeV_q_stops {i : BitVec 2} (v : VReg) (full : 4 ≤ (s.act.qv[i.toNat]).length) :
    Stops (writeV (.q i) v) s (.hold 8) := by
  simp [Stops, writeV, StateT.run, full]

/-- The lanes that a masked write leaves, from the new and the old ones (R90). -/
def maskedLanes (k : BitVec 16) (z : Bool) (v old : VReg) : VReg :=
  vmk fun j => if active k j then lane v j else if z then 0 else lane old j

theorem getElem_maskedLanes (k : BitVec 16) (z : Bool) (v old : VReg) (j : Fin 16) :
    (maskedLanes k z v old)[j] = if k.getLsbD j then v[j] else if z then 0 else old[j] := by
  rw [maskedLanes, getElem_vmk, lane_eq_getElem, lane_eq_getElem, active]

theorem writeMasked_v {i : BitVec 5} (k : BitVec 16) (z : Bool) (v : VReg) (unbound : s.act.boundTo i = none) :
    Gives (writeMasked (.v i) k z v) s () (s.modAct fun a => a.setV i (maskedLanes k z v s.act.v[i.toNat])) := by
  have old : Gives (oldV (.v i)) s s.act.v[i.toNat] s := by simp [Gives, oldV, unbound]
  exact bind_gives old (writeV_v _ unbound)

end

theorem readVSrc_bc {n : Nat} {x : GQ} {w : Word} {s t : State} (source : Gives (readG x) s w t) :
    Gives (readVSrc n (.bc x)) s (vmk fun _ => joinLane n (List.replicate (32 / n) (w.toNat % 2 ^ n))) t :=
  bind_gives source (gives_pure _ t)

end Sys2Proof.Machine

namespace Sys2Proof
open Machine

/-- Settles O23: each clause from the rule of its operation; the broadcast from the elements of lanes that hold one list, since n
divides a lane for every element width. -/
theorem vectorOperands : Obligations.VectorOperands := by
  intro s
  refine ⟨fun i => readV_v, ?pop, ?empty, ?young, ?push, ?full, ?masked, ?broadcast⟩
  case pop => exact fun i w l oldest old => readV_q oldest (QEntry.ready_iff.2 old)
  case empty => exact fun i empty => ⟨8, readV_q_stops fun w l e => nomatch empty.symm.trans e⟩
  case young =>
    intro i w l oldest other early
    refine ⟨8, readV_q_stops fun w' l' e => ?_⟩
    obtain ⟨rfl, rfl⟩ := List.cons.inj (oldest.symm.trans e)
    exact Bool.eq_false_iff.2 fun ready => (QEntry.ready_iff.1 ready).elim other (Nat.not_le_of_lt early)
  case push =>
    intro i v room
    refine ⟨_, writeV_q v room, ?_, fun j other => ?_, ?_, onlyAct_modAct s _⟩
    · simp [State.entry]
    · rw [modAct_act]
      exact Vector.getElem_set_ne i.isLt j.isLt fun e => other (BitVec.eq_of_toNat_eq e.symm)
    · rw [modAct_act]
  case full => exact fun i v full => ⟨8, writeV_q_stops v full⟩
  case masked =>
    intro i k z v unbound
    refine ⟨_, writeMasked_v k z v unbound, fun j => ?_, fun j other => ?_, ?_, onlyAct_modAct s _⟩
    · rw [modAct_act, setV_v_self, getElem_maskedLanes]
    · rw [modAct_act, setV_v_ne _ _ other]
    · rw [modAct_act]
      rfl
  case broadcast =>
    intro x w t n width source
    have lanes : n * (32 / n) = 32 := by rcases width with rfl | rfl | rfl <;> rfl
    have count : 512 / n = 16 * (32 / n) := by rcases width with rfl | rfl | rfl <;> rfl
    refine ⟨_, readVSrc_bc source, fun i hi => ?_⟩
    rw [elem_vmk_joinLane_replicate lanes (count ▸ hi), Nat.mod_mod]

end Sys2Proof
end
